-- ==== Sys2Proof/Word.lean ====
section
/-!
DEFINITION. The words of the Flaxus 960: bytes, data words, rows, addresses and their plainest
arithmetic (spec/00_scope.md R3 to R5, R9).
-/
namespace Sys2Proof

/-- A byte, 8 bits (R5). -/
abbrev Byte := BitVec 8
/-- A data word, 32 bits (R5). -/
abbrev Word := BitVec 32
/-- An instruction word, 64 bits (R5). -/
abbrev DWord := BitVec 64
/-- A row: 256 bytes, 64 lanes of 32 bits, lane 0 in the low bits (R4, R5). -/
abbrev Row := BitVec 2048
/-- A module physical address, 48 bits (R25, R89). -/
abbrev Mpa := BitVec 48
/-- A virtual address, 60 bits (R25, R96). -/
abbrev Va := BitVec 60
/-- A 48-bit accumulator element (R121). -/
abbrev Acc := BitVec 48
/-- A word index in the 4 MiB instruction store (R245). -/
abbrev Pc := BitVec 19

end Sys2Proof
end

