-- ==== Sys2Proof/Config.lean ====
section
/-!
DEFINITION. What the spec leaves open: uninterpreted constants that nothing can evaluate, so that every claim
holds whatever their values are (see the assumption log: 4, 6, 10, 11, 34, 43, 49, 50), and the figures of the module.
-/
namespace Sys2Proof.Config

/-- Which of the enabled steps of unarchitected time comes next (log 4), by the counter of free values. -/
opaque oracle : Nat → Nat

/-- A value the spec leaves undefined (log 6), by the counter of free values. -/
opaque freeValue : Nat → BitVec 64

/-- The path of R147 between mesh ports (tile port 16t + p, fibre port 512 + f), from a source to its destinations, by
the stages in service, the unusable elements and the preference 0 primary, 1 and 2 alternates: the switch elements
(stage x 288 + element) with their settings. The manual says that this is a fixed function and does not give it
(log 10). -/
opaque meshPath : (stages : BitVec 21) → (unusable : List Nat) → (src : Nat) → (dsts : List Nat) → (pref : Nat) →
  List (Nat × Bool)

/-- The time of flight in rc between two mesh ports, from the first to the second, on a path as one setting of it made it
(R504; log 43). -/
opaque flight : (path : Nat) → (src : Nat) → (dst : Nat) → Nat

/-- Whether a signature over an image verifies under the public key in ROM: XMSS-SHAKE256_20_256, which the spec takes from
its standard (R44; log 11). -/
opaque xmssGood : (image : List Byte) → (sig : List Byte) → Bool

/-- Byte i after the index of the XMSS signature of R45 and R47 over a report under a leaf index: randomness, WOTS+ chain
values and authentication path (log 11). -/
opaque xmssByte : (leaf : Nat) → (report : List Byte) → Nat → Byte

/-- The word of the read-only copies of the event counters at an offset of their block: the tile, the counter and whether it
is the high half; the spec gives the block's size and no layout (R30; log 49). -/
opaque counterCopy : Nat → Option (Nat × Nat × Bool)

/-- The place in host space where the memory processor maps a range of a task's lease, by task id, task tile index and virtual
address; none for a range that it places in HBM (R38, R99, R423, R502; log 50). -/
opaque hostHome : (id : Nat) → (tix : Nat) → (va : Nat) → Option Nat

/-- The rows that a tile's spill takes in HBM beside its live scratchpad rows (R85, R502; log 34). -/
opaque saveRows : Nat

/-- Byte i of the spill of a tile, by what is spilled, written out: what a save area holds of it and in which format is not
architected (R55, R85; log 34). -/
opaque saveByte : String → Nat → Byte

/-- Rows of a macro that a frozen MPLANT has not reached are undefined (R345): the element of column n and
depth k, by the counter of free values (log 6). -/
opaque unplanted : Nat → BitVec 16

/-- The checksum that the record of a failed carder block carries where none was computed, by the bytes of the block (R456; log 6). -/
opaque carderSum : List Nat → BitVec 16

/-- Switch elements per mesh stage (R13). -/
def elementsPerStage : Nat := 288

/-- Fibre port f as a mesh port number (R13). -/
def fibrePort (f : Nat) : Nat := 512 + f

/-- Port p of tile t as a mesh port number (R13). -/
def tilePort (t p : Nat) : Nat := 16 * t + p

/-- RAMPTAB of R222. -/
def rampTab : Nat → Nat
  | 0 => 4
  | 1 => 8
  | 2 => 12
  | 3 => 20
  | 4 => 28
  | 5 => 40
  | 6 => 52
  | _ => 64

end Sys2Proof.Config
end

