-- ==== Sys2Proof/Syntax.lean ====
section
/-!
DEFINITION. The instructions of the model: one constructor of Instr for each row of the opcode table.
Cluster words carry the fields of the five formats of spec/10_instruction_formats.md R232 and R233, rig
words those of R246 and R379, and machine events name the unit they act on. An operand code keeps its 7
bits here, because a reserved code is a legal word that faults only when it issues (R237, R477).
-/
namespace Sys2Proof

/-- The four clusters of a core, by the cluster code of R77: C = 0, V = 1, M = 2, E = 3. -/
inductive Cluster where
  | c | v | m | e
  deriving DecidableEq, Repr, Inhabited

/-- The cluster code of R77. -/
def Cluster.code : Cluster → Nat
  | .c => 0
  | .v => 1
  | .m => 2
  | .e => 3

/-- The cluster a code 0 to 3 names. -/
def Cluster.ofCode : Nat → Cluster
  | 0 => .c
  | 1 => .v
  | 2 => .m
  | _ => .e

/-- Physical tile number (R11, R12). -/
abbrev TileId := Fin 32
/-- Logical core number within a tile, also a leaf index (R11, R159). -/
abbrev CoreId := Fin 16
/-- Circuit handle number (R148). -/
abbrev HandleId := Fin 64
/-- Fibre port number (R12). -/
abbrev FibreId := Fin 64
/-- Tile port number (R15). -/
abbrev PortId := Fin 16
/-- BTE channel number (R353). -/
abbrev ChanId := Fin 8
/-- Reduction job id (R194). -/
abbrev JobId := Fin 16
/-- Collective entry index (R202). -/
abbrev EntryId := Fin 256
/-- Lamp number, and also a wavelength line L0 to L9 (R14, R144). -/
abbrev LampId := Fin 10
/-- Series string number (R11). -/
abbrev StringId := Fin 8
/-- Mesh stage number (R13). -/
abbrev StageId := Fin 21
/-- Dispatcher slot (R207). -/
abbrev SlotId := Fin 8
/-- Dispatcher priority queue (R207). -/
abbrev PrioId := Fin 8
/-- MSI-X vector (R33). -/
abbrev VectorId := Fin 2048

/-- The bits of a cluster word above bit 51 but for its opcode: S, GD and GN (R232). -/
structure Hdr where
  sync : Bool
  gd : BitVec 3
  gn : Bool
  deriving DecidableEq, Repr, Inhabited

/-- Format RR of R233. -/
structure RR where
  d : BitVec 7
  w : Bool
  a : BitVec 7
  b : BitVec 7
  c : BitVec 7
  f : BitVec 23
  deriving DecidableEq, Repr, Inhabited

/-- Format RI of R233. -/
structure RI where
  d : BitVec 7
  w : Bool
  a : BitVec 7
  f5 : BitVec 5
  imm : Word
  deriving DecidableEq, Repr, Inhabited

/-- Format MEM of R233. -/
structure MemF where
  d : BitVec 7
  w : Bool
  bp : BitVec 5
  sz : BitVec 3
  g : Bool
  ord : BitVec 2
  sc : BitVec 2
  x : BitVec 7
  off : BitVec 24
  deriving DecidableEq, Repr, Inhabited

/-- Format BR of R233; `z` is the field [40:32] that must be zero. -/
structure BrF where
  bk : BitVec 4
  a : BitVec 7
  z : BitVec 9
  disp : Word
  deriving DecidableEq, Repr, Inhabited

/-- Format ENG of R233; `md` is the MOD field. -/
structure EngF where
  we : Bool
  ws : BitVec 8
  se : Bool
  ss : BitVec 8
  a : BitVec 7
  b : BitVec 7
  c : BitVec 7
  md : BitVec 13
  deriving DecidableEq, Repr, Inhabited

/-- A rig-program word below its SOP: the handle field [57:52] and the body [51:0] (R246, R379). -/
structure RigW where
  hd : BitVec 6
  body : BitVec 52
  deriving DecidableEq, Repr, Inhabited

/-- The source of an inbound circuit: module, physical tile and handle there, and this end's leaf index
on a multicast tree (R159, R463). -/
structure Source where
  md : BitVec 10
  tile : TileId
  handle : HandleId
  leaf : Option CoreId
  deriving DecidableEq, Repr, Inhabited

/-- A message of a circuit: the descriptor of R154, its payload rows (a SHORT message carries its words in
the first row) and its side data (R153, R196). `errs` says what became of its flits on the way: by the place of the flit in
the message, that it was lost, or the bits of it that were turned over (R152, R449, R459, R463); `spoilt` that it was found
uncorrectable in the staging of its home, and `void` that its source has found it so before it was sent again, and that its home
counts it and performs nothing (R444; log 57). -/
structure Msg where
  seq : Word
  mpa : Mpa
  tag : Byte
  gen : Byte
  job : BitVec 4
  g : Bool
  op : BitVec 3
  nrow : BitVec 4
  pay : List Row
  side : List Word
  errs : List (Nat × Option (BitVec 576)) := []
  spoilt : Bool := false
  void : Bool := false
  deriving DecidableEq, Repr, Inhabited

/-- The fault codes of R408, and no others. -/
inductive FaultCode where
  | illegalOpcode | reservedOperand | latchInvalid | loopDepth | returnStack | srWrite | notInTrap
  | softwareTrap | safeptState | watchdog | exitMismatch | clusterDeadlock | heldOverflow
  | mpaHole | leaseViolation | windowWriteOnly | onDieReadonly | atomicPlace
  | semMode | semBusy | semOverflow | phaseOverflow
  | shapeStale | shapeBounds | matrixFormat | matrixShape | handlerMatrix | copyShape
  | carderChecksum | carderFormat | reduceMismatch | ctInvalid
  | circuitNotLive | pathBlocked | portBusy | handleBusy | routeMissing | rigInvalid | handleKind
  | rigIllegal | lampFail | lampSpareNone | ringDetune | mziFail | ackLost | allowanceAudit
  | flitMalformed | mcastPartial | windowRevoked | windowMismatch | groupInvalid | extPortLoss
  | extPeerAbsent | xportStatus | stringImbalance | tileBypassed | softCorrected | dataUncorrectable
  | hubFailure | coreFailed | linkDown | linkDegraded | apertureUnmapped
  | startLamp | startRing | startMesh | startCore | startTile
  deriving DecidableEq, Repr, Inhabited

/-- The 12-bit fault code of R408. -/
def FaultCode.num : FaultCode → BitVec 12
  | .illegalOpcode => 0x101
  | .reservedOperand => 0x102
  | .latchInvalid => 0x103
  | .loopDepth => 0x104
  | .returnStack => 0x105
  | .srWrite => 0x106
  | .notInTrap => 0x107
  | .softwareTrap => 0x120
  | .safeptState => 0x130
  | .watchdog => 0x131
  | .exitMismatch => 0x132
  | .clusterDeadlock => 0x133
  | .heldOverflow => 0x134
  | .mpaHole => 0x202
  | .leaseViolation => 0x210
  | .windowWriteOnly => 0x211
  | .onDieReadonly => 0x212
  | .atomicPlace => 0x213
  | .semMode => 0x301
  | .semBusy => 0x302
  | .semOverflow => 0x303
  | .phaseOverflow => 0x304
  | .shapeStale => 0x402
  | .shapeBounds => 0x403
  | .matrixFormat => 0x404
  | .matrixShape => 0x405
  | .handlerMatrix => 0x406
  | .copyShape => 0x407
  | .carderChecksum => 0x410
  | .carderFormat => 0x411
  | .reduceMismatch => 0x420
  | .ctInvalid => 0x421
  | .circuitNotLive => 0x501
  | .pathBlocked => 0x502
  | .portBusy => 0x503
  | .handleBusy => 0x504
  | .routeMissing => 0x505
  | .rigInvalid => 0x506
  | .handleKind => 0x507
  | .rigIllegal => 0x508
  | .lampFail => 0x510
  | .lampSpareNone => 0x511
  | .ringDetune => 0x512
  | .mziFail => 0x514
  | .ackLost => 0x520
  | .allowanceAudit => 0x521
  | .flitMalformed => 0x522
  | .mcastPartial => 0x530
  | .windowRevoked => 0x531
  | .windowMismatch => 0x533
  | .groupInvalid => 0x534
  | .extPortLoss => 0x540
  | .extPeerAbsent => 0x541
  | .xportStatus => 0x542
  | .stringImbalance => 0x601
  | .tileBypassed => 0x602
  | .softCorrected => 0x701
  | .dataUncorrectable => 0x710
  | .hubFailure => 0x720
  | .coreFailed => 0x730
  | .linkDown => 0x801
  | .linkDegraded => 0x802
  | .apertureUnmapped => 0x810
  | .startLamp => 0x820
  | .startRing => 0x821
  | .startMesh => 0x822
  | .startCore => 0x823
  | .startTile => 0x824

/-- The severities of R410. -/
inductive Severity where
  | corrected | contained | taskFatal | moduleFatal
  deriving DecidableEq, Repr, Inhabited

/-- The severity code of R282 and R409. -/
def Severity.code : Severity → BitVec 2
  | .corrected => 0
  | .contained => 1
  | .taskFatal => 2
  | .moduleFatal => 3

/-- How a fault is delivered (R415), the KIND field of R409. -/
inductive FaultKind where
  | precise | job | async | startUp
  deriving DecidableEq, Repr, Inhabited

/-- The KIND code of R409. -/
def FaultKind.code : FaultKind → BitVec 2
  | .precise => 0
  | .job => 1
  | .async => 2
  | .startUp => 3

/-- The fabric fields of a fault record (R409, bytes 32 to 39). -/
structure FabricRec where
  handle : BitVec 6 := 0
  port : BitVec 4 := 0
  line : BitVec 4 := 0
  fib : BitVec 6 := 0
  job : BitVec 4 := 0
  mseq : Word := 0
  deriving DecidableEq, Repr, Inhabited

/-- What a unit reports of a fault, before severity and route are applied (R409, R412). `tile` is LTILE and
PTILE where TV = 1; `core` is CORE and CLUS where CV = 1; `pc`, `addr` and `fab` carry their valid bits as
options; in `addr` the Bool is AM. `handlerWork` says that the fault is of a trap handler's own work
(R412, step 4); `time` is the rc of detection where the record is written later (R409). -/
structure FaultRec where
  code : FaultCode
  kind : FaultKind
  num : Byte := 0
  task : BitVec 16 := 0
  tile : Option (BitVec 5 × TileId) := none
  core : Option (CoreId × Cluster) := none
  pc : Option Pc := none
  addr : Option (Bool × Va) := none
  fab : Option FabricRec := none
  extra : DWord := 0
  handlerWork : Bool := false
  time : Option Nat := none
  deriving DecidableEq, Repr, Inhabited

/-- One range that the memory processor places for a lease: task tile index, virtual base, MPA and size in
bytes (R502). -/
structure Placement where
  tix : Nat
  va : Nat
  mpa : Nat
  size : Nat
  deriving DecidableEq, Repr, Inhabited

/-- The engine queues of a core (R71, R352, R353). -/
inductive QueueId where
  | matrix | handler | chan (c : ChanId) | send
  deriving DecidableEq, Repr, Inhabited

/-- The instructions: one constructor for each row of spec/opcode_table.json: the words (a cluster word has its
header and its format's fields, a rig word its fields), then the machine's events. An instruction acts on the
unit that the state names as current (tile, core, and the index of the handle, port, channel, queue or slot
concerned), as a word acts on the cluster that issues it; an event's own operands are what arrives from
outside. -/
inductive Instr where
  | add (h : Hdr) (f : RR)
  | addi (h : Hdr) (f : RI)
  | sub (h : Hdr) (f : RR)
  | mul (h : Hdr) (f : RR)
  | mulh (h : Hdr) (f : RR)
  | mulhu (h : Hdr) (f : RR)
  | mad (h : Hdr) (f : RR)
  | div (h : Hdr) (f : RR)
  | divu (h : Hdr) (f : RR)
  | rem (h : Hdr) (f : RR)
  | remu (h : Hdr) (f : RR)
  | and (h : Hdr) (f : RR)
  | andi (h : Hdr) (f : RI)
  | or (h : Hdr) (f : RR)
  | ori (h : Hdr) (f : RI)
  | xor (h : Hdr) (f : RR)
  | xori (h : Hdr) (f : RI)
  | andn (h : Hdr) (f : RR)
  | shl (h : Hdr) (f : RR)
  | shli (h : Hdr) (f : RI)
  | shr (h : Hdr) (f : RR)
  | shri (h : Hdr) (f : RI)
  | sar (h : Hdr) (f : RR)
  | sari (h : Hdr) (f : RI)
  | rotl (h : Hdr) (f : RR)
  | min (h : Hdr) (f : RR)
  | max (h : Hdr) (f : RR)
  | minu (h : Hdr) (f : RR)
  | maxu (h : Hdr) (f : RR)
  | clz (h : Hdr) (f : RR)
  | popc (h : Hdr) (f : RR)
  | brev (h : Hdr) (f : RR)
  | extr (h : Hdr) (f : RR)
  | insr (h : Hdr) (f : RR)
  | mov (h : Hdr) (f : RR)
  | movi (h : Hdr) (f : RI)
  | sel (h : Hdr) (f : RR)
  | cmp (h : Hdr) (f : RR)
  | cmpi (h : Hdr) (f : RI)
  | jmp (h : Hdr) (f : RR)
  | call (h : Hdr) (f : BrF)
  | ret (h : Hdr) (f : BrF)
  | semsig (h : Hdr) (f : RI)
  | semwait (h : Hdr) (f : RI)
  | semtry (h : Hdr) (f : RI)
  | semset (h : Hdr) (f : RI)
  | semrd (h : Hdr) (f : RI)
  | barrive (h : Hdr) (f : RI)
  | bexpect (h : Hdr) (f : RI)
  | bwait (h : Hdr) (f : RI)
  | iter (h : Hdr) (f : RI)
  | exit (h : Hdr) (f : RI)
  | safept (h : Hdr) (f : RI)
  | sevt (h : Hdr) (f : RI)
  | trap (h : Hdr) (f : RI)
  | eret (h : Hdr) (f : RR)
  | rdsr (h : Hdr) (f : RI)
  | wrsr (h : Hdr) (f : RI)
  | clkdiv (h : Hdr) (f : RI)
  | rdcnt (h : Hdr) (f : RR)
  | halt (h : Hdr) (f : RR)
  | br (h : Hdr) (f : BrF)
  | loop (h : Hdr) (f : BrF)
  | xput (h : Hdr) (f : RR)
  | gop (h : Hdr) (f : RR)
  | nop (h : Hdr) (f : BitVec 52)
  | vfadd (h : Hdr) (f : RR)
  | vfsub (h : Hdr) (f : RR)
  | vfmul (h : Hdr) (f : RR)
  | vfma (h : Hdr) (f : RR)
  | vfmin (h : Hdr) (f : RR)
  | vfmax (h : Hdr) (f : RR)
  | vfcmp (h : Hdr) (f : RR)
  | vfsum (h : Hdr) (f : RR)
  | vfrcp (h : Hdr) (f : RR)
  | vfrsq (h : Hdr) (f : RR)
  | vfexp2 (h : Hdr) (f : RR)
  | vflog2 (h : Hdr) (f : RR)
  | vftanh (h : Hdr) (f : RR)
  | vhadd (h : Hdr) (f : RR)
  | vhmul (h : Hdr) (f : RR)
  | vhfma (h : Hdr) (f : RR)
  | vhdot2 (h : Hdr) (f : RR)
  | vadd (h : Hdr) (f : RR)
  | vsub (h : Hdr) (f : RR)
  | vmul (h : Hdr) (f : RR)
  | vmulh (h : Hdr) (f : RR)
  | vmin (h : Hdr) (f : RR)
  | vmax (h : Hdr) (f : RR)
  | vand (h : Hdr) (f : RR)
  | vor (h : Hdr) (f : RR)
  | vxor (h : Hdr) (f : RR)
  | vshl (h : Hdr) (f : RR)
  | vshr (h : Hdr) (f : RR)
  | vsar (h : Hdr) (f : RR)
  | vicmp (h : Hdr) (f : RR)
  | vadds (h : Hdr) (f : RR)
  | vsubs (h : Hdr) (f : RR)
  | vired (h : Hdr) (f : RR)
  | vcvt (h : Hdr) (f : RR)
  | vquant (h : Hdr) (f : RR)
  | vdeq (h : Hdr) (f : RR)
  | vsgn1 (h : Hdr) (f : RR)
  | vxsgn1 (h : Hdr) (f : RR)
  | vmov (h : Hdr) (f : RR)
  | vbcast (h : Hdr) (f : RR)
  | vsel (h : Hdr) (f : RR)
  | vperm (h : Hdr) (f : RR)
  | vrotm (h : Hdr) (f : RR)
  | vzip (h : Hdr) (f : RR)
  | vunzip (h : Hdr) (f : RR)
  | viota (h : Hdr) (f : RR)
  | vextl (h : Hdr) (f : RR)
  | vinsl (h : Hdr) (f : RR)
  | kand (h : Hdr) (f : RR)
  | kor (h : Hdr) (f : RR)
  | kxor (h : Hdr) (f : RR)
  | knot (h : Hdr) (f : RR)
  | kpop (h : Hdr) (f : RR)
  | ktest (h : Hdr) (f : RR)
  | vaccrd (h : Hdr) (f : RI)
  | vaccwr (h : Hdr) (f : RI)
  | aadd (h : Hdr) (f : RR)
  | aaddi (h : Hdr) (f : RI)
  | asub (h : Hdr) (f : RR)
  | aadd64 (h : Hdr) (f : RR)
  | aaddi64 (h : Hdr) (f : RI)
  | amov (h : Hdr) (f : RR)
  | amovi (h : Hdr) (f : RI)
  | ashli (h : Hdr) (f : RI)
  | aand (h : Hdr) (f : RR)
  | acmp (h : Hdr) (f : RR)
  | vld (h : Hdr) (f : MemF)
  | vst (h : Hdr) (f : MemF)
  | sld (h : Hdr) (f : MemF)
  | sst (h : Hdr) (f : MemF)
  | vstm (h : Hdr) (f : MemF)
  | amoadd (h : Hdr) (f : MemF)
  | amomin (h : Hdr) (f : MemF)
  | amomax (h : Hdr) (f : MemF)
  | amoand (h : Hdr) (f : MemF)
  | amoor (h : Hdr) (f : MemF)
  | amoxor (h : Hdr) (f : MemF)
  | amoswp (h : Hdr) (f : MemF)
  | amocas (h : Hdr) (f : MemF)
  | amofadd (h : Hdr) (f : MemF)
  | fence (h : Hdr) (f : MemF)
  | xfence (h : Hdr) (f : MemF)
  | wmwait (h : Hdr) (f : MemF)
  | winset (h : Hdr) (f : MemF)
  | winrd (h : Hdr) (f : MemF)
  | rgnset (h : Hdr) (f : RR)
  | eadd (h : Hdr) (f : RR)
  | eaddi (h : Hdr) (f : RI)
  | emov (h : Hdr) (f : RR)
  | emovi (h : Hdr) (f : RI)
  | ecmp (h : Hdr) (f : RR)
  | shset (h : Hdr) (f : RR)
  | shmod (h : Hdr) (f : RR)
  | shinv (h : Hdr) (f : RR)
  | mplant (h : Hdr) (f : EngF)
  | mma (h : Hdr) (f : EngF)
  | mdrain (h : Hdr) (f : EngF)
  | mdrainSend (h : Hdr) (f : EngF)
  | mzero (h : Hdr) (f : EngF)
  | msave (h : Hdr) (f : EngF)
  | mrest (h : Hdr) (f : EngF)
  | mbatt (h : Hdr) (f : EngF)
  | cpy (h : Hdr) (f : EngF)
  | cpyd (h : Hdr) (f : EngF)
  | cpyr (h : Hdr) (f : EngF)
  | cpym (h : Hdr) (f : EngF)
  | wmset (h : Hdr) (f : EngF)
  | cwait (h : Hdr) (f : RR)
  | cstat (h : Hdr) (f : RR)
  | send (h : Hdr) (f : EngF)
  | ctset (h : Hdr) (f : RR)
  | ctready (h : Hdr) (f : EngF)
  | grpset (h : Hdr) (f : RR)
  | gfree (h : Hdr) (f : RR)
  | pace (h : Hdr) (f : RI)
  | nops (r : RigW)
  | rig (r : RigW)
  | rigm (r : RigW)
  | derig (r : RigW)
  | hold (r : RigW)
  | waitev (r : RigW)
  | sigev (r : RigW)
  | jmps (r : RigW)
  | loops (r : RigW)
  | xportDrain (r : RigW)
  | xportDark (r : RigW)
  | xportProbe (r : RigW)
  | xportOpen (r : RigW)
  | rtsw (r : RigW)
  | ends (r : RigW)
  | probeComplete (loss : BitVec 16)
  | row (src : Source) (m : Msg)
  | shortStore (src : Source) (m : Msg)
  | shortAtomic (src : Source) (m : Msg)
  | shortLoad (src : Source) (m : Msg)
  | reply (src : Source) (m : Msg)
  | chunk (src : Source) (m : Msg)
  | reductionContribution (src : Source) (m : Msg)
  | multicastArrival (src : Source) (m : Msg)
  | statusFlit (leaf : CoreId) (ack : Word) (allowc : Word)
  | negativeResponse (leaf : CoreId) (ack : Word) (allowc : Word) (nseq : Word) (code : BitVec 16)
  | commit (src : Source) (sq : Word)
  | keepalive (leaf : CoreId) (rcv : Word) (allowc : Word) (perf : Word)
  | controlSlot (src : Source)
  | keepaliveSend (src : Source)
  | leafSlot (src : Source)
  | ringDetune (line : LampId) (rx : Bool)
  | stripingChange (line : LampId) (rx : Bool)
  | controlRingDetune (rx : Bool)
  | mziFail (stage : StageId) (el : Nat)
  | governorSample (imb : List Int)
  | faultDelivery (r : FaultRec)
  | taskDoorbell (v : DWord)
  | leaseGrant (pl : List Placement)
  | coreFailed (pc : CoreId)
  | tileBypass (cause : Fin 3)
  | softCorrected (mpa : Mpa) (store : BitVec 4)
  | linkRetrain (width : BitVec 5) (rate : BitVec 8)
  | msixUnmask (vec : VectorId)
  | bar2Read (off : BitVec 36)
  | bar2Write (off : BitVec 36) (x : Word)
  | registerWrite (off : BitVec 24) (x : Word)
  | rigRetry
  | settlingEnd
  | pathBlocked
  | pathRelease
  | derigComplete
  | drainComplete
  | probeTimeout
  | messageSend
  | chunkApply
  | resendTimeout
  | allowanceAudit
  | lampFail
  | lampRelight
  | reroute
  | extPortLoss
  | peerAbsentTimeout
  | semaphoreFileCycle
  | walkerCycle
  | limiterStep
  | matrixDivisorChange
  | matrixJobOffer
  | matrixJobStart
  | matrixJobComplete
  | channelJobStart
  | copyChunk
  | carderBlock
  | copyJobComplete
  | sendJobStart
  | firingComplete
  | watermarkStallEnd
  | hubRecovery
  | clusterDeadlock
  | watchdog
  | dispatcherScan
  | launch
  | preemptionRequest
  | coreStop
  | engineFreeze
  | rigProgramStop
  | preemptionComplete
  | resume
  | tilePartEnd
  | taskEnd
  | coreGate
  | wakeRequest
  | inrushGrant
  | coreWake
  | hubFailure
  | powerUp
  | fundamentalReset
  | functionLevelReset
  | linkDown
  | mapslot
  | unmapslot
  | xlate
  | hostmap
  | hostunmap
  | attestationRequest
  | attestationComplete
  | mgmtXportDrain
  | mgmtXportDark
  | mgmtXportProbe
  | mgmtXportOpen
  | checkpoint
  | checkpointComplete
  | restore
  | restoreComplete
  | abort
  | setmodid
  | memoryPortApply
  | configurationRequest
  deriving DecidableEq, Repr

end Sys2Proof
end

