-- ==== Sys2Proof/WellFormed.lean ====
section
/-!
DEFINITION. The checks on an instruction as a term: what a term needs so that it is the instruction of some
word or of some event (spec/10_instruction_formats.md R240 to R246, spec/17_rig_programs.md R379,
spec/01_module.md R13, spec/06_circuit_fabric.md R154). Field values that the spec calls reserved are no
matter of form: such words exist and fault when they issue (R477).
-/
namespace Sys2Proof

/-- The command field [45:44] of an XPORT word (R379). -/
def RigW.cmd (r : RigW) : BitVec 2 := r.body.extractLsb' 44 2

/-- A message holds at most as many payload rows as its NROW field says (R153, R154). -/
def Msg.wf (m : Msg) : Bool := decide (m.pay.length ≤ m.nrow.toNat + 1)

/-- The well-formed instructions. -/
def Instr.wf : Instr → Bool
  | .mdrain _ f => !f.md.getLsbD 12
  | .mdrainSend _ f => f.md.getLsbD 12
  | .xportDrain r => r.cmd == 0
  | .xportDark r => r.cmd == 1
  | .xportProbe r => r.cmd == 2
  | .xportOpen r => r.cmd == 3
  | .mziFail _ el => decide (el < 288)
  | .governorSample imb => decide (imb.length = 4)
  | .row _ m => m.wf
  | .shortStore _ m => m.wf
  | .shortAtomic _ m => m.wf
  | .shortLoad _ m => m.wf
  | .reply _ m => m.wf
  | .chunk _ m => m.wf
  | .reductionContribution _ m => m.wf
  | .multicastArrival _ m => m.wf
  | _ => true

end Sys2Proof
end

