-- ==== Sys2Proof/Decode.lean ====
section
/-!
DEFINITION. From words to instructions and back, written from the encoding tables of
spec/10_instruction_formats.md (R232, R233, R240 to R246). Decoding is total and refuses by name; the encoder
stands after it. A machine event has no encoding.
-/
namespace Sys2Proof

/-- The unit that fetches a word: a cluster, or the fabric sequencer (R246). -/
inductive FetchUnit where
  | cluster (c : Cluster)
  | rig
  deriving DecidableEq, Repr, Inhabited

/-- Why a word is no instruction (R481): an opcode its cluster leaves unassigned, a reserved opcode of the
common group, or an unassigned SOP of the fabric sequencer. -/
inductive DecodeError where
  | unassignedOpcode (c : Cluster) (op : BitVec 7)
  | reservedCommon (op : BitVec 7)
  | unassignedSop (sop : BitVec 6)
  deriving DecidableEq, Repr, Inhabited

/-- Bits [hi:lo] of a word as in R3, given lo and the width. -/
def field (x : BitVec 64) (lo w : Nat) : BitVec w := x.extractLsb' lo w

/-- Bit n of a word. -/
def bit (x : BitVec 64) (n : Nat) : Bool := x.getLsbD n

/-- S, GD and GN (R232). -/
def hdrOf (x : BitVec 64) : Hdr := ⟨bit x 63, field x 53 3, bit x 52⟩

/-- OP (R232). -/
def opOf (x : BitVec 64) : BitVec 7 := field x 56 7

/-- Format RR (R233). -/
def rrOf (x : BitVec 64) : RR :=
  ⟨field x 45 7, bit x 44, field x 37 7, field x 30 7, field x 23 7, field x 0 23⟩

/-- Format RI (R233). -/
def riOf (x : BitVec 64) : RI := ⟨field x 45 7, bit x 44, field x 37 7, field x 32 5, field x 0 32⟩

/-- Format MEM (R233). -/
def memOf (x : BitVec 64) : MemF :=
  ⟨field x 45 7, bit x 44, field x 39 5, field x 36 3, bit x 35, field x 33 2, field x 31 2, field x 24 7,
    field x 0 24⟩

/-- Format BR (R233). -/
def brOf (x : BitVec 64) : BrF := ⟨field x 48 4, field x 41 7, field x 32 9, field x 0 32⟩

/-- Format ENG (R233). -/
def engOf (x : BitVec 64) : EngF :=
  ⟨bit x 51, field x 43 8, bit x 42, field x 34 8, field x 27 7, field x 20 7, field x 13 7, field x 0 13⟩

/-- A rig word below its SOP (R246). -/
def rigOf (x : BitVec 64) : RigW := ⟨field x 52 6, field x 0 52⟩

/-- The C-cluster opcode space (R240). -/
def decodeC (x : BitVec 64) : Option Instr :=
  match (opOf x).toNat with
  | 0x00 => some (.add (hdrOf x) (rrOf x))
  | 0x01 => some (.addi (hdrOf x) (riOf x))
  | 0x02 => some (.sub (hdrOf x) (rrOf x))
  | 0x03 => some (.mul (hdrOf x) (rrOf x))
  | 0x04 => some (.mulh (hdrOf x) (rrOf x))
  | 0x05 => some (.mulhu (hdrOf x) (rrOf x))
  | 0x06 => some (.mad (hdrOf x) (rrOf x))
  | 0x07 => some (.div (hdrOf x) (rrOf x))
  | 0x08 => some (.divu (hdrOf x) (rrOf x))
  | 0x09 => some (.rem (hdrOf x) (rrOf x))
  | 0x0A => some (.remu (hdrOf x) (rrOf x))
  | 0x0B => some (.and (hdrOf x) (rrOf x))
  | 0x0C => some (.andi (hdrOf x) (riOf x))
  | 0x0D => some (.or (hdrOf x) (rrOf x))
  | 0x0E => some (.ori (hdrOf x) (riOf x))
  | 0x0F => some (.xor (hdrOf x) (rrOf x))
  | 0x10 => some (.xori (hdrOf x) (riOf x))
  | 0x11 => some (.andn (hdrOf x) (rrOf x))
  | 0x12 => some (.shl (hdrOf x) (rrOf x))
  | 0x13 => some (.shli (hdrOf x) (riOf x))
  | 0x14 => some (.shr (hdrOf x) (rrOf x))
  | 0x15 => some (.shri (hdrOf x) (riOf x))
  | 0x16 => some (.sar (hdrOf x) (rrOf x))
  | 0x17 => some (.sari (hdrOf x) (riOf x))
  | 0x18 => some (.rotl (hdrOf x) (rrOf x))
  | 0x19 => some (.min (hdrOf x) (rrOf x))
  | 0x1A => some (.max (hdrOf x) (rrOf x))
  | 0x1B => some (.minu (hdrOf x) (rrOf x))
  | 0x1C => some (.maxu (hdrOf x) (rrOf x))
  | 0x1D => some (.clz (hdrOf x) (rrOf x))
  | 0x1E => some (.popc (hdrOf x) (rrOf x))
  | 0x1F => some (.brev (hdrOf x) (rrOf x))
  | 0x20 => some (.extr (hdrOf x) (rrOf x))
  | 0x21 => some (.insr (hdrOf x) (rrOf x))
  | 0x22 => some (.mov (hdrOf x) (rrOf x))
  | 0x23 => some (.movi (hdrOf x) (riOf x))
  | 0x24 => some (.sel (hdrOf x) (rrOf x))
  | 0x25 => some (.cmp (hdrOf x) (rrOf x))
  | 0x26 => some (.cmpi (hdrOf x) (riOf x))
  | 0x30 => some (.jmp (hdrOf x) (rrOf x))
  | 0x31 => some (.call (hdrOf x) (brOf x))
  | 0x32 => some (.ret (hdrOf x) (brOf x))
  | 0x38 => some (.semsig (hdrOf x) (riOf x))
  | 0x39 => some (.semwait (hdrOf x) (riOf x))
  | 0x3A => some (.semtry (hdrOf x) (riOf x))
  | 0x3B => some (.semset (hdrOf x) (riOf x))
  | 0x3C => some (.semrd (hdrOf x) (riOf x))
  | 0x3D => some (.barrive (hdrOf x) (riOf x))
  | 0x3E => some (.bexpect (hdrOf x) (riOf x))
  | 0x3F => some (.bwait (hdrOf x) (riOf x))
  | 0x40 => some (.iter (hdrOf x) (riOf x))
  | 0x41 => some (.exit (hdrOf x) (riOf x))
  | 0x42 => some (.safept (hdrOf x) (riOf x))
  | 0x43 => some (.sevt (hdrOf x) (riOf x))
  | 0x48 => some (.trap (hdrOf x) (riOf x))
  | 0x49 => some (.eret (hdrOf x) (rrOf x))
  | 0x4A => some (.rdsr (hdrOf x) (riOf x))
  | 0x4B => some (.wrsr (hdrOf x) (riOf x))
  | 0x4C => some (.clkdiv (hdrOf x) (riOf x))
  | 0x4D => some (.rdcnt (hdrOf x) (rrOf x))
  | 0x4E => some (.halt (hdrOf x) (rrOf x))
  | _ => none

/-- The V-cluster opcode space (R241). -/
def decodeV (x : BitVec 64) : Option Instr :=
  match (opOf x).toNat with
  | 0x00 => some (.vfadd (hdrOf x) (rrOf x))
  | 0x01 => some (.vfsub (hdrOf x) (rrOf x))
  | 0x02 => some (.vfmul (hdrOf x) (rrOf x))
  | 0x03 => some (.vfma (hdrOf x) (rrOf x))
  | 0x04 => some (.vfmin (hdrOf x) (rrOf x))
  | 0x05 => some (.vfmax (hdrOf x) (rrOf x))
  | 0x06 => some (.vfcmp (hdrOf x) (rrOf x))
  | 0x07 => some (.vfsum (hdrOf x) (rrOf x))
  | 0x08 => some (.vfrcp (hdrOf x) (rrOf x))
  | 0x09 => some (.vfrsq (hdrOf x) (rrOf x))
  | 0x0A => some (.vfexp2 (hdrOf x) (rrOf x))
  | 0x0B => some (.vflog2 (hdrOf x) (rrOf x))
  | 0x0C => some (.vftanh (hdrOf x) (rrOf x))
  | 0x10 => some (.vhadd (hdrOf x) (rrOf x))
  | 0x11 => some (.vhmul (hdrOf x) (rrOf x))
  | 0x12 => some (.vhfma (hdrOf x) (rrOf x))
  | 0x13 => some (.vhdot2 (hdrOf x) (rrOf x))
  | 0x18 => some (.vadd (hdrOf x) (rrOf x))
  | 0x19 => some (.vsub (hdrOf x) (rrOf x))
  | 0x1A => some (.vmul (hdrOf x) (rrOf x))
  | 0x1B => some (.vmulh (hdrOf x) (rrOf x))
  | 0x1C => some (.vmin (hdrOf x) (rrOf x))
  | 0x1D => some (.vmax (hdrOf x) (rrOf x))
  | 0x1E => some (.vand (hdrOf x) (rrOf x))
  | 0x1F => some (.vor (hdrOf x) (rrOf x))
  | 0x20 => some (.vxor (hdrOf x) (rrOf x))
  | 0x21 => some (.vshl (hdrOf x) (rrOf x))
  | 0x22 => some (.vshr (hdrOf x) (rrOf x))
  | 0x23 => some (.vsar (hdrOf x) (rrOf x))
  | 0x24 => some (.vicmp (hdrOf x) (rrOf x))
  | 0x25 => some (.vadds (hdrOf x) (rrOf x))
  | 0x26 => some (.vsubs (hdrOf x) (rrOf x))
  | 0x27 => some (.vired (hdrOf x) (rrOf x))
  | 0x30 => some (.vcvt (hdrOf x) (rrOf x))
  | 0x31 => some (.vquant (hdrOf x) (rrOf x))
  | 0x32 => some (.vdeq (hdrOf x) (rrOf x))
  | 0x33 => some (.vsgn1 (hdrOf x) (rrOf x))
  | 0x34 => some (.vxsgn1 (hdrOf x) (rrOf x))
  | 0x38 => some (.vmov (hdrOf x) (rrOf x))
  | 0x39 => some (.vbcast (hdrOf x) (rrOf x))
  | 0x3A => some (.vsel (hdrOf x) (rrOf x))
  | 0x3B => some (.vperm (hdrOf x) (rrOf x))
  | 0x3C => some (.vrotm (hdrOf x) (rrOf x))
  | 0x3D => some (.vzip (hdrOf x) (rrOf x))
  | 0x3E => some (.vunzip (hdrOf x) (rrOf x))
  | 0x3F => some (.viota (hdrOf x) (rrOf x))
  | 0x40 => some (.vextl (hdrOf x) (rrOf x))
  | 0x41 => some (.vinsl (hdrOf x) (rrOf x))
  | 0x44 => some (.kand (hdrOf x) (rrOf x))
  | 0x45 => some (.kor (hdrOf x) (rrOf x))
  | 0x46 => some (.kxor (hdrOf x) (rrOf x))
  | 0x47 => some (.knot (hdrOf x) (rrOf x))
  | 0x48 => some (.kpop (hdrOf x) (rrOf x))
  | 0x49 => some (.ktest (hdrOf x) (rrOf x))
  | 0x4C => some (.vaccrd (hdrOf x) (riOf x))
  | 0x4D => some (.vaccwr (hdrOf x) (riOf x))
  | _ => none

/-- The M-cluster opcode space (R242). -/
def decodeM (x : BitVec 64) : Option Instr :=
  match (opOf x).toNat with
  | 0x00 => some (.aadd (hdrOf x) (rrOf x))
  | 0x01 => some (.aaddi (hdrOf x) (riOf x))
  | 0x02 => some (.asub (hdrOf x) (rrOf x))
  | 0x03 => some (.aadd64 (hdrOf x) (rrOf x))
  | 0x04 => some (.aaddi64 (hdrOf x) (riOf x))
  | 0x05 => some (.amov (hdrOf x) (rrOf x))
  | 0x06 => some (.amovi (hdrOf x) (riOf x))
  | 0x07 => some (.ashli (hdrOf x) (riOf x))
  | 0x08 => some (.aand (hdrOf x) (rrOf x))
  | 0x09 => some (.acmp (hdrOf x) (rrOf x))
  | 0x10 => some (.vld (hdrOf x) (memOf x))
  | 0x11 => some (.vst (hdrOf x) (memOf x))
  | 0x12 => some (.sld (hdrOf x) (memOf x))
  | 0x13 => some (.sst (hdrOf x) (memOf x))
  | 0x14 => some (.vstm (hdrOf x) (memOf x))
  | 0x18 => some (.amoadd (hdrOf x) (memOf x))
  | 0x19 => some (.amomin (hdrOf x) (memOf x))
  | 0x1A => some (.amomax (hdrOf x) (memOf x))
  | 0x1B => some (.amoand (hdrOf x) (memOf x))
  | 0x1C => some (.amoor (hdrOf x) (memOf x))
  | 0x1D => some (.amoxor (hdrOf x) (memOf x))
  | 0x1E => some (.amoswp (hdrOf x) (memOf x))
  | 0x1F => some (.amocas (hdrOf x) (memOf x))
  | 0x20 => some (.amofadd (hdrOf x) (memOf x))
  | 0x28 => some (.fence (hdrOf x) (memOf x))
  | 0x29 => some (.xfence (hdrOf x) (memOf x))
  | 0x2A => some (.wmwait (hdrOf x) (memOf x))
  | 0x30 => some (.winset (hdrOf x) (memOf x))
  | 0x31 => some (.winrd (hdrOf x) (memOf x))
  | 0x32 => some (.rgnset (hdrOf x) (rrOf x))
  | _ => none

/-- The E-cluster opcode space (R243). -/
def decodeE (x : BitVec 64) : Option Instr :=
  match (opOf x).toNat with
  | 0x00 => some (.eadd (hdrOf x) (rrOf x))
  | 0x01 => some (.eaddi (hdrOf x) (riOf x))
  | 0x02 => some (.emov (hdrOf x) (rrOf x))
  | 0x03 => some (.emovi (hdrOf x) (riOf x))
  | 0x04 => some (.ecmp (hdrOf x) (rrOf x))
  | 0x08 => some (.shset (hdrOf x) (rrOf x))
  | 0x09 => some (.shmod (hdrOf x) (rrOf x))
  | 0x0A => some (.shinv (hdrOf x) (rrOf x))
  | 0x10 => some (.mplant (hdrOf x) (engOf x))
  | 0x11 => some (.mma (hdrOf x) (engOf x))
  | 0x12 =>
    some (if bit x 12 then .mdrainSend (hdrOf x) (engOf x) else .mdrain (hdrOf x) (engOf x))
  | 0x13 => some (.mzero (hdrOf x) (engOf x))
  | 0x14 => some (.msave (hdrOf x) (engOf x))
  | 0x15 => some (.mrest (hdrOf x) (engOf x))
  | 0x16 => some (.mbatt (hdrOf x) (engOf x))
  | 0x20 => some (.cpy (hdrOf x) (engOf x))
  | 0x21 => some (.cpyd (hdrOf x) (engOf x))
  | 0x22 => some (.cpyr (hdrOf x) (engOf x))
  | 0x23 => some (.cpym (hdrOf x) (engOf x))
  | 0x24 => some (.wmset (hdrOf x) (engOf x))
  | 0x28 => some (.cwait (hdrOf x) (rrOf x))
  | 0x29 => some (.cstat (hdrOf x) (rrOf x))
  | 0x2A => some (.send (hdrOf x) (engOf x))
  | 0x30 => some (.ctset (hdrOf x) (rrOf x))
  | 0x31 => some (.ctready (hdrOf x) (engOf x))
  | 0x32 => some (.grpset (hdrOf x) (rrOf x))
  | 0x33 => some (.gfree (hdrOf x) (rrOf x))
  | 0x38 => some (.pace (hdrOf x) (riOf x))
  | _ => none

/-- The common group (R244). -/
def decodeCommon (x : BitVec 64) : Option Instr :=
  match (opOf x).toNat with
  | 0x70 => some (.br (hdrOf x) (brOf x))
  | 0x71 => some (.loop (hdrOf x) (brOf x))
  | 0x72 => some (.xput (hdrOf x) (rrOf x))
  | 0x73 => some (.gop (hdrOf x) (rrOf x))
  | 0x7F => some (.nop (hdrOf x) (field x 0 52))
  | _ => none

/-- The opcodes of the fabric sequencer (R246); the command of XPORT is in [45:44] (R379). -/
def decodeSop (x : BitVec 64) : Option Instr :=
  match (field x 58 6).toNat with
  | 0x00 => some (.nops (rigOf x))
  | 0x01 => some (.rig (rigOf x))
  | 0x02 => some (.rigm (rigOf x))
  | 0x03 => some (.derig (rigOf x))
  | 0x04 => some (.hold (rigOf x))
  | 0x05 => some (.waitev (rigOf x))
  | 0x06 => some (.sigev (rigOf x))
  | 0x07 => some (.jmps (rigOf x))
  | 0x08 => some (.loops (rigOf x))
  | 0x09 =>
    some (match (field x 44 2).toNat with
      | 0 => .xportDrain (rigOf x)
      | 1 => .xportDark (rigOf x)
      | 2 => .xportProbe (rigOf x)
      | _ => .xportOpen (rigOf x))
  | 0x0A => some (.rtsw (rigOf x))
  | 0x0B => some (.ends (rigOf x))
  | _ => none

/-- The opcode space of one cluster, without the common group. -/
def decodeSpace (c : Cluster) (x : BitVec 64) : Option Instr :=
  match c with
  | .c => decodeC x
  | .v => decodeV x
  | .m => decodeM x
  | .e => decodeE x

/-- Decoding: the instruction a unit reads from a word, or the name of what is wrong with it (R240 to R246,
R481). -/
def decode (u : FetchUnit) (x : BitVec 64) : Except DecodeError Instr :=
  match u with
  | .cluster c =>
    if 0x70 ≤ (opOf x).toNat then
      match decodeCommon x with
      | some i => .ok i
      | none => .error (.reservedCommon (opOf x))
    else
      match decodeSpace c x with
      | some i => .ok i
      | none => .error (.unassignedOpcode c (opOf x))
  | .rig =>
    match decodeSop x with
    | some i => .ok i
    | none => .error (.unassignedSop (field x 58 6))

/-- The instruction the decoder reads from an instruction whose bits are w. Every instruction of this
hardware is one 64-bit word, and the same opcode means different things in different units, so the byte
above the word, bits [71:64], names the unit: 0 C, 1 V, 2 M, 3 E, 4 the fabric sequencer. With nbits at most
64 there is no such byte and the word is read as a C word (log 9). -/
def decodeTableWord (nbits w : Nat) : Option Instr :=
  let x : BitVec 64 := BitVec.ofNat 64 w
  let u : Nat := if nbits ≤ 64 then 0 else (w / 2 ^ 64) % 256
  let r := if u = 4 then decode .rig x else decode (.cluster (Cluster.ofCode u)) x
  match r with
  | .ok i => some i
  | .error _ => none

/-- Bits [63:52] of a cluster word: S, OP, GD, GN (R232). -/
def packHdr (op : BitVec 7) (h : Hdr) (body : BitVec 52) : BitVec 64 :=
  BitVec.ofBool h.sync ++ op ++ h.gd ++ BitVec.ofBool h.gn ++ body

/-- The bits of format RR (R233). -/
def RR.bits (f : RR) : BitVec 52 := f.d ++ BitVec.ofBool f.w ++ f.a ++ f.b ++ f.c ++ f.f

/-- The bits of format RI (R233). -/
def RI.bits (f : RI) : BitVec 52 := f.d ++ BitVec.ofBool f.w ++ f.a ++ f.f5 ++ f.imm

/-- The bits of format MEM (R233). -/
def MemF.bits (f : MemF) : BitVec 52 :=
  f.d ++ BitVec.ofBool f.w ++ f.bp ++ f.sz ++ BitVec.ofBool f.g ++ f.ord ++ f.sc ++ f.x ++ f.off

/-- The bits of format BR (R233). -/
def BrF.bits (f : BrF) : BitVec 52 := f.bk ++ f.a ++ f.z ++ f.disp

/-- The bits of format ENG (R233). -/
def EngF.bits (f : EngF) : BitVec 52 :=
  BitVec.ofBool f.we ++ f.ws ++ BitVec.ofBool f.se ++ f.ss ++ f.a ++ f.b ++ f.c ++ f.md

/-- A rig word (R246). -/
def packRig (sop : BitVec 6) (r : RigW) : BitVec 64 := sop ++ r.hd ++ r.body

/-- The word of an instruction, or none for a machine event (R232, R240 to R246). -/
def encode : Instr → Option (BitVec 64)
  | .add h f => some (packHdr 0x00 h f.bits)
  | .addi h f => some (packHdr 0x01 h f.bits)
  | .sub h f => some (packHdr 0x02 h f.bits)
  | .mul h f => some (packHdr 0x03 h f.bits)
  | .mulh h f => some (packHdr 0x04 h f.bits)
  | .mulhu h f => some (packHdr 0x05 h f.bits)
  | .mad h f => some (packHdr 0x06 h f.bits)
  | .div h f => some (packHdr 0x07 h f.bits)
  | .divu h f => some (packHdr 0x08 h f.bits)
  | .rem h f => some (packHdr 0x09 h f.bits)
  | .remu h f => some (packHdr 0x0A h f.bits)
  | .and h f => some (packHdr 0x0B h f.bits)
  | .andi h f => some (packHdr 0x0C h f.bits)
  | .or h f => some (packHdr 0x0D h f.bits)
  | .ori h f => some (packHdr 0x0E h f.bits)
  | .xor h f => some (packHdr 0x0F h f.bits)
  | .xori h f => some (packHdr 0x10 h f.bits)
  | .andn h f => some (packHdr 0x11 h f.bits)
  | .shl h f => some (packHdr 0x12 h f.bits)
  | .shli h f => some (packHdr 0x13 h f.bits)
  | .shr h f => some (packHdr 0x14 h f.bits)
  | .shri h f => some (packHdr 0x15 h f.bits)
  | .sar h f => some (packHdr 0x16 h f.bits)
  | .sari h f => some (packHdr 0x17 h f.bits)
  | .rotl h f => some (packHdr 0x18 h f.bits)
  | .min h f => some (packHdr 0x19 h f.bits)
  | .max h f => some (packHdr 0x1A h f.bits)
  | .minu h f => some (packHdr 0x1B h f.bits)
  | .maxu h f => some (packHdr 0x1C h f.bits)
  | .clz h f => some (packHdr 0x1D h f.bits)
  | .popc h f => some (packHdr 0x1E h f.bits)
  | .brev h f => some (packHdr 0x1F h f.bits)
  | .extr h f => some (packHdr 0x20 h f.bits)
  | .insr h f => some (packHdr 0x21 h f.bits)
  | .mov h f => some (packHdr 0x22 h f.bits)
  | .movi h f => some (packHdr 0x23 h f.bits)
  | .sel h f => some (packHdr 0x24 h f.bits)
  | .cmp h f => some (packHdr 0x25 h f.bits)
  | .cmpi h f => some (packHdr 0x26 h f.bits)
  | .jmp h f => some (packHdr 0x30 h f.bits)
  | .call h f => some (packHdr 0x31 h f.bits)
  | .ret h f => some (packHdr 0x32 h f.bits)
  | .semsig h f => some (packHdr 0x38 h f.bits)
  | .semwait h f => some (packHdr 0x39 h f.bits)
  | .semtry h f => some (packHdr 0x3A h f.bits)
  | .semset h f => some (packHdr 0x3B h f.bits)
  | .semrd h f => some (packHdr 0x3C h f.bits)
  | .barrive h f => some (packHdr 0x3D h f.bits)
  | .bexpect h f => some (packHdr 0x3E h f.bits)
  | .bwait h f => some (packHdr 0x3F h f.bits)
  | .iter h f => some (packHdr 0x40 h f.bits)
  | .exit h f => some (packHdr 0x41 h f.bits)
  | .safept h f => some (packHdr 0x42 h f.bits)
  | .sevt h f => some (packHdr 0x43 h f.bits)
  | .trap h f => some (packHdr 0x48 h f.bits)
  | .eret h f => some (packHdr 0x49 h f.bits)
  | .rdsr h f => some (packHdr 0x4A h f.bits)
  | .wrsr h f => some (packHdr 0x4B h f.bits)
  | .clkdiv h f => some (packHdr 0x4C h f.bits)
  | .rdcnt h f => some (packHdr 0x4D h f.bits)
  | .halt h f => some (packHdr 0x4E h f.bits)
  | .br h f => some (packHdr 0x70 h f.bits)
  | .loop h f => some (packHdr 0x71 h f.bits)
  | .xput h f => some (packHdr 0x72 h f.bits)
  | .gop h f => some (packHdr 0x73 h f.bits)
  | .nop h f => some (packHdr 0x7F h f)
  | .vfadd h f => some (packHdr 0x00 h f.bits)
  | .vfsub h f => some (packHdr 0x01 h f.bits)
  | .vfmul h f => some (packHdr 0x02 h f.bits)
  | .vfma h f => some (packHdr 0x03 h f.bits)
  | .vfmin h f => some (packHdr 0x04 h f.bits)
  | .vfmax h f => some (packHdr 0x05 h f.bits)
  | .vfcmp h f => some (packHdr 0x06 h f.bits)
  | .vfsum h f => some (packHdr 0x07 h f.bits)
  | .vfrcp h f => some (packHdr 0x08 h f.bits)
  | .vfrsq h f => some (packHdr 0x09 h f.bits)
  | .vfexp2 h f => some (packHdr 0x0A h f.bits)
  | .vflog2 h f => some (packHdr 0x0B h f.bits)
  | .vftanh h f => some (packHdr 0x0C h f.bits)
  | .vhadd h f => some (packHdr 0x10 h f.bits)
  | .vhmul h f => some (packHdr 0x11 h f.bits)
  | .vhfma h f => some (packHdr 0x12 h f.bits)
  | .vhdot2 h f => some (packHdr 0x13 h f.bits)
  | .vadd h f => some (packHdr 0x18 h f.bits)
  | .vsub h f => some (packHdr 0x19 h f.bits)
  | .vmul h f => some (packHdr 0x1A h f.bits)
  | .vmulh h f => some (packHdr 0x1B h f.bits)
  | .vmin h f => some (packHdr 0x1C h f.bits)
  | .vmax h f => some (packHdr 0x1D h f.bits)
  | .vand h f => some (packHdr 0x1E h f.bits)
  | .vor h f => some (packHdr 0x1F h f.bits)
  | .vxor h f => some (packHdr 0x20 h f.bits)
  | .vshl h f => some (packHdr 0x21 h f.bits)
  | .vshr h f => some (packHdr 0x22 h f.bits)
  | .vsar h f => some (packHdr 0x23 h f.bits)
  | .vicmp h f => some (packHdr 0x24 h f.bits)
  | .vadds h f => some (packHdr 0x25 h f.bits)
  | .vsubs h f => some (packHdr 0x26 h f.bits)
  | .vired h f => some (packHdr 0x27 h f.bits)
  | .vcvt h f => some (packHdr 0x30 h f.bits)
  | .vquant h f => some (packHdr 0x31 h f.bits)
  | .vdeq h f => some (packHdr 0x32 h f.bits)
  | .vsgn1 h f => some (packHdr 0x33 h f.bits)
  | .vxsgn1 h f => some (packHdr 0x34 h f.bits)
  | .vmov h f => some (packHdr 0x38 h f.bits)
  | .vbcast h f => some (packHdr 0x39 h f.bits)
  | .vsel h f => some (packHdr 0x3A h f.bits)
  | .vperm h f => some (packHdr 0x3B h f.bits)
  | .vrotm h f => some (packHdr 0x3C h f.bits)
  | .vzip h f => some (packHdr 0x3D h f.bits)
  | .vunzip h f => some (packHdr 0x3E h f.bits)
  | .viota h f => some (packHdr 0x3F h f.bits)
  | .vextl h f => some (packHdr 0x40 h f.bits)
  | .vinsl h f => some (packHdr 0x41 h f.bits)
  | .kand h f => some (packHdr 0x44 h f.bits)
  | .kor h f => some (packHdr 0x45 h f.bits)
  | .kxor h f => some (packHdr 0x46 h f.bits)
  | .knot h f => some (packHdr 0x47 h f.bits)
  | .kpop h f => some (packHdr 0x48 h f.bits)
  | .ktest h f => some (packHdr 0x49 h f.bits)
  | .vaccrd h f => some (packHdr 0x4C h f.bits)
  | .vaccwr h f => some (packHdr 0x4D h f.bits)
  | .aadd h f => some (packHdr 0x00 h f.bits)
  | .aaddi h f => some (packHdr 0x01 h f.bits)
  | .asub h f => some (packHdr 0x02 h f.bits)
  | .aadd64 h f => some (packHdr 0x03 h f.bits)
  | .aaddi64 h f => some (packHdr 0x04 h f.bits)
  | .amov h f => some (packHdr 0x05 h f.bits)
  | .amovi h f => some (packHdr 0x06 h f.bits)
  | .ashli h f => some (packHdr 0x07 h f.bits)
  | .aand h f => some (packHdr 0x08 h f.bits)
  | .acmp h f => some (packHdr 0x09 h f.bits)
  | .vld h f => some (packHdr 0x10 h f.bits)
  | .vst h f => some (packHdr 0x11 h f.bits)
  | .sld h f => some (packHdr 0x12 h f.bits)
  | .sst h f => some (packHdr 0x13 h f.bits)
  | .vstm h f => some (packHdr 0x14 h f.bits)
  | .amoadd h f => some (packHdr 0x18 h f.bits)
  | .amomin h f => some (packHdr 0x19 h f.bits)
  | .amomax h f => some (packHdr 0x1A h f.bits)
  | .amoand h f => some (packHdr 0x1B h f.bits)
  | .amoor h f => some (packHdr 0x1C h f.bits)
  | .amoxor h f => some (packHdr 0x1D h f.bits)
  | .amoswp h f => some (packHdr 0x1E h f.bits)
  | .amocas h f => some (packHdr 0x1F h f.bits)
  | .amofadd h f => some (packHdr 0x20 h f.bits)
  | .fence h f => some (packHdr 0x28 h f.bits)
  | .xfence h f => some (packHdr 0x29 h f.bits)
  | .wmwait h f => some (packHdr 0x2A h f.bits)
  | .winset h f => some (packHdr 0x30 h f.bits)
  | .winrd h f => some (packHdr 0x31 h f.bits)
  | .rgnset h f => some (packHdr 0x32 h f.bits)
  | .eadd h f => some (packHdr 0x00 h f.bits)
  | .eaddi h f => some (packHdr 0x01 h f.bits)
  | .emov h f => some (packHdr 0x02 h f.bits)
  | .emovi h f => some (packHdr 0x03 h f.bits)
  | .ecmp h f => some (packHdr 0x04 h f.bits)
  | .shset h f => some (packHdr 0x08 h f.bits)
  | .shmod h f => some (packHdr 0x09 h f.bits)
  | .shinv h f => some (packHdr 0x0A h f.bits)
  | .mplant h f => some (packHdr 0x10 h f.bits)
  | .mma h f => some (packHdr 0x11 h f.bits)
  | .mdrain h f => some (packHdr 0x12 h f.bits)
  | .mdrainSend h f => some (packHdr 0x12 h f.bits)
  | .mzero h f => some (packHdr 0x13 h f.bits)
  | .msave h f => some (packHdr 0x14 h f.bits)
  | .mrest h f => some (packHdr 0x15 h f.bits)
  | .mbatt h f => some (packHdr 0x16 h f.bits)
  | .cpy h f => some (packHdr 0x20 h f.bits)
  | .cpyd h f => some (packHdr 0x21 h f.bits)
  | .cpyr h f => some (packHdr 0x22 h f.bits)
  | .cpym h f => some (packHdr 0x23 h f.bits)
  | .wmset h f => some (packHdr 0x24 h f.bits)
  | .cwait h f => some (packHdr 0x28 h f.bits)
  | .cstat h f => some (packHdr 0x29 h f.bits)
  | .send h f => some (packHdr 0x2A h f.bits)
  | .ctset h f => some (packHdr 0x30 h f.bits)
  | .ctready h f => some (packHdr 0x31 h f.bits)
  | .grpset h f => some (packHdr 0x32 h f.bits)
  | .gfree h f => some (packHdr 0x33 h f.bits)
  | .pace h f => some (packHdr 0x38 h f.bits)
  | .nops r => some (packRig 0x00 r)
  | .rig r => some (packRig 0x01 r)
  | .rigm r => some (packRig 0x02 r)
  | .derig r => some (packRig 0x03 r)
  | .hold r => some (packRig 0x04 r)
  | .waitev r => some (packRig 0x05 r)
  | .sigev r => some (packRig 0x06 r)
  | .jmps r => some (packRig 0x07 r)
  | .loops r => some (packRig 0x08 r)
  | .xportDrain r => some (packRig 0x09 r)
  | .xportDark r => some (packRig 0x09 r)
  | .xportProbe r => some (packRig 0x09 r)
  | .xportOpen r => some (packRig 0x09 r)
  | .rtsw r => some (packRig 0x0A r)
  | .ends r => some (packRig 0x0B r)
  | .rigRetry => none
  | .settlingEnd => none
  | .pathBlocked => none
  | .pathRelease => none
  | .derigComplete => none
  | .drainComplete => none
  | .probeComplete _ => none
  | .probeTimeout => none
  | .messageSend => none
  | .row _ _ => none
  | .shortStore _ _ => none
  | .shortAtomic _ _ => none
  | .shortLoad _ _ => none
  | .reply _ _ => none
  | .chunk _ _ => none
  | .reductionContribution _ _ => none
  | .chunkApply => none
  | .multicastArrival _ _ => none
  | .statusFlit _ _ _ => none
  | .negativeResponse _ _ _ _ _ => none
  | .commit _ _ => none
  | .keepalive _ _ _ _ => none
  | .controlSlot _ => none
  | .keepaliveSend _ => none
  | .leafSlot _ => none
  | .resendTimeout => none
  | .allowanceAudit => none
  | .lampFail => none
  | .lampRelight => none
  | .ringDetune _ _ => none
  | .stripingChange _ _ => none
  | .controlRingDetune _ => none
  | .mziFail _ _ => none
  | .reroute => none
  | .extPortLoss => none
  | .peerAbsentTimeout => none
  | .semaphoreFileCycle => none
  | .walkerCycle => none
  | .limiterStep => none
  | .governorSample _ => none
  | .matrixDivisorChange => none
  | .matrixJobOffer => none
  | .matrixJobStart => none
  | .matrixJobComplete => none
  | .channelJobStart => none
  | .copyChunk => none
  | .carderBlock => none
  | .copyJobComplete => none
  | .sendJobStart => none
  | .firingComplete => none
  | .watermarkStallEnd => none
  | .faultDelivery _ => none
  | .hubRecovery => none
  | .clusterDeadlock => none
  | .watchdog => none
  | .taskDoorbell _ => none
  | .dispatcherScan => none
  | .leaseGrant _ => none
  | .launch => none
  | .preemptionRequest => none
  | .coreStop => none
  | .engineFreeze => none
  | .rigProgramStop => none
  | .preemptionComplete => none
  | .resume => none
  | .tilePartEnd => none
  | .taskEnd => none
  | .coreGate => none
  | .wakeRequest => none
  | .inrushGrant => none
  | .coreWake => none
  | .coreFailed _ => none
  | .tileBypass _ => none
  | .softCorrected _ _ => none
  | .hubFailure => none
  | .powerUp => none
  | .fundamentalReset => none
  | .functionLevelReset => none
  | .linkDown => none
  | .linkRetrain _ _ => none
  | .msixUnmask _ => none
  | .bar2Read _ => none
  | .bar2Write _ _ => none
  | .mapslot => none
  | .unmapslot => none
  | .xlate => none
  | .hostmap => none
  | .hostunmap => none
  | .attestationRequest => none
  | .attestationComplete => none
  | .mgmtXportDrain => none
  | .mgmtXportDark => none
  | .mgmtXportProbe => none
  | .mgmtXportOpen => none
  | .checkpoint => none
  | .checkpointComplete => none
  | .restore => none
  | .restoreComplete => none
  | .abort => none
  | .setmodid => none
  | .registerWrite _ _ => none
  | .memoryPortApply => none
  | .configurationRequest => none

/-- The units that read the word of an instruction as that instruction: its own cluster, every cluster for
the common group, the fabric sequencer for a rig word, none for a machine event (R240 to R246). -/
def Instr.units : Instr → List FetchUnit
  | .add _ _ => [.cluster .c]
  | .addi _ _ => [.cluster .c]
  | .sub _ _ => [.cluster .c]
  | .mul _ _ => [.cluster .c]
  | .mulh _ _ => [.cluster .c]
  | .mulhu _ _ => [.cluster .c]
  | .mad _ _ => [.cluster .c]
  | .div _ _ => [.cluster .c]
  | .divu _ _ => [.cluster .c]
  | .rem _ _ => [.cluster .c]
  | .remu _ _ => [.cluster .c]
  | .and _ _ => [.cluster .c]
  | .andi _ _ => [.cluster .c]
  | .or _ _ => [.cluster .c]
  | .ori _ _ => [.cluster .c]
  | .xor _ _ => [.cluster .c]
  | .xori _ _ => [.cluster .c]
  | .andn _ _ => [.cluster .c]
  | .shl _ _ => [.cluster .c]
  | .shli _ _ => [.cluster .c]
  | .shr _ _ => [.cluster .c]
  | .shri _ _ => [.cluster .c]
  | .sar _ _ => [.cluster .c]
  | .sari _ _ => [.cluster .c]
  | .rotl _ _ => [.cluster .c]
  | .min _ _ => [.cluster .c]
  | .max _ _ => [.cluster .c]
  | .minu _ _ => [.cluster .c]
  | .maxu _ _ => [.cluster .c]
  | .clz _ _ => [.cluster .c]
  | .popc _ _ => [.cluster .c]
  | .brev _ _ => [.cluster .c]
  | .extr _ _ => [.cluster .c]
  | .insr _ _ => [.cluster .c]
  | .mov _ _ => [.cluster .c]
  | .movi _ _ => [.cluster .c]
  | .sel _ _ => [.cluster .c]
  | .cmp _ _ => [.cluster .c]
  | .cmpi _ _ => [.cluster .c]
  | .jmp _ _ => [.cluster .c]
  | .call _ _ => [.cluster .c]
  | .ret _ _ => [.cluster .c]
  | .semsig _ _ => [.cluster .c]
  | .semwait _ _ => [.cluster .c]
  | .semtry _ _ => [.cluster .c]
  | .semset _ _ => [.cluster .c]
  | .semrd _ _ => [.cluster .c]
  | .barrive _ _ => [.cluster .c]
  | .bexpect _ _ => [.cluster .c]
  | .bwait _ _ => [.cluster .c]
  | .iter _ _ => [.cluster .c]
  | .exit _ _ => [.cluster .c]
  | .safept _ _ => [.cluster .c]
  | .sevt _ _ => [.cluster .c]
  | .trap _ _ => [.cluster .c]
  | .eret _ _ => [.cluster .c]
  | .rdsr _ _ => [.cluster .c]
  | .wrsr _ _ => [.cluster .c]
  | .clkdiv _ _ => [.cluster .c]
  | .rdcnt _ _ => [.cluster .c]
  | .halt _ _ => [.cluster .c]
  | .br _ _ => [.cluster .c, .cluster .v, .cluster .m, .cluster .e]
  | .loop _ _ => [.cluster .c, .cluster .v, .cluster .m, .cluster .e]
  | .xput _ _ => [.cluster .c, .cluster .v, .cluster .m, .cluster .e]
  | .gop _ _ => [.cluster .c, .cluster .v, .cluster .m, .cluster .e]
  | .nop _ _ => [.cluster .c, .cluster .v, .cluster .m, .cluster .e]
  | .vfadd _ _ => [.cluster .v]
  | .vfsub _ _ => [.cluster .v]
  | .vfmul _ _ => [.cluster .v]
  | .vfma _ _ => [.cluster .v]
  | .vfmin _ _ => [.cluster .v]
  | .vfmax _ _ => [.cluster .v]
  | .vfcmp _ _ => [.cluster .v]
  | .vfsum _ _ => [.cluster .v]
  | .vfrcp _ _ => [.cluster .v]
  | .vfrsq _ _ => [.cluster .v]
  | .vfexp2 _ _ => [.cluster .v]
  | .vflog2 _ _ => [.cluster .v]
  | .vftanh _ _ => [.cluster .v]
  | .vhadd _ _ => [.cluster .v]
  | .vhmul _ _ => [.cluster .v]
  | .vhfma _ _ => [.cluster .v]
  | .vhdot2 _ _ => [.cluster .v]
  | .vadd _ _ => [.cluster .v]
  | .vsub _ _ => [.cluster .v]
  | .vmul _ _ => [.cluster .v]
  | .vmulh _ _ => [.cluster .v]
  | .vmin _ _ => [.cluster .v]
  | .vmax _ _ => [.cluster .v]
  | .vand _ _ => [.cluster .v]
  | .vor _ _ => [.cluster .v]
  | .vxor _ _ => [.cluster .v]
  | .vshl _ _ => [.cluster .v]
  | .vshr _ _ => [.cluster .v]
  | .vsar _ _ => [.cluster .v]
  | .vicmp _ _ => [.cluster .v]
  | .vadds _ _ => [.cluster .v]
  | .vsubs _ _ => [.cluster .v]
  | .vired _ _ => [.cluster .v]
  | .vcvt _ _ => [.cluster .v]
  | .vquant _ _ => [.cluster .v]
  | .vdeq _ _ => [.cluster .v]
  | .vsgn1 _ _ => [.cluster .v]
  | .vxsgn1 _ _ => [.cluster .v]
  | .vmov _ _ => [.cluster .v]
  | .vbcast _ _ => [.cluster .v]
  | .vsel _ _ => [.cluster .v]
  | .vperm _ _ => [.cluster .v]
  | .vrotm _ _ => [.cluster .v]
  | .vzip _ _ => [.cluster .v]
  | .vunzip _ _ => [.cluster .v]
  | .viota _ _ => [.cluster .v]
  | .vextl _ _ => [.cluster .v]
  | .vinsl _ _ => [.cluster .v]
  | .kand _ _ => [.cluster .v]
  | .kor _ _ => [.cluster .v]
  | .kxor _ _ => [.cluster .v]
  | .knot _ _ => [.cluster .v]
  | .kpop _ _ => [.cluster .v]
  | .ktest _ _ => [.cluster .v]
  | .vaccrd _ _ => [.cluster .v]
  | .vaccwr _ _ => [.cluster .v]
  | .aadd _ _ => [.cluster .m]
  | .aaddi _ _ => [.cluster .m]
  | .asub _ _ => [.cluster .m]
  | .aadd64 _ _ => [.cluster .m]
  | .aaddi64 _ _ => [.cluster .m]
  | .amov _ _ => [.cluster .m]
  | .amovi _ _ => [.cluster .m]
  | .ashli _ _ => [.cluster .m]
  | .aand _ _ => [.cluster .m]
  | .acmp _ _ => [.cluster .m]
  | .vld _ _ => [.cluster .m]
  | .vst _ _ => [.cluster .m]
  | .sld _ _ => [.cluster .m]
  | .sst _ _ => [.cluster .m]
  | .vstm _ _ => [.cluster .m]
  | .amoadd _ _ => [.cluster .m]
  | .amomin _ _ => [.cluster .m]
  | .amomax _ _ => [.cluster .m]
  | .amoand _ _ => [.cluster .m]
  | .amoor _ _ => [.cluster .m]
  | .amoxor _ _ => [.cluster .m]
  | .amoswp _ _ => [.cluster .m]
  | .amocas _ _ => [.cluster .m]
  | .amofadd _ _ => [.cluster .m]
  | .fence _ _ => [.cluster .m]
  | .xfence _ _ => [.cluster .m]
  | .wmwait _ _ => [.cluster .m]
  | .winset _ _ => [.cluster .m]
  | .winrd _ _ => [.cluster .m]
  | .rgnset _ _ => [.cluster .m]
  | .eadd _ _ => [.cluster .e]
  | .eaddi _ _ => [.cluster .e]
  | .emov _ _ => [.cluster .e]
  | .emovi _ _ => [.cluster .e]
  | .ecmp _ _ => [.cluster .e]
  | .shset _ _ => [.cluster .e]
  | .shmod _ _ => [.cluster .e]
  | .shinv _ _ => [.cluster .e]
  | .mplant _ _ => [.cluster .e]
  | .mma _ _ => [.cluster .e]
  | .mdrain _ _ => [.cluster .e]
  | .mdrainSend _ _ => [.cluster .e]
  | .mzero _ _ => [.cluster .e]
  | .msave _ _ => [.cluster .e]
  | .mrest _ _ => [.cluster .e]
  | .mbatt _ _ => [.cluster .e]
  | .cpy _ _ => [.cluster .e]
  | .cpyd _ _ => [.cluster .e]
  | .cpyr _ _ => [.cluster .e]
  | .cpym _ _ => [.cluster .e]
  | .wmset _ _ => [.cluster .e]
  | .cwait _ _ => [.cluster .e]
  | .cstat _ _ => [.cluster .e]
  | .send _ _ => [.cluster .e]
  | .ctset _ _ => [.cluster .e]
  | .ctready _ _ => [.cluster .e]
  | .grpset _ _ => [.cluster .e]
  | .gfree _ _ => [.cluster .e]
  | .pace _ _ => [.cluster .e]
  | .nops _ => [.rig]
  | .rig _ => [.rig]
  | .rigm _ => [.rig]
  | .derig _ => [.rig]
  | .hold _ => [.rig]
  | .waitev _ => [.rig]
  | .sigev _ => [.rig]
  | .jmps _ => [.rig]
  | .loops _ => [.rig]
  | .xportDrain _ => [.rig]
  | .xportDark _ => [.rig]
  | .xportProbe _ => [.rig]
  | .xportOpen _ => [.rig]
  | .rtsw _ => [.rig]
  | .ends _ => [.rig]
  | .rigRetry => []
  | .settlingEnd => []
  | .pathBlocked => []
  | .pathRelease => []
  | .derigComplete => []
  | .drainComplete => []
  | .probeComplete _ => []
  | .probeTimeout => []
  | .messageSend => []
  | .row _ _ => []
  | .shortStore _ _ => []
  | .shortAtomic _ _ => []
  | .shortLoad _ _ => []
  | .reply _ _ => []
  | .chunk _ _ => []
  | .reductionContribution _ _ => []
  | .chunkApply => []
  | .multicastArrival _ _ => []
  | .statusFlit _ _ _ => []
  | .negativeResponse _ _ _ _ _ => []
  | .commit _ _ => []
  | .keepalive _ _ _ _ => []
  | .controlSlot _ => []
  | .keepaliveSend _ => []
  | .leafSlot _ => []
  | .resendTimeout => []
  | .allowanceAudit => []
  | .lampFail => []
  | .lampRelight => []
  | .ringDetune _ _ => []
  | .stripingChange _ _ => []
  | .controlRingDetune _ => []
  | .mziFail _ _ => []
  | .reroute => []
  | .extPortLoss => []
  | .peerAbsentTimeout => []
  | .semaphoreFileCycle => []
  | .walkerCycle => []
  | .limiterStep => []
  | .governorSample _ => []
  | .matrixDivisorChange => []
  | .matrixJobOffer => []
  | .matrixJobStart => []
  | .matrixJobComplete => []
  | .channelJobStart => []
  | .copyChunk => []
  | .carderBlock => []
  | .copyJobComplete => []
  | .sendJobStart => []
  | .firingComplete => []
  | .watermarkStallEnd => []
  | .faultDelivery _ => []
  | .hubRecovery => []
  | .clusterDeadlock => []
  | .watchdog => []
  | .taskDoorbell _ => []
  | .dispatcherScan => []
  | .leaseGrant _ => []
  | .launch => []
  | .preemptionRequest => []
  | .coreStop => []
  | .engineFreeze => []
  | .rigProgramStop => []
  | .preemptionComplete => []
  | .resume => []
  | .tilePartEnd => []
  | .taskEnd => []
  | .coreGate => []
  | .wakeRequest => []
  | .inrushGrant => []
  | .coreWake => []
  | .coreFailed _ => []
  | .tileBypass _ => []
  | .softCorrected _ _ => []
  | .hubFailure => []
  | .powerUp => []
  | .fundamentalReset => []
  | .functionLevelReset => []
  | .linkDown => []
  | .linkRetrain _ _ => []
  | .msixUnmask _ => []
  | .bar2Read _ => []
  | .bar2Write _ _ => []
  | .mapslot => []
  | .unmapslot => []
  | .xlate => []
  | .hostmap => []
  | .hostunmap => []
  | .attestationRequest => []
  | .attestationComplete => []
  | .mgmtXportDrain => []
  | .mgmtXportDark => []
  | .mgmtXportProbe => []
  | .mgmtXportOpen => []
  | .checkpoint => []
  | .checkpointComplete => []
  | .restore => []
  | .restoreComplete => []
  | .abort => []
  | .setmodid => []
  | .registerWrite _ _ => []
  | .memoryPortApply => []
  | .configurationRequest => []

end Sys2Proof
end

