-- ==== Sys2Proof/Machine/Shake.lean ====
section
/-!
DEFINITION. SHAKE256 with 32 bytes of output, the digest that spec/02 R46 and R57 name: the sponge over Keccak-f[1600] of
FIPS 202 (log 11).
-/
namespace Sys2Proof.Machine

/-- The round constants of Keccak-f[1600]. -/
def keccakRounds : List DWord :=
  [0x0000000000000001, 0x0000000000008082, 0x800000000000808A, 0x8000000080008000, 0x000000000000808B, 0x0000000080000001,
    0x8000000080008081, 0x8000000000008009, 0x000000000000008A, 0x0000000000000088, 0x0000000080008009, 0x000000008000000A] ++
  [0x000000008000808B, 0x800000000000008B, 0x8000000000008089, 0x8000000000008003, 0x8000000000008002, 0x8000000000000080,
    0x000000000000800A, 0x800000008000000A, 0x8000000080008081, 0x8000000000008080, 0x0000000080000001, 0x8000000080008008]

/-- The rotation of lane x + 5y. -/
def keccakRot : List Nat :=
  [0, 1, 62, 28, 27, 36, 44, 6, 55, 20, 3, 10, 43] ++ [25, 39, 41, 45, 15, 21, 8, 18, 2, 61, 56, 14]

/-- The lane that the step pi puts in place i. -/
def keccakFrom (i : Nat) : Nat :=
  let y := i % 5
  let x := (y + 3 * (i / 5)) % 5
  x + 5 * y

/-- One round of Keccak-f[1600] on 25 lanes. -/
def keccakRound (a : List DWord) (rc : DWord) : List DWord :=
  let l (i : Nat) : DWord := a.getD i 0
  let c := (List.range 5).map fun x => l x ^^^ l (x + 5) ^^^ l (x + 10) ^^^ l (x + 15) ^^^ l (x + 20)
  let d := (List.range 5).map fun x => c.getD ((x + 4) % 5) 0 ^^^ (c.getD ((x + 1) % 5) 0).rotateLeft 1
  let t := (List.range 25).map fun i => l i ^^^ d.getD (i % 5) 0
  let b := (List.range 25).map fun i => (t.getD (keccakFrom i) 0).rotateLeft (keccakRot.getD (keccakFrom i) 0)
  let g (x y : Nat) : DWord := b.getD (x % 5 + 5 * y) 0
  (List.range 25).map fun i =>
    (g i (i / 5) ^^^ (~~~(g (i % 5 + 1) (i / 5)) &&& g (i % 5 + 2) (i / 5))) ^^^ if i = 0 then rc else 0

/-- Keccak-f[1600]. -/
def keccak (a : List DWord) : List DWord := keccakRounds.foldl keccakRound a

/-- A sponge that has absorbed whole blocks of 136 bytes, with the bytes that wait for the next one. -/
structure Sponge where
  lanes : List DWord := List.replicate 25 0
  rest : List Byte := []
  deriving DecidableEq, Repr, Inhabited

/-- 64 bits from bytes, lowest first. -/
def laneOf : List Byte → DWord
  | [] => 0
  | b :: r => (laneOf r <<< 8) ||| b.setWidth 64

/-- One block absorbed. -/
def absorbBlock (a : List DWord) (blk : List Byte) : List DWord :=
  keccak ((List.range 25).map fun i => a.getD i 0 ^^^ laneOf ((blk.drop (8 * i)).take 8))

/-- Whole blocks absorbed, at most n of them. -/
def absorbAll : Nat → Sponge → Sponge
  | 0, p => p
  | n + 1, p =>
    if p.rest.length < 136 then p
    else absorbAll n { lanes := absorbBlock p.lanes (p.rest.take 136), rest := p.rest.drop 136 }

/-- Bytes absorbed. -/
def Sponge.absorb (p : Sponge) (l : List Byte) : Sponge :=
  absorbAll ((p.rest.length + l.length) / 136) { p with rest := p.rest ++ l }

/-- The 32 bytes of output, lowest first. -/
def Sponge.digest (p : Sponge) : BitVec 256 :=
  let pad := p.rest ++ (if p.rest.length = 135 then [0x9F] else 0x1F :: List.replicate (134 - p.rest.length) 0 ++ [0x80])
  let a := absorbBlock p.lanes pad
  a.getD 3 0 ++ a.getD 2 0 ++ a.getD 1 0 ++ a.getD 0 0

/-- SHAKE256 of bytes (R46, R57). -/
def shake256 (l : List Byte) : BitVec 256 := (({} : Sponge).absorb l).digest

end Sys2Proof.Machine
end

