-- ==== Sys2Proof/Machine/Tbl.lean ====
section
/-!
DEFINITION. Finite tables by number: the sparse arrays of the state. A key that is not listed reads as the
default its reader names, so a table with nothing listed is the reset value of an array.
-/
namespace Sys2Proof.Machine

/-- A table of values by number, keys rising. -/
structure Tbl (α : Type) where
  rows : List (Nat × α) := []
  deriving DecidableEq, Repr, Inhabited

/-- The value at a key in a list of pairs, or the default. -/
def Tbl.find {α : Type} : List (Nat × α) → Nat → α → α
  | [], _, d => d
  | (j, x) :: r, k, d => if j = k then x else Tbl.find r k d

/-- The list with the value at a key put in its place. -/
def Tbl.put {α : Type} : List (Nat × α) → Nat → α → List (Nat × α)
  | [], k, x => [(k, x)]
  | (j, y) :: r, k, x =>
    if k < j then (k, x) :: (j, y) :: r
    else if j = k then (k, x) :: r
    else (j, y) :: Tbl.put r k x

/-- The value at key k, or d where none is listed. -/
def Tbl.get {α : Type} (t : Tbl α) (k : Nat) (d : α) : α := Tbl.find t.rows k d

/-- The table with x at key k. -/
def Tbl.set {α : Type} (t : Tbl α) (k : Nat) (x : α) : Tbl α := ⟨Tbl.put t.rows k x⟩

/-- The keys listed. -/
def Tbl.keys {α : Type} (t : Tbl α) : List Nat := t.rows.map Prod.fst

/-- The table with f applied to every listed value. -/
def Tbl.mapVals {α : Type} (t : Tbl α) (f : Nat → α → α) : Tbl α := ⟨t.rows.map fun p => (p.1, f p.1 p.2)⟩

end Sys2Proof.Machine
end

