-- ==== Sys2Proof/Machine/State.lean ====
section
/-!
DEFINITION. The state of the module as plain data: every register, queue, table and record that the spec names
(INVENTORY.md, State), the reasons a step can stop, and the state right after module reset. Fields that are the
model's own (the agenda, the pool, the issuing word's context, the counter of free values) say so.
-/
namespace Sys2Proof.Machine

/-- Faults of the model. Every fault of the spec is delivered as a next state (R409 to R417), so no meaning
raises one; the constructor keeps the type inhabited and is safe. -/
inductive Fault where
  /-- Raised by no meaning. Safe. -/
  | none
  deriving DecidableEq, Repr, Inhabited

/-- Refusals of the model. -/
inductive Refusal where
  /-- Raised by a dispatch arm whose instruction has no meaning yet. Safe. -/
  | notModelled (mnemonic : String)
  deriving DecidableEq, Repr, Inhabited

/-! ## Cores -/

/-- An entry of a loop stack: start, end, count left and the return-stack depth at its push (R267, R268). -/
structure LoopEnt where
  start : Pc
  stop : Pc
  count : Word
  depth : Nat
  deriving DecidableEq, Repr, Inhabited

/-- What a word that has issued still waits for: an answer of the semaphore file or the walker (R69, R272), the
reply of a home or of the memory port (R318, R325), or nothing. The answer carries the rc from which it is there,
its value, the row of a load, and the code of a fault or a refusal. -/
structure Ans where
  due : Nat
  val : Word := 0
  row : Row := 0
  ok : Bool := true
  fault : Option FaultRec := none
  deriving DecidableEq, Repr, Inhabited

/-- What precedes a point of a core in core order (R171): the accesses of its M cluster with places below m, and the
jobs of its E cluster with ids below j. -/
structure Know where
  m : Nat := 0
  j : Nat := 0
  deriving DecidableEq, Repr, Inhabited

/-- What a word that has issued waits for: `leave` is a semaphore word that waits before it leaves for the file, with its
operand (R273); `atomic` a release atomic that waits before it is sent through its window, with what it read at issue (R184,
R316); `reply` the reply of a load or an atomic, with its handle and the effective address; `fence` the accesses of a
fence, with the contribution chunks that stood at the port when it issued, by slot, number and round (R175); `watermark`
a WMWAIT with its row, none for the end of a range, and `circuit` a CWAIT; `shape` is a shape-table or collective-table
word with its operands (R343, R373). -/
inductive Req where
  | leave (v : Word)
  | sem (n : Nat)
  | walker
  | atomic (win mpa : Nat) (va : Va) (x prev : Word)
  | reply (handle ea : Nat)
  | fence (rx : List (Nat × Nat × Word))
  | watermark (mpa : Option Nat)
  | circuit
  | shape (a b : Word)
  deriving DecidableEq, Repr, Inhabited

/-- How a cluster stands: running; stopped by a fault, a trap elsewhere, an exit, a halt or pre-emption. -/
inductive CluStat where
  | running | stopped
  deriving DecidableEq, Repr, Inhabited

/-- A register, or mask k as 128 + k, whose write is delivered in rc t: its contents until then, and the bits that the
delivery writes (R94, R260, R289, R318). -/
structure Late where
  key : Nat
  t : Nat
  old : Row
  bits : Row
  deriving DecidableEq, Repr, Inhabited

/-- One cluster of a core: its program counter (R245), guards (R235), latches of 32 bits with the valid ones
listed and the pushes made so far (R74), cross queue (R77; each entry with 4 times its arrival rc plus its source's code) and
what each entry's push follows (R171), what the cluster's next word follows, and what its waiting word did, in core order
(`know`, `since`; R171), the deliveries under way (R260, R289, R318: the rc of delivery by register, 128 + k for mask k, 256 + n for start interval n; the latest
one, and the latest push; the rc that deliveries of a given rc wait for whatever the divisor, R314), loop stack (R268), trap return register (R278), the latched halves of R283 and
R53, and where its present word stands: whether it has taken part in its rendezvous (`noSync`, R415), what it
waits for, and the handler word at which the cluster goes on once it completes (`redir`, R278); of its registers (a mask as 128 + k),
its latches and the entries of its xq, by place from the oldest, those found uncorrectable (R441). -/
structure Clu where
  stat : CluStat := .stopped
  pc : Pc := 0
  guards : BitVec 8 := 1
  lat : List Word := []
  pushes : Nat := 0
  xq : List (Nat × Word) := []
  xk : List (Nat × Know) := []
  know : Know := {}
  since : Know := {}
  late : List Late := []
  busy : Tbl Nat := {}
  last : Nat := 0
  pushed : Nat := 0
  floors : List (Nat × Nat) := []
  loops : List LoopEnt := []
  joined : Bool := false
  held : Bool := false
  noSync : Bool := false
  req : Option Req := none
  ans : Option Ans := none
  next : Nat := 0
  redir : Option Pc := none
  trapRet : Pc := 0
  trapLoops : Nat := 0
  trapNoSync : Bool := false
  cycHi : Option Word := none
  evtHi : Tbl (Option (BitVec 16)) := {}
  stall : Nat := 0
  badRegs : List Nat := []
  badLat : List Nat := []
  badXq : List Nat := []
  deriving DecidableEq, Repr, Inhabited

/-- A local atomic on its way: its operation, its operands, the register that takes the old value, the place of its
push among those of its cluster, and whether it is an acquire too (R172, R318, R324). -/
structure Amo where
  op : BitVec 7
  x : Word
  prev : Word
  d : Option Nat
  mark : Nat
  acq : Bool := false
  deriving DecidableEq, Repr, Inhabited

/-- A store of the M cluster whose address is fixed and that waits for its data (there from rc `ready`), its turn or its allowance
(R75, R107): `sq` says that they come from sq, `amo` that it is a local release atomic (R184, R318); `ord` is its place in
the M stream. -/
structure PendStore where
  va : Va
  mpa : Nat
  win : Option Nat
  lane : Option Nat
  data : Option Row
  ready : Nat := 0
  g : Bool
  rel : Bool
  sc : BitVec 2
  pc : Pc
  group : Option (Nat × Byte)
  handle : Nat
  handlerWork : Bool
  sq : Bool := false
  amo : Option Amo := none
  ord : Nat := 0
  deriving DecidableEq, Repr, Inhabited

/-- The formats of a CIM macro, by the code FMTC of R345. -/
structure Macro where
  fmtc : Nat
  k : Nat
  n : Nat
  el : Tbl (BitVec 16) := {}
  bexp : Tbl Byte := {}
  deriving DecidableEq, Repr, Inhabited

/-- The kinds of engine job (R333, R354). -/
inductive JobOp where
  | mplant | mma | mdrain | mdrainSend | mzero | msave | mrest | mbatt
  | cpy | cpyd | cpyr | cpym | wmset | send | ctready
  deriving DecidableEq, Repr, Inhabited

/-- Where a job stands in its queue (R335, R85, R338). -/
inductive JobStat where
  | queued | offered | granted | running | frozen | parked | sentAll
  deriving DecidableEq, Repr, Inhabited

/-- What the carder has read of a block's outcome: the elements, as the copy of R360 writes them, with the block's bytes in the
source; or the fault of the block (R361, R363). -/
structure CBlk where
  due : Nat
  elems : List Acc := []
  len : Nat := 0
  fail : Option FaultRec := none
  deriving DecidableEq, Repr, Inhabited

/-- The carder at work on a CPYD (R362): the source bytes read from stream position `org` on; the stream position, the element
and the number of the next block; the rc at which the block under way is decoded; the decoded blocks not yet verified, with the rc
of their verification; and of the verified one the rows of the destination, by MPA over 256, still to be written, and the rc of
the next, with the fault that follows them. -/
structure Card where
  org : Nat
  inb : List Nat := []
  pos : Nat
  e : Nat
  blk : Nat
  dec : Option Nat := none
  wait : List CBlk := []
  out : List Nat := []
  writeAt : Nat := 0
  stop : Bool := false
  fail : Option FaultRec := none
  deriving DecidableEq, Repr, Inhabited

/-- An engine job: the operand values and fields captured at issue (R333), its word index, whether a handler
issued it (R412), its wait (R334), the step of its request and its start (R223, R335), the records and regions
captured at its start (R116), whether it has started, its progress in rows, chunks or blocks and within one of them
(R85, R358), its engine cycles since it started, the rc at which a matrix job has done its work and the cycles that bank
conflicts have yet to add (R337), the messages it has had accepted or delivered, those it sends in all and those not yet acknowledged, the
acknowledgement mask of its multicasts with SEQ, NEGCODE, group offset and GEN of the first message that has one (R467),
the handle that a hub recovery waits for, or 64 where it waits for none (R472, R475), the block at which it has
been retried, the rows it drains (R349), the accumulator row under way, the
carder block it is at, the handle and address of a chunk that a torn-down circuit has lost (R448), and the rc at which a matrix
job last left an interruptible step, with what the bank rows held that it has written since in the same matrix step (R352); whether
its firing has been sent (R203), the first chunk of it that uncorrectable data keeps from being sent, as its granule and its place
among the messages (R443); the window of a remote copy (R355); and the carder while it works on it. -/
structure Job where
  id : Nat
  op : JobOp
  f : EngF
  a : Word
  b : Word
  c : Word
  pc : Pc
  handler : Bool := false
  stat : JobStat := .queued
  waitSent : Bool := false
  waitDone : Bool := false
  reqStep : Nat := 0
  start : Nat := 0
  recA : BitVec 512 := 0
  recB : BitVec 512 := 0
  recC : BitVec 512 := 0
  begun : Bool := false
  prog : Nat := 0
  pos : Nat := 0
  ecs : Nat := 0
  fin : Option Nat := none
  debt : Nat := 0
  bytes : Nat := 0
  unacked : Nat := 0
  mask : BitVec 16 := 0
  maskInfo : Option (Word × BitVec 16 × Nat × Byte) := none
  hub : Option Nat := none
  retried : Option Nat := none
  drained : List Row := []
  buf : List Acc := []
  blk : Nat := 0
  total : Nat := 0
  lost : Option (Nat × Va) := none
  stepAt : Nat := 0
  undo : List (Nat × List Acc) := []
  fired : Bool := false
  cut : Option (Nat × Nat) := none
  win : Option Nat := none
  card : Option Card := none
  deriving DecidableEq, Repr, Inhabited

/-- What a core does once its present bundle has issued: TRAP's entry with its number and word index, ERET's
return (R278, R279), or EXIT's naming of a successor (R78, R430). -/
inductive Post where
  | trap (num : Byte) (pc : Pc)
  | eret
  | exit (t : BitVec 16) (pc : Pc)
  deriving DecidableEq, Repr, Inhabited

/-- A request for rows of a core's scratchpad that its banks have yet to serve (R105): its requestor, by class in the fixed order
and by number within the class; the banks, that of the row asked for first; the bank cycle from which it asks; the cycles lost in
a row; and, of the matrix engine, the scratchpad row and the job that stalls meanwhile. -/
structure BankReq where
  cls : Nat
  sub : Nat
  banks : List Nat
  since : Nat
  row : Nat := 0
  lost : Nat := 0
  job : Option Nat := none
  deriving DecidableEq, Repr, Inhabited

/-- One core. The rows of lq and sq stand with the rc from which they are there (R75), and beside them what each entry's push
follows in core order (`lk`, `sk`; R171); `fpend` holds the flags of V words with their rc of delivery (R136); `mcount`
numbers the accesses of its M cluster, `learnt` is the rc of its latest acquire (R180); `tileid` and `coreid` are the identity registers that a launch and a resume load (R282).
`bundlePcs` are the program counters and loop stacks before the last bundle,
`bundleXqs` its clusters' cross queues then, `bundleWait` says that a word of it may still wait, `waitBundle` that it follows a SAFEPT bundle in joined execution
(R84), and `bundleOn` which of its words' guards held at its issue. Of the matrix engine: `engFrom` is the first step boundary under its present divisor, `engEc` its cycles before that,
`engCut` and `engOld` the rc at which the divisor before it ended and that divisor,
`engAt` the rc up to which its jobs have done their work, and `lastStart` counts in those cycles for its queues (R220, R227);
`bankq` holds what the scratchpad's banks have yet to serve (R105). Of its lq and sq, by place from the oldest, of its accumulators, by their
key, and of its macros, as macro, column and K-block, the last lists hold what was found uncorrectable (R441). -/
structure Core where
  s : Tbl Word := {}
  a : Tbl Word := {}
  e : Tbl Word := {}
  v : Tbl Row := {}
  k : Tbl (BitVec 64) := {}
  vlat : List Row := []
  c : Clu := {}
  vc : Clu := {}
  m : Clu := {}
  ec : Clu := {}
  ret : List Pc := []
  trapRetDepth : Nat := 0
  lq : List (Option (Nat × Row)) := []
  lk : List Know := []
  sq : List (Nat × Row) := []
  sk : List Know := []
  pend : List PendStore := []
  mcount : Nat := 0
  learnt : Nat := 0
  rgn : Tbl DWord := {}
  acc : Tbl Acc := {}
  macros : Tbl Macro := {}
  mxq : List Job := []
  hxq : List Job := []
  chq : Tbl (List Job) := {}
  sendq : List Job := []
  gap : Tbl Nat := {}
  lastStart : Tbl Nat := {}
  fpflags : BitVec 5 := 0
  fpend : List (Nat × BitVec 5) := []
  trap : Bool := false
  trapcause : Word := 0
  trappcHi : Word := 0
  trapval : DWord := 0
  trapvec : BitVec 17 := 0x1FFFF
  msaved : Bool := false
  mrested : Bool := false
  heapbase : BitVec 30 := 0
  heaplimit : BitVec 30 := 0
  heapoff : BitVec 18 := 0
  tileid : Word := 0
  coreid : Word := 0
  ctx : BitVec 4 := 0
  cdiv : Nat := 2
  mdiv : Nat := 2
  mdivNew : Nat := 2
  meff : Nat := 2
  engFrom : Nat := 0
  engAt : Nat := 0
  engEc : Nat := 0
  engCut : Nat := 0
  engOld : Nat := 2
  bankq : List BankReq := []
  exited : Option (BitVec 16) := none
  halted : Bool := false
  stopped : Bool := false
  safeLast : Option Nat := none
  liveMap : Nat := 0
  post : Option Post := none
  bundlePcs : List (Pc × List LoopEnt) := []
  bundleXqs : List (List (Nat × Word)) := []
  bundleOn : List Bool := []
  bundleWait : Bool := false
  waitBundle : Bool := false
  parkedFor : List Nat := []
  waitsSup : Bool := false
  heldFaults : List (FaultRec × Nat) := []
  issued : Nat := 0
  watch : Nat := 0
  lastC : Pc := 0
  quietAt : Nat := 0
  gated : Bool := false
  gateAt : Nat := 0
  idleAt : Nat := 0
  wakeReq : Bool := false
  woken : Bool := false
  frozenCtx : Bool := false
  badLq : List Nat := []
  badSq : List Nat := []
  badAcc : List Nat := []
  badMac : List (Nat × Nat × Nat) := []
  deriving DecidableEq, Repr, Inhabited

/-! ## Tiles -/

/-- A waiter of a semaphore: a C cluster's SEMWAIT or the head job of an engine queue, with its amount (R70). -/
structure Waiter where
  core : CoreId
  src : Option QueueId
  amount : Word
  deriving DecidableEq, Repr, Inhabited

/-- A semaphore (R187). In counting mode `count` is its only word. -/
structure Sem where
  phaseMode : Bool := false
  count : Word := 0
  expa : BitVec 16 := 0
  arrv : BitVec 16 := 0
  expb : Word := 0
  bytes : Word := 0
  phase : Word := 0
  waiters : List Waiter := []
  bwaits : List (CoreId × Word) := []
  deriving DecidableEq, Repr, Inhabited

/-- An operation on its way to the semaphore file (R271, R272). -/
inductive SemOp where
  | set (phaseMode : Bool) (v : Word)
  | sig (n : Word)
  | arrive
  | expect (n : Word)
  | engine (bytes : Option Nat)
  | incr
  | wait (amount : Word)
  | jobWait (q : QueueId)
  | try (amount : Word)
  | bwait (token : Word)
  | rd (w : BitVec 3)
  deriving DecidableEq, Repr, Inhabited

/-- An operation and the rc in which it is ready to land (R272). -/
structure Landing where
  ready : Nat
  sem : BitVec 8
  core : CoreId
  op : SemOp
  deriving DecidableEq, Repr, Inhabited

/-- An outbound window (R106). -/
structure Win where
  v : Bool := false
  lbase : BitVec 39 := 0
  tmod : BitVec 10 := 0
  ttile : BitVec 5 := 0
  tbase : BitVec 27 := 0
  size : BitVec 16 := 0
  handle : BitVec 6 := 0
  rv : Bool := false
  rhandle : BitVec 6 := 0
  allow : BitVec 16 := 0
  out : Nat := 0
  deriving DecidableEq, Repr, Inhabited

/-- An inbound entry (R109). -/
structure Inb where
  v : Bool := false
  grp : Bool := false
  wr : Bool := false
  rd : Bool := false
  smod : BitVec 10 := 0
  stile : BitVec 5 := 0
  gid : Byte := 0
  size : BitVec 16 := 0
  mbase : BitVec 27 := 0
  deriving DecidableEq, Repr, Inhabited

/-- A slot of the shape table: the record as stored and the generation (R112, R115). -/
structure Shape where
  recd : BitVec 512 := 0
  gen : BitVec 20 := 0
  deriving DecidableEq, Repr, Inhabited

/-- The states of a handle (R148). -/
inductive HState where
  | idle | rigging | settling | live | derigging | faulted | rerouting
  deriving DecidableEq, Repr, Inhabited

/-- Types of message (R153). -/
inductive MsgType where
  | row | short | reply | chunk
  deriving DecidableEq, Repr, Inhabited

/-- A message of a source, from its admission until it is acknowledged: what the ORB and the retained queue keep
(R155, R158, R183, R445, R446). The lanes are those the message writes; `win` is the window whose OUT counts it;
`job` the queue and id of the job it belongs to; `ack`, `allow` and `mask` the leaves that have performed,
returned and refused it (R161); `bad` that a flit of it was found uncorrectable while it may be sent again (R444); `why` what its home on this module found beside the NEGCODE (R456, R470; log 45), and `badAt` the granule that failed there (R437); `sentAt` the rc in which it was sent, and `notBefore` one before which a reply does not leave (R95, R105). -/
structure Sent where
  msg : Msg
  ty : MsgType
  core : CoreId
  clus : BitVec 2
  pc : Pc := 0
  va : Va := 0
  lanes : BitVec 64 := 0
  win : Option Nat := none
  posted : Bool := false
  handlerWork : Bool := false
  job : Option (QueueId × Nat) := none
  entry : Option Nat := none
  group : Option Nat := none
  ack : BitVec 16 := 0
  allow : BitVec 16 := 0
  mask : BitVec 16 := 0
  negcode : BitVec 16 := 0
  sampled : Bool := false
  why : Option (BitVec 3) := none
  badAt : Option Nat := none
  resent : Nat := 0
  replied : Bool := false
  ord : Nat := 0
  committed : Bool := false
  sentAt : Nat := 0
  bad : Bool := false
  notBefore : Nat := 0
  deriving DecidableEq, Repr, Inhabited

/-- What the source has last been told by one leaf: ACKSEQ, ALLOWC and RCVSEQ (R157, R445), and the rc of the
last control flit. -/
structure LeafCnt where
  ack : Word := 0
  allow : Word := 0
  rcv : Word := 0
  deriving DecidableEq, Repr, Inhabited

/-- An end of a circuit: module, tile (physical), port (R247, R380). -/
structure End where
  md : BitVec 10
  tile : BitVec 5
  port : BitVec 4
  deriving DecidableEq, Repr, Inhabited

/-- A handle and its circuit (R148 to R162, R445 to R447, R457 to R465). `port` and the ports of `ends` are those in
use, substitutes included (R460); `pathed` says that the circuit holds a path; `failed` that a failure waits for its
step, `rerr` that the circuit reroutes (R462); `rigAt` is the rc from which its 1,000 steps count and `tryAt` the place
of its first try among those that wait (R147); `via` the one fibre port that a stream's circuit takes (R57); `resync` the leaves whose keepalive it waits for (R463). `flight` names the
times of flight of the path that is set (R504), `lineTo` is the time in 1/4200 rc up to which its data lines are taken,
`far` the lines L0 to L8 in service at its ends on other modules (R145), and `pausedAt` the rc from which a lamp failure pauses it
(R457). -/
structure Circ where
  state : HState := .idle
  mcast : Bool := false
  ext : Bool := false
  inb : Bool := false
  slot : Option SlotId := none
  port : BitVec 4 := 0
  ends : List End := []
  fibs : List FibreId := []
  via : Option FibreId := none
  pathed : Bool := false
  path : List (Nat × Bool) := []
  pref : Nat := 0
  rigAt : Nat := 0
  tryAt : Nat := 0
  settleAt : Nat := 0
  failed : Bool := false
  rerr : Bool := false
  resync : BitVec 16 := 0
  seq : Word := 0
  waiting : List Sent := []
  lastAgent : Nat := 56
  sent : List Sent := []
  leaf : Tbl LeafCnt := {}
  timer : Nat := 0
  ackLost : Bool := false
  lastCtl : Nat := 0
  lines : Nat := 8
  flight : Nat := 0
  lineTo : Nat := 0
  far : List Nat := [0, 1, 2, 3, 4, 5, 6, 7, 8]
  pausedAt : Option Nat := none
  deriving DecidableEq, Repr, Inhabited

/-- What a home keeps of one inbound circuit: RCVSEQ r of R445, the messages that it holds received and not yet returned (R450), the refusals not yet reported (R157), the G = 1
multicast messages held for their commit and the commits that have come (R186), whether a control flit is owed, whether its next one is a keepalive
(R463), the rc from which its control slots count (R157, R160) and that of its last flit. The counts of messages performed and freed follow from r and what is staged or held. -/
structure Home where
  src : Source
  rcv : Word := 0
  kept : Nat := 0
  refusals : List (Word × BitVec 16) := []
  held : List Msg := []
  commits : List Word := []
  dirty : Bool := false
  keep : Bool := false
  liveAt : Nat := 0
  lastFlit : Option Nat := none
  deriving DecidableEq, Repr, Inhabited

/-- A reduction-job entry (R194). -/
structure RJob where
  v : Bool := false
  rop : BitVec 4 := 0
  rfmt : BitVec 4 := 0
  sem : Byte := 0
  se : Bool := false
  round : Word := 0
  base : BitVec 40 := 0
  scoff : BitVec 24 := 0
  deriving DecidableEq, Repr, Inhabited

/-- A time-slot entry with its counters (R195). -/
structure TSlot where
  v : Bool := false
  job : BitVec 4 := 0
  smod : BitVec 10 := 0
  stile : BitVec 5 := 0
  nextc : Nat := 0
  nchunk : Nat := 0
  deriving DecidableEq, Repr, Inhabited

/-- A contribution chunk in staging: accepted and waiting for its turn, or held for the next round (R198, R199). `src` is the
circuit that it is reported to, none for a local chunk and once that circuit is gone, `origin` where it came from. -/
structure Staged where
  src : Option Source
  origin : Option Source := none
  seq : Word
  slot : Nat
  cseq : Nat
  round : Word
  nchunk : Nat
  rop : BitVec 4
  rfmt : BitVec 4
  job : BitVec 4
  mpa : Mpa
  rows : List Row
  scales : List Word
  accepted : Bool
  core : CoreId := 0
  jobRef : Option (QueueId × Nat) := none
  entry : Option Nat := none
  deriving DecidableEq, Repr, Inhabited

/-- A collective entry (R202), with the chunks of its firing not yet applied, and the job that set RDY (R203, R474). -/
structure CEntry where
  v : Bool := false
  rdy : Bool := false
  npeer : Nat := 0
  rop : BitVec 4 := 0
  rfmt : BitVec 4 := 0
  job : BitVec 4 := 0
  slot : BitVec 6 := 0
  sem : Byte := 0
  se : Bool := false
  round : Word := 0
  raddr : BitVec 40 := 0
  h : List (BitVec 6) := []
  laddr : BitVec 52 := 0
  nrows : Nat := 0
  left : Nat := 0
  owner : Option Nat := none
  deriving DecidableEq, Repr, Inhabited

/-- A group entry (R365). -/
structure Group where
  v : Bool := false
  gen : Byte := 0
  handle : BitVec 6 := 0
  drop : Byte := 0
  out : Nat := 0
  deriving DecidableEq, Repr, Inhabited

/-- A BTE channel: the core whose job runs, the core served last, the watermark with the rows written above
it (R117, R353), and the bank cycles that it has stalled and its job has yet to take longer for (R105). -/
structure Chan where
  run : Option CoreId := none
  last : CoreId := 15
  wm : Option (Nat × Nat × Nat) := none
  wrote : List Nat := []
  debt : Nat := 0
  deriving DecidableEq, Repr, Inhabited

/-- A request at the tile's memory port: an atomic of a core of the tile (R325). -/
structure PortReq where
  core : CoreId
  mpa : Nat
  amo : Amo
  deriving DecidableEq, Repr, Inhabited

/-- A matrix job that the limiter charges (R221): its core and id, its cost, the macros it drives, whether it is a batt, and the rc at which
it began to drive and at which its driving ended. -/
structure Charge where
  core : CoreId
  job : Nat
  cost : Nat
  macs : List Nat
  batt : Bool
  began : Option Nat := none
  ended : Option Nat := none
  deriving DecidableEq, Repr, Inhabited

/-- The limiter of a tile (R221 to R226): ramp index, the values of A in the last 16 steps, newest first, A of the last
step and SHORT, whether the tile is quiet, BATTCNT, RAMPDN; the governor batts that run, those that end for a real
request or ended for one in the step before, and those asked for (R218, R224); the jobs charged; the step under way,
whether it has stopped granting (R223), and RAMPSTAT as of the last complete step. -/
structure Limiter where
  idx : Nat := 0
  hist : List Nat := []
  active : Nat := 0
  short : Nat := 0
  quiet : Bool := true
  battcnt : Word := 0
  rampdn : Nat := 4
  gbatt : List (CoreId × Nat) := []
  gend : List (CoreId × Nat) := []
  gwant : Nat := 0
  gtaken : List (CoreId × Nat) := []
  charges : List Charge := []
  step : Nat := 0
  blocked : Bool := false
  report : Word := 0x80000200
  deriving DecidableEq, Repr, Inhabited

/-- A port of a tile (R144, R459, R460): the lines L0 to L8 that its transmit and its receive side have lost, whether the port is
out of service, the lines that have lost lock and whose striping has not changed yet, by side, and the side, line, time and handle
of a record that waits for its substitute. -/
structure Port where
  txBad : List Nat := []
  rxBad : List Nat := []
  out : Bool := false
  failing : List (Bool × Nat) := []
  lost : Option (Bool × Nat × Nat × BitVec 6) := none
  deriving DecidableEq, Repr, Inhabited

/-- An iteration request at the walker: the walker cycle it arrived in, its core and its nest (R68, R69). -/
structure WalkReq where
  cyc : Nat
  core : CoreId
  nest : Nat
  deriving DecidableEq, Repr, Inhabited

/-- One physical tile. `asks` lists the requests that wait for a REPLY: core, module and tile of the home, and the TAG
of the answer (R107, R154); `evtLater` events of a matrix step by the rc in which they occur (R54); `routesWas` the rc of the
last write of the route table, with the table before that rc (R411); `badSems` and `badWords` the semaphores and the words of
the instruction store found uncorrectable (R444); `unitDone` the latest unit cycle in which the reduction unit has applied chunks
(R199). -/
structure Tile where
  cores : Tbl Core := {}
  store : Tbl DWord := {}
  sems : Tbl Sem := {}
  landing : List Landing := []
  wins : Tbl Win := {}
  inbs : Tbl Inb := {}
  shapes : Tbl Shape := {}
  circs : Tbl Circ := {}
  homes : List Home := []
  asks : List (CoreId × BitVec 10 × BitVec 5 × Byte) := []
  rjobs : Tbl RJob := {}
  slots : Tbl TSlot := {}
  staged : List Staged := []
  cents : Tbl CEntry := {}
  groups : Tbl Group := {}
  chans : Tbl Chan := {}
  portq : List PortReq := []
  nests : Tbl (List DWord) := {}
  cursors : Tbl Nat := {}
  walkq : List WalkReq := []
  sevt : Tbl Word := {}
  sevtPend : List (Nat × Nat) := []
  evtsel : Tbl Word := {}
  evtcnt : Tbl (BitVec 48) := {}
  evtLater : List (Nat × Nat × CoreId) := []
  routes : Word := 0x0003E400
  routesWas : Option (Nat × Word) := none
  lim : Limiter := {}
  strimb : Word := 0
  imbs : List Int := []
  ports : Tbl Port := {}
  subst : List (Nat × Nat × SlotId) := []
  soft : Nat := 0
  softAt : Option Nat := none
  badSems : List (BitVec 8) := []
  badWords : List Pc := []
  unitDone : Option Nat := none
  slot : Option SlotId := none
  ltile : BitVec 5 := 0
  cls : Nat := 0
  taskid : BitVec 16 := 0
  partDone : Bool := false
  present : BitVec 16 := 0xFFFF
  inService : Bool := true
  jobCtr : Nat := 0
  lastGrant : Option Nat := none
  /-- The core woken last, from which the arbiter's round robin goes on (R231); at reset 15, so that it starts at core 0: no rule
  gives a start (DESIGN CHOICE, log 30). -/
  lastWoken : CoreId := 15
  deriving DecidableEq, Repr, Inhabited

/-! ## Strings, tasks and the hub -/

/-- A series string: throttle level, samples since its last change, quiet samples, whether STRING_IMBALANCE was
raised for this rise and the samples since (R219, R432), its lamp, light, and supply in millivolts (R14, R24). -/
structure Str where
  level : Nat := 0
  held : Nat := 0
  calm : Nat := 0
  raised : Bool := false
  since : Nat := 0
  lamp : Nat := 0
  light : Bool := true
  inService : Bool := true
  bypassed : Bool := false
  millivolts : Nat := 1800
  pausedAt : Option Nat := none
  deriving DecidableEq, Repr, Inhabited

/-- A section of a task image (R257). -/
structure Sect where
  ty : Nat
  cls : Nat
  size : Nat
  mpa : Nat
  deriving DecidableEq, Repr, Inhabited

/-- A lease range of a task, with its placement once granted (R61, R502): task tile index, virtual base, size,
permissions, whether it is the heap, and the MPA. -/
structure Lease where
  tix : Nat
  va : Nat
  size : Nat
  rd : Bool
  wr : Bool
  heap : Bool
  mpa : Option Nat := none
  deriving DecidableEq, Repr, Inhabited

/-- The header and the section table of an image (R256, R257), its load classes (R215) and lease ranges (R258). -/
structure Img where
  nstr : Nat := 1
  acc3 : Byte := 0
  interval : Nat := 1
  classes : List Nat := []
  sects : List Sect := []
  loads : List Nat := []
  ranges : List Lease := []
  deriving DecidableEq, Repr, Inhabited

/-- A running rig program (R377): its words, program counter, loop counters, taken counts by tile x 64 + event,
the step until which HOLD holds it, the words executed in this step, and how it stands;
`waitXport` is 0 while its XPORT runs, then one more than the rc at which that completed (R385). -/
structure Rig where
  words : List DWord := []
  pc : Int := 0
  lc : Tbl Nat := {}
  taken : Tbl Word := {}
  holdTo : Nat := 0
  holdLeft : Nat := 0
  count : Nat := 0
  ended : Bool := false
  stopReq : Bool := false
  stopped : Bool := false
  waitXport : Option Nat := none
  deriving DecidableEq, Repr, Inhabited

/-- What a tile spills at pre-emption (R64, R81, R85): its task tile index, its own state and its cores' with what is not
live cleared, and the live scratchpad rows of each logical core. -/
structure SaveArea where
  tix : Nat
  tile : Tile
  rows : List (CoreId × Nat × Row) := []
  deriving DecidableEq, Repr, Inhabited

/-- How a task stands in the dispatcher. -/
inductive TaskStat where
  | queued | launching | running | stopping | preempted | takeover
  deriving DecidableEq, Repr, Inhabited

/-- A task (R208, R213): its descriptor, image, queue, strings by position, slot, context and lease. `places` are the
blocks of memory that its lease holds (R502), `leases` its ranges cut by them; `saves` and `live` what a pre-emption keeps, the
circuits by task tile index, `saveAt` the save areas' places in HBM and `modid` the module id of that time (R85, R87); `order`
its place in its queue. -/
structure Task where
  id : BitVec 16
  prio : PrioId
  pred : BitVec 16 := 0
  hold : Option (BitVec 16 × Nat × Nat × Word) := none
  cpl : Nat := 0
  img : Img := {}
  stat : TaskStat := .queued
  strings : List StringId := []
  slot : Option SlotId := none
  launchedAt : Nat := 0
  ctx : Option Nat := none
  places : List Placement := []
  leases : List Lease := []
  granted : Bool := false
  firstExit : Option (BitVec 16) := none
  exits : List (Nat × TileId × CoreId × BitVec 16 × Pc) := []
  supFault : Bool := false
  supCores : List (TileId × CoreId × List Nat) := []
  rig : Rig := { ended := true }
  saves : List SaveArea := []
  live : List (Nat × HandleId × Circ) := []
  saveAt : List Placement := []
  modid : BitVec 10 := 0
  derigging : Bool := false
  preemptAt : Option Nat := none
  order : Nat := 0
  deriving DecidableEq, Repr, Inhabited

/-- An XPORT command of a fibre port, with its source (R49, R164): a rig program's task and
word, or the management queue. -/
structure XCmd where
  cmd : BitVec 2
  tbl : Bool
  entry : Word
  task : Option (BitVec 16) := none
  pc : Nat := 0
  deriving DecidableEq, Repr, Inhabited

/-- The state of a fibre port (R164). -/
inductive FState where
  | dark | probing | aligned | fopen
  deriving DecidableEq, Repr, Inhabited

/-- A fibre port (R163 to R165, R464). -/
structure Fib where
  state : FState := .dark
  draining : Bool := false
  thenDark : Bool := false
  cmds : List XCmd := []
  busy : Bool := false
  probeAt : Nat := 0
  deriving DecidableEq, Repr, Inhabited

/-- A BAR2 slot (R31): base MPA and permissions. -/
structure Slot2 where
  mapped : Bool := false
  base : Nat := 0
  rd : Bool := false
  wr : Bool := false
  deriving DecidableEq, Repr, Inhabited

/-- A stream of CHECKPOINT or RESTORE (R55, R57, R58): its ports and id; the tasks that its first step pre-empts; its phase, 0 while tasks stop, 1 while its circuits
settle from rc `startAt` on, 2 while chunks go; its circuits by port; the chunks sent, and the digest of their payloads; the
first free value of its state chunks; the chunks received, with their SEQ and MPA, and the closing chunk's digest and
count. -/
structure Stream where
  restore : Bool := false
  pmask : BitVec 64 := 0
  sid : BitVec 64 := 0
  tasks : List (BitVec 16) := []
  phase : Nat := 0
  startAt : Nat := 0
  rigged : List (TileId × HandleId) := []
  sent : Nat := 0
  sponge : Sponge := {}
  base : Nat := 0
  chunks : List (Nat × Nat × List Row) := []
  closing : Option (BitVec 256 × Nat) := none
  deriving DecidableEq, Repr, Inhabited

/-- An image of firmware as it lies in the module: its bytes, its signature and its security version (R44). Until another stands
there the signature is 2,820 bytes of zero, the size of RFC 8391 (log 5). -/
structure FwImage where
  bytes : List Byte := []
  sig : List Byte := List.replicate 2820 0
  version : BitVec 16 := 0
  deriving DecidableEq, Repr, Inhabited

/-- What start-up finds, and what has failed since (R39, R44, R457 to R461): the firmware images, 0 hub, 1 fabric sequencer,
2 management processor and 3 lamp controller, the fuse counter of the security version, failed lamps, mesh stages, cores by
physical tile, tiles, HBM stacks, and rings as tile x 512 + port x 32 + direction x 16 + line. -/
structure Phys where
  images : Tbl FwImage := {}
  fuse : BitVec 16 := 0
  lamps : List Nat := []
  stages : List Nat := []
  cores : Tbl (BitVec 16) := {}
  tiles : List Nat := []
  hbm : List Nat := []
  rings : List Nat := []
  deriving DecidableEq, Repr, Inhabited

/-- The hub and the module-wide state. `kept` is what the state chunks of the streams of the safe tier stand for: stream id,
security version, first free value of their payload, and tasks (R57, R58). -/
structure Hub where
  stage : Nat := 0
  early : Bool := false
  failt : Nat := 0
  cause : Nat := 0
  modid : BitVec 10 := 0
  stored : BitVec 10 := 0
  secver : BitVec 16 := 0
  invseq : Word := 0
  lampOk : BitVec 10 := 0
  stageOk : BitVec 21 := 0
  phys : Phys := {}
  leafIx : Nat := 0
  capNonce : List Byte := []
  astat : Nat := 0
  report : List Byte := []
  signature : List Byte := []
  bar0 : Tbl Word := {}
  mailBusy : Bool := false
  missing : List (BitVec 16 × Nat × Lease) := []
  hostmap : List (Nat × Nat × Nat) := []
  slots2 : Tbl Slot2 := {}
  held2 : List (BitVec 36 × Option Word) := []
  read2 : Option Word := none
  msixMask : Tbl Bool := {}
  msixPend : List Nat := []
  msixOut : List Nat := []
  linkUp : Bool := true
  linkRecs : Bool := false
  cmdprod : Word := 0
  cmdcons : Word := 0
  cplprod : Word := 0
  cplcons : Word := 0
  own : List (List Byte) := []
  cmd : Option (List Byte × Bool) := none
  stream : Option Stream := none
  kept : List (BitVec 64 × BitVec 16 × Nat × List Task) := []
  faultProd : Word := 0
  faultCons : Word := 0
  faultLost : Word := 0
  rseq : Word := 0
  mlog : List (BitVec 512) := []
  startRecs : List FaultRec := []
  tasks : List Task := []
  order : Nat := 0
  reserved : List (BitVec 16 × List StringId) := []
  bells : List (PrioId × DWord) := []
  scanned : Option Nat := none
  dead : Bool := false
  tblA : Tbl Word := {}
  tblB : Tbl Word := {}
  activeB : Bool := false
  fibs : Tbl Fib := {}
  badEl : List Nat := []
  releasing : List (TileId × HandleId × Circ) := []
  cfg : Option Bool := none
  deriving DecidableEq, Repr, Inhabited

/-- A step that is due (the model's own; log 3): a row of the opcode table, the issue of a cluster's next word,
a core's bundle, or a fabric step of a slot's rig program. -/
inductive Act where
  | instr (tile : TileId) (core : CoreId) (ix : Nat) (i : Instr)
  | issue (tile : TileId) (core : CoreId) (cl : Cluster)
  | bundle (tile : TileId) (core : CoreId)
  | rig (slot : SlotId)
  deriving DecidableEq, Repr, Inhabited

/-- How the word that issues came out (the model's own): completed, stalled before its issue, issued and waiting,
or at fault. A bundle reads it from each of its words (R73, R415). -/
inductive Res where
  | done | stall | wait | fault (r : FaultRec)
  deriving DecidableEq, Repr, Inhabited

/-- What acts now (the model's own; log 3): the tile, core and cluster of the word that issues, or the unit of an
event, with the index of its handle, port, channel, queue, job, fibre port, string or slot. -/
structure Cur where
  tile : TileId := 0
  core : CoreId := 0
  ix : Nat := 0
  cl : Cluster := .c
  bundle : Bool := false
  slot : SlotId := 0
  res : Res := .done
  deriving DecidableEq, Repr, Inhabited

/-- The module. `now` is the count of rc since module reset (R282); `mem` the bytes of HBM, scratchpads and host
space by MPA in canonical form, and `bad` the granules of memory and of the shape tables found uncorrectable, by their first byte
(R441, R443). -/
structure State where
  now : Nat := 0
  cur : Cur := {}
  agenda : List (Nat × Act) := []
  pool : List (TileId × CoreId × Nat × Instr) := []
  freeCtr : Nat := 0
  mem : List Host.Cell := []
  bad : List Nat := []
  tiles : Tbl Tile := {}
  strs : Tbl Str := {}
  hub : Hub := {}
  deriving DecidableEq, Repr, Inhabited

/-- The module right after reset: every field at the value of R7, R41, R43 and the tables of R36 to R51, R103,
R163, R282 and R411; the values the spec does not give are those of log 1 and log 2. The agenda holds the
start-up that follows every reset (R39, R43; log 3). -/
def State.reset : State := { agenda := [(0, .instr 0 0 0 .powerUp)] }

end Sys2Proof.Machine
end

