-- ==== Sys2Proof/Machine/Access.lean ====
section
/-!
DEFINITION. Reading and replacing the parts of the state: tiles, cores, clusters, registers, guards and masks,
the agenda of due steps, and the binding of logical to physical numbers (spec/04 R90, R98, spec/09 R213).
-/
namespace Sys2Proof.Machine

/-! ## Tiles, cores, clusters -/

/-- Physical tile t. -/
def State.tile (s : State) (t : TileId) : Tile := s.tiles.get t.val {}

/-- The state with physical tile t replaced. -/
def State.setTile (s : State) (t : TileId) (x : Tile) : State := { s with tiles := s.tiles.set t.val x }

/-- The state with f applied to physical tile t. -/
def State.modTile (s : State) (t : TileId) (f : Tile → Tile) : State := s.setTile t (f (s.tile t))

/-- Logical core k of a tile. -/
def Tile.core (x : Tile) (k : CoreId) : Core := x.cores.get k.val {}

/-- The tile with logical core k replaced. -/
def Tile.setCore (x : Tile) (k : CoreId) (c : Core) : Tile := { x with cores := x.cores.set k.val c }

/-- Logical core k of physical tile t. -/
def State.core (s : State) (t : TileId) (k : CoreId) : Core := (s.tile t).core k

/-- The state with a core replaced. -/
def State.setCore (s : State) (t : TileId) (k : CoreId) (c : Core) : State :=
  s.setTile t ((s.tile t).setCore k c)

/-- The state with f applied to a core. -/
def State.modCore (s : State) (t : TileId) (k : CoreId) (f : Core → Core) : State :=
  s.setCore t k (f (s.core t k))

/-- One cluster of a core. -/
def Core.clu (x : Core) : Cluster → Clu
  | .c => x.c
  | .v => x.vc
  | .m => x.m
  | .e => x.ec

/-- The core with one cluster replaced. -/
def Core.setClu (x : Core) (cl : Cluster) (y : Clu) : Core :=
  match cl with
  | .c => { x with c := y }
  | .v => { x with vc := y }
  | .m => { x with m := y }
  | .e => { x with ec := y }

/-- The core with f applied to one cluster. -/
def Core.modClu (x : Core) (cl : Cluster) (f : Clu → Clu) : Core := x.setClu cl (f (x.clu cl))

/-- The core with f applied to each cluster. -/
def Core.mapClu (x : Core) (f : Cluster → Clu → Clu) : Core :=
  { x with c := f .c x.c, vc := f .v x.vc, m := f .m x.m, ec := f .e x.ec }

/-- The core whose word issues now. -/
def State.cc (s : State) : Core := s.core s.cur.tile s.cur.core

/-- The cluster whose word issues now. -/
def State.ccl (s : State) : Clu := s.cc.clu s.cur.cl

/-- The state with f applied to the core whose word issues now. -/
def State.modCc (s : State) (f : Core → Core) : State := s.modCore s.cur.tile s.cur.core f

/-- The state with f applied to the cluster whose word issues now. -/
def State.modCcl (s : State) (f : Clu → Clu) : State := s.modCc fun x => x.modClu s.cur.cl f

/-- The tile whose core's word issues now. -/
def State.ct (s : State) : Tile := s.tile s.cur.tile

/-- The state with f applied to the tile whose word issues now. -/
def State.modCt (s : State) (f : Tile → Tile) : State := s.modTile s.cur.tile f

/-- The state with f applied to the hub. -/
def State.modHub (s : State) (f : Hub → Hub) : State := { s with hub := f s.hub }

/-! ## Guards, masks, registers -/

/-- Guard n of a cluster; g0 reads 1 (R235). -/
def Clu.guard (x : Clu) (n : Nat) : Bool := n == 0 || x.guards.getLsbD n

/-- The cluster with guard n written; a write to g0 is ignored (R235). -/
def Clu.setGuard (x : Clu) (n : Nat) (b : Bool) : Clu :=
  if n = 0 then x
  else
    let bit : BitVec 8 := 1#8 <<< n
    { x with guards := if b then x.guards ||| bit else x.guards &&& ~~~bit }

/-- Mask register n; k0 reads all ones (R239, R287). -/
def Core.mask (x : Core) (n : Nat) : BitVec 64 := if n = 0 then BitVec.allOnes 64 else x.k.get n 0

/-- The cluster with a register rewritten whole, so that its error is gone (R443). -/
def Clu.clean (y : Clu) (n : Nat) : Clu := { y with badRegs := y.badRegs.filter fun m => m != n }

/-- The core with mask n written; a write to k0 is ignored. -/
def Core.setMask (x : Core) (n : Nat) (m : BitVec 64) : Core :=
  if n = 0 then x else { x with k := x.k.set n m, vc := x.vc.clean (128 + n) }

/-- A 32-bit register of a cluster's file; in V, lane 0 (R236). -/
def Core.reg (x : Core) (cl : Cluster) (n : Nat) : Word :=
  match cl with
  | .c => x.s.get n 0
  | .v => (x.v.get n 0).truncate 32
  | .m => x.a.get n 0
  | .e => x.e.get n 0

/-- The core with a 32-bit register of the C, M or E file written. -/
def Core.setReg (x : Core) (cl : Cluster) (n : Nat) (w : Word) : Core :=
  match cl with
  | .c => { x with s := x.s.set n w, c := x.c.clean n }
  | .v => x
  | .m => { x with a := x.a.set n w, m := x.m.clean n }
  | .e => { x with e := x.e.set n w, ec := x.ec.clean n }

/-- A vector register. -/
def Core.vreg (x : Core) (n : Nat) : Row := x.v.get n 0

/-- The core with a vector register written. -/
def Core.setV (x : Core) (n : Nat) (r : Row) : Core := { x with v := x.v.set n r }

/-- The latches shifted by a push: an error goes with its value (R74, R441). -/
def Clu.shiftBad (x : Clu) : Clu := { x with badLat := (x.badLat.map (· + 1)).filter (· < 4) }

/-- A 32-bit push into the latches of a cluster: q0 takes it, the others shift (R74). -/
def Clu.push (x : Clu) (w : Word) : Clu := { x.shiftBad with lat := (w :: x.lat).take 4, pushes := x.pushes + 1 }

/-- The value of the push that was the n-th of its cluster, come late: it takes its place among the latches, unless these
have been invalidated since (R74, R318). -/
def Clu.fillPush (x : Clu) (n : Nat) (w : Word) : Clu :=
  if x.pushes - n < x.lat.length then
    { x with lat := x.lat.set (x.pushes - n) w, badLat := x.badLat.filter fun m => m != x.pushes - n }
  else x

/-- A row push into the V latches (R74, R238). -/
def Core.pushV (x : Core) (r : Row) : Core := { x with vlat := (r :: x.vlat).take 4, vc := x.vc.shiftBad }

/-- The four latches of one cluster invalidated (R74). -/
def Core.dropLatches (x : Core) (cl : Cluster) : Core :=
  match cl with
  | .v => { x with vlat := [], vc := { x.vc with badLat := [] } }
  | _ => x.modClu cl fun y => { y with lat := [], badLat := [] }

/-- Every latch of the core invalidated (R74). -/
def Core.dropAllLatches (x : Core) : Core :=
  { (x.mapClu fun _ y => { y with lat := [], badLat := [] }) with vlat := [] }

/-! ## Time and due steps -/

/-- The first multiple of d at or after n. -/
def alignUp (n d : Nat) : Nat := (n + d - 1) / d * d

/-- The next step boundary of a core's matrix engine at or after rc n (R220). -/
def Core.stepBoundary (x : Core) (n : Nat) : Nat := alignUp (Nat.max n x.engFrom) (4 * x.meff)

/-- The first engine cycle of divisor d after rc n (R6, R228). -/
def nextEc (n d : Nat) : Nat := (n / d + 1) * d

/-- The rc n engine cycles of divisor d after rc now; the present one for n = 0 (R6, R228). -/
def ecAfter (now d n : Nat) : Nat := if n = 0 then now else nextEc now d + (n - 1) * d

/-- A time still to come under a change of divisor: the engine cycles left take the new length (R228). -/
def rescale (now old new t : Nat) : Nat :=
  if t ≤ now then t else ecAfter now new ((t - nextEc now old + old - 1) / old + 1)

/-- A time that is not known yet (the model's own): that of a delivery which n pushes into a full sq hold back, and which
comes no earlier than t, is n times this number, plus t (R288); a local atomic's result is awaited from this number on. -/
def unknown : Nat := 2 ^ 64

/-- A time of which only the known part changes. -/
def known (f : Nat → Nat) (t : Nat) : Nat := t / unknown * unknown + f (t % unknown)

/-- A result on its way (R238, R260, R289, R318): it is delivered to the registers or masks ks, and pushed, in rc t. -/
def Core.owe (x : Core) (cl : Cluster) (ks : List Nat) (push : Bool) (t : Nat) : Core :=
  let x := x.modClu cl fun y =>
    { y with
      busy := ks.foldl (fun b k => b.set k t) y.busy, last := Nat.max y.last t,
      pushed := if push then Nat.max y.pushed t else y.pushed }
  if t < unknown then { x with quietAt := Nat.max x.quietAt (nextEc t x.cdiv) } else x

/-- The contents of a register or mask of a cluster, by its key, in the low bits of a row. -/
def Core.cell (x : Core) (cl : Cluster) (key : Nat) : Row :=
  match cl with
  | .v => if key < 128 then x.vreg key else (x.mask (key - 128)).setWidth 2048
  | _ => (x.reg cl key).setWidth 2048

/-- The core with a register or mask of a cluster written. -/
def Core.setCell (x : Core) (cl : Cluster) (key : Nat) (r : Row) : Core :=
  match cl with
  | .v => if key < 128 then { x.setV key r with vc := x.vc.clean key } else x.setMask (key - 128) (r.truncate 64)
  | _ => x.setReg cl key (r.truncate 32)

/-- The write of some bits of a register or mask that will be delivered in rc t: until then a window access still meets
what stands there (R94, R260, R289, R318). -/
def Core.keep (x : Core) (cl : Cluster) (key : Nat) (bits : Row) (now t : Nat) : Core :=
  let old := x.cell cl key
  x.modClu cl fun y =>
    { y with late := (y.late.filter fun e => decide (now < e.t)) ++ [{ key := key, t := t, old := old, bits := bits }] }

/-- What a window access reads of a register or mask in rc now: a write not yet delivered is not seen (R94). -/
def Core.seen (x : Core) (cl : Cluster) (key now : Nat) : Row :=
  match (x.clu cl).late.find? fun e => decide (e.key = key) && decide (now < e.t) with
  | some e => e.old
  | none => x.cell cl key

/-- Bits m of a register or mask written in rc now, at the boundary b, under the deliveries of it that come after b, which keep
theirs: the deliveries, and the bits that none of those writes. -/
def under (key now b : Nat) (r : Row) : Row → List Late → List Late × Row
  | m, [] => ([], m)
  | m, e :: l =>
    if e.key = key ∧ now < e.t then
      let (l, n) := under key now b r (if b < e.t then m &&& ~~~e.bits else m) l
      ({ e with old := (e.old &&& ~~~m) ||| (r &&& m) } :: l, n)
    else
      let (l, n) := under key now b r m l
      (e :: l, n)

/-- A window write of the bits m of a register or mask in rc now, performed at the boundary of the engine cycle under way: what the
cluster delivers up to that boundary it overwrites, and what it delivers later remains (R94). -/
def Core.windowWrite (x : Core) (cl : Cluster) (key now : Nat) (m r : Row) : Core :=
  let (l, n) := under key now (nextEc now x.cdiv) r m (x.clu cl).late
  let x := x.modClu cl fun y => { y with late := l }
  x.setCell cl key ((x.cell cl key &&& ~~~n) ||| (r &&& n))

/-- FPFLAGS with the flags that V words delivered before rc n (R136). -/
def Core.flagsAt (x : Core) (n : Nat) : BitVec 5 :=
  x.fpend.foldl (fun a p => if p.1 < n then a ||| p.2 else a) x.fpflags

/-- FPFLAGS with the flags of every V word that has issued (R136, R289). -/
def Core.flagsAll (x : Core) : BitVec 5 := x.fpend.foldl (fun a p => a ||| p.2) x.fpflags

/-- The flags of a V word that delivers in rc t (R136). -/
def Core.raise (x : Core) (now t : Nat) (b : BitVec 5) : Core :=
  if b = 0 then x
  else { x with fpflags := x.flagsAt now, fpend := (x.fpend.filter fun p => decide (now ≤ p.1)) ++ [(t, b)] }

/-- An entry into a queue that is kept by key, behind those of its key. -/
def keyPut {α : Type} (l : List (Nat × α)) (key : Nat) (w : α) : List (Nat × α) :=
  (l.filter fun p => decide (p.1 ≤ key)) ++ (key, w) :: l.filter fun p => decide (key < p.1)

/-- A word into xq, by arrival and, in one cycle, by the code of its source (R77), with what its push follows (R171). -/
def Clu.enq (y : Clu) (key : Nat) (w : Word) (k : Know) : Clu :=
  { y with xq := keyPut y.xq key w, xk := keyPut y.xk key k }

/-- Whether the n oldest entries of xq have arrived by rc now (R77). -/
def Clu.xqReady (y : Clu) (now n : Nat) : Bool :=
  decide (n ≤ y.xq.length) && (y.xq.take n).all fun p => decide (p.1 / 4 ≤ now)

/-! ## Core order -/

/-- What follows two points follows both. -/
def Know.join (a b : Know) : Know := { m := Nat.max a.m b.m, j := Nat.max a.j b.j }

/-- What precedes the next word of a cluster in core order (R171): what it has met at bundles and by its pops, and its
own accesses or jobs; ctr is the next job id of the tile. -/
def Core.knows (x : Core) (ctr : Nat) (cl : Cluster) : Know :=
  match cl with
  | .m => { x.m.know with m := x.mcount + (match x.m.req with
      | some (.atomic _ _ _ _ _) => 1
      | _ => 0) }
  | .e => { x.ec.know with j := ctr }
  | k => (x.clu k).know

/-- A cluster that pops an entry follows its push (R171). -/
def Clu.learn (y : Clu) (k : Know) : Clu := { y with know := y.know.join k }

/-- Every cluster follows what any of them follows: the words before a bundle precede its words, and these the words
after it (R171). -/
def Core.meet (x : Core) (ctr : Nat) : Core :=
  let k := (((x.knows ctr .c).join (x.knows ctr .v)).join (x.knows ctr .m)).join (x.knows ctr .e)
  x.mapClu fun _ y => { y with know := k }

/-- The unfilled entries of lq dropped (R318). -/
def Core.dropUnfilled (x : Core) : Core :=
  let l := (x.lq.zip (x.lk ++ List.replicate x.lq.length ⟨0, 0⟩)).filter fun p => p.1.isSome
  let at' (i : Nat) : Nat := ((x.lq.take i).filter Option.isSome).length
  { x with
    lq := x.lq.filter Option.isSome, lk := l.map Prod.snd
    badLq := (x.badLq.filter fun i => (x.lq.getD i none).isSome).map at' }

/-! ## Changes of divisor -/

/-- The rc that a delivery of a cluster due at rc t waits for whatever the divisor (R314): those of the same rc, and in the
clusters that deliver in order those of every earlier one. -/
def Clu.floor (y : Clu) (cl : Cluster) (t : Nat) : Nat :=
  y.floors.foldl (fun a p => if p.1 = t ∨ (p.1 < t ∧ cl ≠ .m) then Nat.max a p.2 else a) 0

/-- A delivery of a cluster at rc t waits for rc b, which no change of divisor moves (R314). -/
def Core.putFloor (x : Core) (cl : Cluster) (now t b : Nat) : Core :=
  x.modClu cl fun y => { y with floors := (y.floors.filter fun p => decide (now < p.1)) ++ [(t, b)] }

/-- The core under a new cluster divisor from the cycle after rc now on (R228). -/
def Core.setDiv (x : Core) (now d : Nat) : Core :=
  let r (cl : Cluster) : Nat → Nat :=
    known fun t => Nat.max (rescale now x.cdiv d t) (if t ≤ now then 0 else (x.clu cl).floor cl t)
  let from' (p : Nat) : Nat := 4 * r (Cluster.ofCode (p % 4)) (p / 4) + p % 4
  let x := x.mapClu fun cl y =>
    { y with
      busy := y.busy.mapVals fun _ t => r cl t, last := r cl y.last, pushed := r cl y.pushed,
      late := y.late.map fun e => { e with t := r cl e.t }, floors := y.floors.map fun p => (r cl p.1, p.2),
      xq := y.xq.map fun p => (from' p.1, p.2), xk := y.xk.map fun p => (from' p.1, p.2) }
  { x with
    cdiv := d
    quietAt := [Cluster.c, .v, .m, .e].foldl (fun n cl => Nat.max n (nextEc ((x.clu cl).last % unknown) d)) (nextEc now d)
    fpend := x.fpend.map fun p => (r .v p.1, p.2), sq := x.sq.map fun p => (r .v p.1, p.2),
    lq := x.lq.map fun o => o.map fun p => (r .m p.1, p.2), pend := x.pend.map fun p => { p with ready := r .v p.ready } }

/-- The fabric step that begins at or after rc n, in rc (R6). -/
def stepAt (n : Nat) : Nat := alignUp n 32

/-- The fabric step after rc n, in rc. -/
def stepAfter (n : Nat) : Nat := (n / 32 + 1) * 32

/-- The order of due steps of one rc: releases, rig programs by slot, retries, cycle units, cluster words by
tile, core and cluster, everything else, the chunks that have become applicable in it (R199), the E-issued sends after the
matrix engine's (R203), the changes of divisor (R432), and last the limiter's grants (R147, R223, R272,
R343; log 4). The limiter's roll into its next step, index 1, comes before the words (R226). -/
def Act.prio : Act → Nat
  | .instr _ _ ix i =>
    match i with
    | .pathRelease => 0
    | .derigComplete => 1
    | .drainComplete => 2
    | .settlingEnd => 3
    | .reroute => 4
    | .launch | .resume | .taskEnd => 9
    | .rigRetry => 30
    | .pathBlocked => 31
    | .governorSample _ => 40
    | .limiterStep => if ix = 1 then 41 else 6000
    | .matrixDivisorChange => 5500
    | .matrixJobStart => if ix = 1 then 7000 else 5000
    | .semaphoreFileCycle => 42
    | .walkerCycle => 43
    | .coreWake => 44
    | .coreGate => 45
    | .watchdog => 5100
    | .chunkApply => if ix = 1 then 46 else 5001
    | .sendJobStart => 5002
    | .dispatcherScan => 5300
    | _ => 5000
  | .rig slot => 10 + slot.val
  | .issue t k cl => 100 + t.val * 64 + k.val * 4 + cl.code
  | .bundle t k => 100 + t.val * 64 + k.val * 4 + 3

/-- The agenda with a due step in its place: by rc, then by the order of `Act.prio`, then in order of arrival; a
step that is already due in that rc is not listed twice. -/
def agendaPut : List (Nat × Act) → Nat → Act → List (Nat × Act)
  | [], t, a => [(t, a)]
  | (u, b) :: r, t, a =>
    if u = t ∧ b = a then (u, b) :: r
    else if u < t ∨ (u = t ∧ b.prio ≤ a.prio) then (u, b) :: agendaPut r t a
    else (t, a) :: (u, b) :: r

/-- A step made due at rc t. -/
def State.due (s : State) (t : Nat) (a : Act) : State := { s with agenda := agendaPut s.agenda t a }

/-- A row of the opcode table made due at rc t on a unit. -/
def State.dueU (s : State) (t : Nat) (tile : TileId) (core : CoreId) (ix : Nat) (i : Instr) : State :=
  s.due t (.instr tile core ix i)

/-- An event of a tile made due. -/
def State.dueT (s : State) (t : Nat) (tile : TileId) (i : Instr) : State := s.dueU t tile 0 0 i

/-- An event of a numbered unit of a tile made due: a handle, a channel, a port, a job id, an entry. -/
def State.dueH (s : State) (t : Nat) (tile : TileId) (ix : Nat) (i : Instr) : State := s.dueU t tile 0 ix i

/-- An event of a core made due. -/
def State.dueK (s : State) (t : Nat) (tile : TileId) (core : CoreId) (i : Instr) : State := s.dueU t tile core 0 i

/-- An event of the hub made due: a fibre port, a string, a slot, or no index. -/
def State.dueN (s : State) (t : Nat) (ix : Nat) (i : Instr) : State := s.dueU t 0 0 ix i

/-- Every due step that satisfies p withdrawn. -/
def State.undue (s : State) (p : Act → Bool) : State := { s with agenda := s.agenda.filter fun x => !p x.2 }

/-- A step of unarchitected time enabled on a unit (log 4). -/
def State.enable (s : State) (tile : TileId) (core : CoreId) (ix : Nat) (i : Instr) : State :=
  { s with pool := s.pool ++ [(tile, core, ix, i)] }

/-- A fresh free value of 64 bits, and the state that has used it (log 6). -/
def State.fresh (s : State) : BitVec 64 × State := (Config.freeValue s.freeCtr, { s with freeCtr := s.freeCtr + 1 })

/-- The circuit on whose data lines or forward control line the arrival that a step is has travelled. -/
def wireOf : Instr → Option Source
  | .row src _ => some src
  | .shortStore src _ => some src
  | .shortAtomic src _ => some src
  | .shortLoad src _ => some src
  | .reply src _ => some src
  | .chunk src _ => some src
  | .reductionContribution src _ => some src
  | .multicastArrival src _ => some src
  | .commit src _ => some src
  | _ => none

/-- The message that a step takes off the data lines, with its flits (R153). -/
def msgOf : Instr → Option (Msg × Nat)
  | .row _ m => some (m, 4)
  | .shortStore _ m => some (m, 1)
  | .shortAtomic _ m => some (m, 1)
  | .shortLoad _ m => some (m, 1)
  | .reply _ m => some (m, if m.side.getD 0 0 = 0 then 1 else 4)
  | .chunk _ m => some (m, 4 * m.pay.length)
  | .reductionContribution _ m => some (m, 4 * m.pay.length)
  | .multicastArrival _ m => some (m, 4 * m.pay.length)
  | _ => none

/-- An arrival whose last flit does not come (R463). -/
def cutShort (i : Instr) : Instr :=
  let cut (m : Msg) (n : Nat) : Msg := { m with errs := (n - 1, none) :: m.errs }
  match i with
  | .row r m => .row r (cut m 4)
  | .chunk r m => .chunk r (cut m (4 * m.pay.length))
  | .reductionContribution r m => .reductionContribution r (cut m (4 * m.pay.length))
  | .multicastArrival r m => .multicastArrival r (cut m (4 * m.pay.length))
  | .reply r m => .reply r (cut m 4)
  | i => i

/-- The leaf that a step reports on, on the reverse control line of its circuit. -/
def leafOf : Instr → Option CoreId
  | .statusFlit l _ _ => some l
  | .negativeResponse l _ _ _ _ => some l
  | .keepalive l _ _ _ => some l
  | _ => none

/-- The handles that hold or have held a circuit, by tile and handle. -/
def State.handles (s : State) : List (TileId × HandleId) :=
  s.tiles.rows.flatMap fun p => p.2.circs.rows.map fun q => ((⟨p.1 % 32, by omega⟩ : TileId), (⟨q.1 % 64, by omega⟩ : HandleId))

/-- The units of 1/4200 rc for which a message of n flits takes w data lines: 72 n bytes, at 0.2 rc a byte (R145). -/
def lineTime (n w : Nat) : Nat := 60480 * n / Nat.max 1 w

/-- An arrival of handle h of tile t of this module, due at rc `at'`, when its path fails at rc `now` (R463): a message that
has begun to arrive comes without its end, what has not is lost. Other steps stand. -/
def tornAct (md : BitVec 10) (t : TileId) (h : HandleId) (w now : Nat) (at' : Nat) (a : Act) : Option Act :=
  match a with
  | .instr u k ix i =>
    match wireOf i with
    | some r =>
      if !(r.md == md && r.tile == t && r.handle == h) then some a
      else
        match msgOf i with
        | some (_, n) =>
          if at' ≤ now then some a
          else if 4200 * at' < 4200 * now + lineTime n w ∧ 1 < n then some (.instr u k ix (cutShort i))
          else none
        | none => none
    | none => if (leafOf i).isSome && u == t && ix == h.val then none else some a
  | _ => some a

/-- Every message and control flit of handle h of tile t that is on its way lost (R457, R463). -/
def State.dropWire (s : State) (t : TileId) (h : HandleId) : State :=
  let w := ((s.tile t).circs.get h.val {}).lines
  { s with agenda := s.agenda.filterMap fun e => (tornAct s.hub.modid t h w s.now e.1 e.2).map fun a => (e.1, a) }

/-! ## Binding -/

/-- A list of n Fins. -/
def fins (n : Nat) : List (Fin n) := List.finRange n

/-- The string of a physical tile (R11). -/
def stringOf (t : TileId) : StringId := ⟨t.val / 4, by omega⟩

/-- String n, with its own lamp on its feed until that changes (R14). -/
def State.str (s : State) (n : StringId) : Str := s.strs.get n.val { lamp := n.val }

/-- The state with f applied to string n. -/
def State.modStr (s : State) (n : StringId) (f : Str → Str) : State :=
  { s with strs := s.strs.set n.val (f (s.str n)) }

/-- The physical tiles in service of string n, in ascending order: position j is entry j (R37, R59). -/
def State.positions (s : State) (n : StringId) : List TileId :=
  (fins 32).filter fun t => decide (t.val / 4 = n.val) && (s.tile t).inService

/-- The physical tile at position j of string n (R37). -/
def State.posTile (s : State) (n : StringId) (j : Nat) : Option TileId := (s.positions n)[j]?

/-- A task by its id. -/
def State.task? (s : State) (id : BitVec 16) : Option Task := s.hub.tasks.find? fun x => x.id == id

/-- The task of a dispatcher slot. -/
def State.slotTask (s : State) (n : SlotId) : Option Task := s.hub.tasks.find? fun x => x.slot == some n

/-- The task bound to a tile. -/
def State.tileTask (s : State) (t : TileId) : Option Task := (s.tile t).slot.bind s.slotTask

/-- The state with f applied to the task of an id. -/
def State.modTask (s : State) (id : BitVec 16) (f : Task → Task) : State :=
  s.modHub fun h => { h with tasks := h.tasks.map fun x => if x.id == id then f x else x }

/-- The physical tile bound to task tile index i of a task (R213). -/
def State.bound (s : State) (x : Task) (i : Nat) : Option TileId :=
  (x.strings[i / 4]?).bind fun n => s.posTile n (i % 4)

/-- The physical tile of logical tile i of the task on tile t (R90). -/
def State.physTile (s : State) (t : TileId) (i : Nat) : Option TileId :=
  (s.tileTask t).bind fun x => s.bound x i

/-- The tiles of a task (R59). -/
def State.taskTiles (s : State) (x : Task) : List TileId :=
  (List.range (4 * x.strings.length)).filterMap fun i => s.bound x i

/-- The logical tile number of a physical tile for its task. -/
def State.ltileOf (s : State) (t : TileId) : BitVec 5 := (s.tile t).ltile

/-- The present cores of a tile: their number (R27). -/
def Tile.ncores (x : Tile) : Nat := ((fins 16).filter fun c => x.present.getLsbD c.val).length

/-- The physical core of a logical core: the n-th present one (R27). -/
def Tile.physCore (x : Tile) (k : Nat) : Option Nat :=
  (((fins 16).filter fun c => x.present.getLsbD c.val)[k]?).map (·.val)

/-- The logical core of a physical core. -/
def Tile.logCore (x : Tile) (p : Nat) : Option CoreId :=
  if p < 16 ∧ x.present.getLsbD p then
    let n := ((fins 16).filter fun c => x.present.getLsbD c.val && decide (c.val < p)).length
    if h : n < 16 then some ⟨n, h⟩ else none
  else none

/-- The logical cores present on a tile. -/
def Tile.coreList (x : Tile) : List CoreId := (fins 16).filter fun k => decide (k.val < x.ncores)

/-- Circuit handle h of a tile (R148). -/
def Tile.circ (x : Tile) (h : Nat) : Circ := x.circs.get h {}

/-- TILEID of the cores of tile t under a module id and a logical tile (R282). -/
def tileidOf (md : BitVec 10) (t : TileId) (ltile : BitVec 5) : Word :=
  (0 : BitVec 6) ++ md ++ (0 : BitVec 6) ++ BitVec.ofNat 5 t.val ++ ltile

/-- COREID of core k of a tile (R282). -/
def Tile.coreidOf (x : Tile) (k : CoreId) : Word := (0 : BitVec 24) ++ BitVec.ofNat 4 (x.ncores - 1) ++ BitVec.ofNat 4 k.val

/-- Circuit handle h of tile t. -/
def State.circ (s : State) (t : TileId) (h : Nat) : Circ := (s.tile t).circ h

/-- The state with f applied to a handle. -/
def State.modCirc (s : State) (t : TileId) (h : Nat) (f : Circ → Circ) : State :=
  s.modTile t fun x => { x with circs := x.circs.set h (f (x.circ h)) }

/-- Semaphore n of a tile. -/
def Tile.sem (x : Tile) (n : Nat) : Sem := x.sems.get n {}

/-- The queue of a core that a queue id names. -/
def Core.queue (x : Core) : QueueId → List Job
  | .matrix => x.mxq
  | .handler => x.hxq
  | .chan c => x.chq.get c.val []
  | .send => x.sendq

/-- The core with one queue replaced. -/
def Core.setQueue (x : Core) (q : QueueId) (l : List Job) : Core :=
  match q with
  | .matrix => { x with mxq := l }
  | .handler => { x with hxq := l }
  | .chan c => { x with chq := x.chq.set c.val l }
  | .send => { x with sendq := l }

/-- The code of PACE for a queue (R375). -/
def QueueId.code : QueueId → Nat
  | .matrix => 0
  | .handler => 0
  | .chan c => 1 + c.val
  | .send => 9

/-- A Nat as an index of a Fin type, reduced. -/
def fin (n : Nat) (x : Nat) (h : 0 < n := by decide) : Fin n := ⟨x % n, Nat.mod_lt _ h⟩

end Sys2Proof.Machine
end

