-- ==== Sys2Proof/Machine/Memory.lean ====
section
/-!
DEFINITION. Memory: the one list of bytes behind HBM, scratchpads and host space, the module map (R89), the
on-die views of registers, banks, semaphores and shape records (R91 to R93), and words, rows and blocks built
from bytes, little-endian (R4, R96).
-/
namespace Sys2Proof.Machine

/-! ## The list of bytes -/

/-- What an address that is not listed reads as (log 2). -/
def memDefault : Byte := 0

/-- The byte at an address of the list. -/
def memGet : List Host.Cell → Nat → Byte
  | [], _ => memDefault
  | (x, y) :: r, a => if x = a then y else if a < x then memDefault else memGet r a

/-- The list with the byte at an address replaced, in canonical form. -/
def memPut : List Host.Cell → Nat → Byte → List Host.Cell
  | [], a, b => if b = memDefault then [] else [(a, b)]
  | (x, y) :: r, a, b =>
    if a < x then (if b = memDefault then (x, y) :: r else (a, b) :: (x, y) :: r)
    else if x = a then (if b = memDefault then r else (a, b) :: r)
    else (x, y) :: memPut r a b

/-- The canonical form: addresses strictly rising from a bound on, no listed default. -/
def memWfFrom : Nat → List Host.Cell → Bool
  | _, [] => true
  | n, (x, y) :: r => decide (n ≤ x) && (y != memDefault) && memWfFrom (x + 1) r

/-- The canonical form of memory. -/
def Memory.wf (m : List Host.Cell) : Bool := memWfFrom 0 m

/-! ## The module map -/

/-- What an MPA names (R89, R91). -/
inductive Place where
  | hbm (tile : TileId) (off : Nat)
  | onDie (tile : TileId) (core : Nat) (kind : Nat) (off : Nat)
  | host
  | hole
  deriving DecidableEq, Repr, Inhabited

/-- The size of an on-die kind in bytes; 0 for kinds 6 and 7 (R91). -/
def kindSize : Nat → Nat
  | 0 => 0x400000
  | 1 => 0x60000
  | 2 => 0x3000
  | 3 => 0x1000
  | 4 => 0x40000
  | 5 => 0x10000
  | _ => 0

/-- Whether an offset of the register files is listed (R93). -/
def regFileListed (off : Nat) : Bool :=
  decide (off < 0x280) || (decide (0x280 ≤ off) && decide (off < 0x2D0)) ||
    (decide (0x1000 ≤ off) && decide (off < 0x3000))

/-- The place of an MPA: HBM below its staging area (R503), on-die space of present cores, host space; a hole
otherwise, and for a tile that is not in service (R89, R91). Kind 5, the logic area, takes no core: R91 lists both a hole for a core
not present and a read-only area for kind 5, and the second is taken whatever the core field holds (DESIGN CHOICE, log 16). -/
def State.place (s : State) (mpa : Nat) : Place :=
  if mpa < 0x020000000000 then
    let t : TileId := fin 32 (mpa / 2 ^ 36)
    let off := mpa % 2 ^ 36
    if (s.tile t).inService && decide (off < 0xFFF000000) then .hbm t off else .hole
  else if 0x800000000000 ≤ mpa ∧ mpa < 0x900000000000 then
    let t : TileId := fin 32 (mpa / 2 ^ 39)
    let c := mpa / 2 ^ 35 % 16
    let kind := mpa / 2 ^ 32 % 8
    let off := mpa % 2 ^ 32
    if !(s.tile t).inService then .hole
    else if kindSize kind ≤ off then .hole
    else if kind ≤ 2 ∧ !(s.tile t).present.getLsbD c then .hole
    else if (kind = 3 ∨ kind = 4) ∧ c ≠ 0 then .hole
    else if kind = 2 ∧ !regFileListed off then .hole
    else .onDie t c kind off
  else if 0xC00000000000 ≤ mpa ∧ mpa < 0xD00000000000 then .host
  else .hole

/-- The MPA of a byte of on-die space. -/
def onDieMpa (t core kind off : Nat) : Nat := 0x800000000000 + t * 2 ^ 39 + core * 2 ^ 35 + kind * 2 ^ 32 + off

/-- Byte i of a value. -/
def byteOf {n : Nat} (x : BitVec n) (i : Nat) : Byte := x.extractLsb' (8 * i) 8

/-- A value with byte i replaced. -/
def putByte {n : Nat} (x : BitVec n) (i : Nat) (b : Byte) : BitVec n :=
  (x &&& ~~~((BitVec.ofNat n 0xFF) <<< (8 * i))) ||| ((b.setWidth n) <<< (8 * i))

/-- Word w of a semaphore (R187). -/
def Sem.word (x : Sem) (w : Nat) : Word :=
  if x.phaseMode then
    match w with
    | 0 => x.expa ++ x.arrv
    | 1 => x.expb
    | 2 => x.bytes
    | _ => x.phase
  else if w = 0 then x.count else 0

/-- The register or mask that a byte of the register files belongs to, by cluster and key, with its place there (R93). -/
def regCell (off : Nat) : Option (Cluster × Nat × Nat) :=
  if off < 0x100 then some (.c, off / 4, off % 4)
  else if off < 0x200 then some (.m, (off - 0x100) / 4, off % 4)
  else if off < 0x280 then some (.e, (off - 0x200) / 4, off % 4)
  else if off < 0x2C0 then some (.v, 128 + (off - 0x280) / 8, off % 8)
  else if 0x1000 ≤ off ∧ off < 0x3000 then some (.v, (off - 0x1000) / 256, off % 256)
  else none

/-- The place of a register or mask in the register files, by cluster and key, and its bytes (R93, R441). -/
def regSpan (cl : Cluster) (key : Nat) : Nat × Nat :=
  match cl with
  | .c => (4 * key, 4)
  | .m => (0x100 + 4 * key, 4)
  | .e => (0x200 + 4 * key, 4)
  | .v => if 128 ≤ key then (0x280 + 8 * (key - 128), 8) else (0x1000 + 256 * key, 256)

/-- A byte of the register files in rc now, as a window access reads it at the boundary of the engine cycle under way (R93, R94). -/
def Core.regByte (x : Core) (now off : Nat) : Byte :=
  match regCell off with
  | some (cl, key, i) => byteOf (x.seen cl key (nextEc now x.cdiv)) i
  | none =>
    if 0x2C0 ≤ off ∧ off < 0x2D0 ∧ off % 4 = 0 then (x.clu (Cluster.ofCode ((off - 0x2C0) / 4))).guards ||| 1 else 0

/-- The core with a byte of its register files written by a window access in rc now; k0 and g0 keep their values
(R94). -/
def Core.setRegByte (x : Core) (now off : Nat) (b : Byte) : Core :=
  match regCell off with
  | some (cl, key, i) => x.windowWrite cl key now ((BitVec.ofNat 2048 0xFF) <<< (8 * i)) ((b.setWidth 2048) <<< (8 * i))
  | none =>
    if 0x2C0 ≤ off ∧ off < 0x2D0 ∧ off % 4 = 0 then
      x.modClu (Cluster.ofCode ((off - 0x2C0) / 4)) fun y => { y with guards := b ||| 1 }
    else x

/-- The key of accumulator element (m, n) of bank b. -/
def accKey (b m n : Nat) : Nat := b * 4096 + m * 64 + n

/-- Accumulator element (m, n) of bank b (R92). -/
def Core.accEl (x : Core) (b m n : Nat) : Acc := x.acc.get (accKey b m n) 0

/-- The core with an accumulator element written, so that its error is gone (R443). -/
def Core.setAcc (x : Core) (b m n : Nat) (v : Acc) : Core :=
  { x with acc := x.acc.set (accKey b m n) v, badAcc := x.badAcc.filter fun i => i != accKey b m n }

/-- A byte of the accumulator banks (R92). -/
def Core.bankByte (x : Core) (off : Nat) : Byte :=
  byteOf (x.accEl (off / 0x6000) (off % 0x6000 / 384) (off % 384 / 6)) (off % 6)

/-- The core with a byte of its accumulator banks written. -/
def Core.setBankByte (x : Core) (off : Nat) (b : Byte) : Core :=
  x.setAcc (off / 0x6000) (off % 0x6000 / 384) (off % 384 / 6)
    (putByte (x.accEl (off / 0x6000) (off % 0x6000 / 384) (off % 384 / 6)) (off % 6) b)

/-- The logical core that an on-die MPA names by its physical number; core 0 where none is present. -/
def State.dieCore (s : State) (t : TileId) (c : Nat) : CoreId := ((s.tile t).logCore c).getD 0

/-- A byte of memory by its MPA. A hole reads 0 here; accesses are checked before they read. -/
def State.readByte (s : State) (mpa : Nat) : Byte :=
  match s.place mpa with
  | .hbm _ _ => memGet s.mem mpa
  | .host => memGet s.mem mpa
  | .hole => 0
  | .onDie t c kind off =>
    match kind with
    | 0 => memGet s.mem mpa
    | 1 => (s.core t (s.dieCore t c)).bankByte off
    | 2 => (s.core t (s.dieCore t c)).regByte s.now off
    | 3 => byteOf (((s.tile t).sem (off / 16)).word (off % 16 / 4)) (off % 4)
    | 4 => byteOf ((s.tile t).shapes.get (off / 64) {}).recd (off % 64)
    | _ => if off < 4 then byteOf (s.tile t).routes off else 0

/-- The fault route table of a tile written in rc n: the table before that rc holds for the faults detected in it (R411). -/
def Tile.setRoutes (x : Tile) (n : Nat) (w : Word) : Tile :=
  { x with
    routesWas := match x.routesWas with
      | some (m, old) => if m = n then some (m, old) else some (n, x.routes)
      | none => some (n, x.routes)
    routes := w }

/-- The fault route table that holds for a fault detected in rc n (R411). -/
def Tile.routesAt (x : Tile) (n : Nat) : Word :=
  match x.routesWas with
  | some (m, old) => if m = n then old else x.routes
  | none => x.routes

/-- The state with a byte of memory written by its MPA. Kinds 3 and 4 and holes change nothing (R91). -/
def State.writeByte (s : State) (mpa : Nat) (b : Byte) : State :=
  match s.place mpa with
  | .hbm _ _ => { s with mem := memPut s.mem mpa b }
  | .host => { s with mem := memPut s.mem mpa b }
  | .hole => s
  | .onDie t c kind off =>
    match kind with
    | 0 => { s with mem := memPut s.mem mpa b }
    | 1 => s.modCore t (s.dieCore t c) fun x => x.setBankByte off b
    | 2 => s.modCore t (s.dieCore t c) fun x => x.setRegByte s.now off b
    | 5 => if off < 4 then s.modTile t fun x => x.setRoutes s.now (putByte x.routes off b &&& 0x3FFFC) else s
    | _ => s

/-- A number from bytes, lowest first. -/
def leNat : List Byte → Nat
  | [] => 0
  | b :: r => b.toNat + 256 * leNat r

/-- n bytes of a number, lowest first. -/
def leBytes : Nat → Nat → List Byte
  | 0, _ => []
  | n + 1, x => BitVec.ofNat 8 x :: leBytes n (x / 256)

/-- n bytes from an MPA on. -/
def State.readBytes (s : State) (mpa n : Nat) : List Byte := (List.range n).map fun i => s.readByte (mpa + i)

/-- The state with bytes written from an MPA on. -/
def State.writeBytes (s : State) (mpa : Nat) : List Byte → State
  | [] => s
  | b :: r => (s.writeByte mpa b).writeBytes (mpa + 1) r

/-- The word at an MPA; bits [1:0] are ignored (R96). -/
def State.readWord (s : State) (mpa : Nat) : Word := BitVec.ofNat 32 (leNat (s.readBytes (mpa / 4 * 4) 4))

/-- A word written at an MPA (R96). -/
def State.writeWord (s : State) (mpa : Nat) (w : Word) : State := s.writeBytes (mpa / 4 * 4) (leBytes 4 w.toNat)

/-- An instruction-word-sized value at an MPA. -/
def State.readDWord (s : State) (mpa : Nat) : DWord := BitVec.ofNat 64 (leNat (s.readBytes mpa 8))

/-- 64 bits written at an MPA. -/
def State.writeDWord (s : State) (mpa : Nat) (w : DWord) : State := s.writeBytes mpa (leBytes 8 w.toNat)

/-- The row at an MPA; bits [7:0] are ignored (R96). -/
def State.readRow (s : State) (mpa : Nat) : Row := BitVec.ofNat 2048 (leNat (s.readBytes (mpa / 256 * 256) 256))

/-- A row written at an MPA (R96). -/
def State.writeRow (s : State) (mpa : Nat) (r : Row) : State :=
  s.writeBytes (mpa / 256 * 256) (leBytes 256 r.toNat)

/-- The MPA of a byte of a core's own scratchpad (R98, step 1). -/
def State.padMpa (s : State) (t : TileId) (k : CoreId) (off : Nat) : Nat :=
  onDieMpa t.val (((s.tile t).physCore k.val).getD 0) 0 (off % 0x400000)

/-- The MPA of a byte of on-die space of a core (R91). -/
def State.coreMpa (s : State) (t : TileId) (k : CoreId) (kind off : Nat) : Nat :=
  onDieMpa t.val (((s.tile t).physCore k.val).getD 0) kind off

/-- The first element of a row of a bank in the lanes m found uncorrectable, as its MPA (R92, R441). -/
def State.badAccRow (s : State) (t : TileId) (k : CoreId) (b row : Nat) (m : BitVec 64) : Option Nat :=
  ((List.range 64).find? fun c => m.getLsbD c && (s.core t k).badAcc.contains (accKey b row c)).map fun c =>
    s.coreMpa t k 1 (b * 0x6000 + row * 384 + 6 * c)

/-! ## Lanes -/

/-- Lane i of a row (R4). -/
def lane (r : Row) (i : Nat) : Word := r.extractLsb' (32 * i) 32

/-- The number whose lanes 0, 1, … are the words of the list. -/
def packN : List Word → Nat
  | [] => 0
  | w :: r => w.toNat + 2 ^ 32 * packN r

/-- The row whose lanes are f 0 to f 63. -/
def mkRow (f : Nat → Word) : Row := BitVec.ofNat 2048 (packN ((List.range 64).map f))

/-- A word in all 64 lanes (R237). -/
def splat (w : Word) : Row := mkRow fun _ => w

/-- Byte i of a row. -/
def rowByte (r : Row) (i : Nat) : Byte := byteOf r i

end Sys2Proof.Machine
end

