-- ==== Sys2Proof/Machine/Banks.lean ====
section
/-!
DEFINITION. The banks of a scratchpad: which bank a row falls in (spec/04 R103, R104) and how the banks serve the requests that
reach them (R105).
-/
namespace Sys2Proof.Machine

/-! ## The bank of a row -/

/-- The span code of a scratchpad row: that of the lowest-numbered valid region that contains it, else 0 (R103). -/
def Core.spanCode (x : Core) (row : Nat) : Nat :=
  match (List.range 8).find? fun n =>
    let d := x.rgn.get n 0
    let base := (d.extractLsb' 16 14).toNat
    d.getLsbD 63 && decide (base ≤ row) && decide (row < base + (d.extractLsb' 40 16).toNat) with
  | some n => ((x.rgn.get n 0).extractLsb' 56 3).toNat
  | none => 0

/-- The bank of a byte of the scratchpad under span code n (R104). -/
def bankOf (n addr : Nat) : Nat := ((addr >>> (8 + n)) ^^^ (addr >>> (12 + n))) % 16

/-- The bank of a byte of a core's scratchpad (R103, R104). -/
def Core.bank (x : Core) (addr : Nat) : Nat := bankOf (x.spanCode (addr / 256)) addr

/-! ## Requestors -/

/-- The requestors of a bank, in the fixed order of R105, as class and number: the core's own M cluster, its E cluster, the M
cluster of another core of the tile, a matrix job by its start and its id, a BTE channel, the inbound path, the host agent. -/
inductive Asker where
  | m | e | otherM (k : CoreId) | matrix (start job : Nat) | channel (c : Nat) | inbound | host
  deriving DecidableEq, Repr

/-- The class of a requestor, and its number within the class (R105). -/
def Asker.rank : Asker → Nat × Nat
  | .m => (0, 0)
  | .e => (1, 0)
  | .otherM k => (2, k.val)
  | .matrix start n => (3, start * 2 ^ 64 + n)
  | .channel c => (4, c)
  | .inbound => (5, 0)
  | .host => (6, 0)

/-- The M cluster of core k of tile t as a requestor of another scratchpad (R105): one of the same tile asks as such, one of
another tile comes by the inbound path. -/
def askerM (t : TileId) (k : CoreId) (u : TileId) (j : CoreId) : Asker :=
  if t = u then (if k = j then .m else .otherM k) else .inbound

/-! ## A bank cycle -/

/-- Whether a request asks for a bank in bank cycle c. -/
def BankReq.asks (r : BankReq) (c b : Nat) : Bool := decide (r.since ≤ c) && r.banks.head? == some b

/-- Whether a request has lost 8 bank cycles in a row on its bank (R105). -/
def BankReq.aged (r : BankReq) : Bool := decide (8 ≤ r.lost)

/-- Whether request r, the i-th made, is served ahead of q, the j-th (R105). -/
def BankReq.ahead (r : BankReq) (i : Nat) (q : BankReq) (j : Nat) : Bool :=
  if r.aged != q.aged then r.aged
  else if r.cls ≠ q.cls then decide (r.cls < q.cls)
  else if r.sub ≠ q.sub then decide (r.sub < q.sub)
  else decide (i < j)

/-- Whether the i-th request of a list is the one that its bank serves in bank cycle c. -/
def first (l : List BankReq) (c i : Nat) (r : BankReq) : Bool :=
  match r.banks.head? with
  | none => true
  | some b => l.zipIdx.all fun q => decide (q.2 = i) || !q.1.asks c b || r.ahead i q.1 q.2

/-- Whether the i-th request of a list is served in bank cycle c: as the first at its bank, or with it, where both are jobs of the
matrix engine that fetch one row (log 54). -/
def served (l : List BankReq) (c i : Nat) (r : BankReq) : Bool :=
  first l c i r || (r.cls == 3 && decide (r.since ≤ c) && l.zipIdx.any fun q =>
    q.1.cls == 3 && q.1.row == r.row && q.1.banks.head? == r.banks.head? && decide (q.1.since ≤ c) && first l c q.2 q.1)

/-- A request after bank cycle c: it goes on to its next row, or has lost once more. -/
def BankReq.after (r : BankReq) (c : Nat) (won : Bool) : BankReq :=
  if c < r.since then r else if won then { r with banks := r.banks.drop 1, lost := 0 } else { r with lost := r.lost + 1 }

/-- ONE BANK CYCLE of a scratchpad (R105): each bank serves one request; what is left to serve, and those that stalled. -/
def bankCycle (c : Nat) (l : List BankReq) : List BankReq × List BankReq :=
  let won := l.zipIdx.map fun q => (q.1, served l c q.2 q.1)
  ((won.map fun q => q.1.after c q.2).filter fun r => !r.banks.isEmpty,
    (won.filter fun q => !q.2 && decide (q.1.since ≤ c)).map Prod.fst)

/-- Whether request q, which stands at a bank now, is served ahead of a request of rank r that comes after it, once both have lost
i more cycles (R105). -/
def BankReq.before (q : BankReq) (r : Nat × Nat) (i : Nat) : Bool :=
  let order := decide (q.cls < r.1) || (q.cls == r.1 && decide (q.sub ≤ r.2))
  if 8 ≤ i then decide (8 ≤ q.lost + i) && order else order || decide (8 ≤ q.lost + i)

/-- The bank cycles that a request of rank r made in cycle c waits for those that stand at its bank by then (R105). -/
def askDelay (r : Nat × Nat) (b c : Nat) : Nat → Nat → List BankReq → Nat
  | 0, _, _ => 0
  | n + 1, i, l =>
    match l.find? fun q => q.asks (c + i) b && q.before r i with
    | some q => 1 + askDelay r b c n (i + 1) (l.erase q)
    | none => 0

/-! ## Asking -/

/-- A request at the banks of core k of tile t, for the rows of its scratchpad among those listed by MPA: all at once for a
matrix job, else one after the other (R105). -/
def askCore (who : Asker) (since : Nat) (rows : List Nat) (t : TileId) (k : CoreId) (s : State) : State :=
  let mine := rows.filterMap fun m =>
    match s.place m with
    | .onDie u c 0 off => if u = t ∧ s.dieCore u c = k then some ((s.core t k).bank off, off / 256) else none
    | _ => none
  let req : BankReq := { cls := who.rank.1, sub := who.rank.2, banks := mine.map (·.1), since := since }
  let l := match who with
    | .matrix _ n => mine.map fun b => { req with banks := [b.1], row := b.2, job := some n }
    | _ => if mine.isEmpty then [] else [req]
  if l.isEmpty then s else s.modCore t k fun x => { x with bankq := x.bankq ++ l }

/-- The cores whose scratchpads hold rows of the list. -/
def padCores (s : State) (rows : List Nat) : List (TileId × CoreId) :=
  (rows.filterMap fun m =>
    match s.place m with
    | .onDie u c 0 _ => some (u, s.dieCore u c)
    | _ => none).eraseDups

/-- A REQUEST FOR ROWS, by MPA, made in this bank cycle (R105). -/
def askRows (who : TileId → CoreId → Asker) (rows : List Nat) (s : State) : State :=
  (padCores s rows).foldl (fun s p => askCore (who p.1 p.2) (s.now / 2) rows p.1 p.2 s) s

/-- A unit that is the same requestor at every scratchpad (R105). -/
def asUnit (a : Asker) (_ : TileId) (_ : CoreId) : Asker := a

/-- The bank cycles that a request for a scratchpad row waits from now on (R105). -/
def State.bankWait (s : State) (who : TileId → CoreId → Asker) (mpa : Nat) : Nat :=
  match s.place mpa with
  | .onDie u c 0 off =>
    let k := s.dieCore u c
    let x := s.core u k
    askDelay (who u k).rank (x.bank off) (s.now / 2) (x.bankq.length + 1) 0 x.bankq
  | _ => 0

/-! ## The end of a bank cycle -/

/-- The engine cycles of divisor d among the two rc from rc n on. -/
def ecIn2 (n d : Nat) : Nat := (n + 1) / d + 1 - (n + d - 1) / d

/-- The divisor in whose engine cycles a stalled request of core x counts: its cluster's, its engine's, else that of a bank
cycle (log 54). -/
def BankReq.divisor (r : BankReq) (x : Core) : Nat := if r.cls ≤ 1 then x.cdiv else if r.cls = 3 then x.meff else 2

/-- A core after bank cycle c, with the engine cycles that its bank conflicts cost and the BTE channels that stall (R105, R337): a
requestor that stalls counts once, and a matrix job or a word of the E cluster takes that much longer. -/
def Core.serveBanks (c : Nat) (x : Core) : Core × Nat × List Nat :=
  let (l, lost) := bankCycle c x.bankq
  let lost := lost.foldl (fun (a : List BankReq) r => if a.any fun q => q.cls == r.cls && q.sub == r.sub then a else a ++ [r]) []
  let n := lost.foldl (fun n r => n + ecIn2 (2 * c + 2) (r.divisor x)) 0
  let late (j : Job) : Job :=
    if lost.any fun r => r.job == some j.id then { j with debt := j.debt + ecIn2 (2 * c + 2) x.meff } else j
  let lateE (y : Clu) : Clu :=
    if lost.any fun r => r.cls == 1 then
      { y with ans := y.ans.map fun a => { a with due := a.due + x.cdiv * ecIn2 (2 * c + 2) x.cdiv } }
    else y
  ({ x with bankq := l, mxq := x.mxq.map late, hxq := x.hxq.map late, ec := lateE x.ec }, n,
    (lost.filter fun r => r.cls == 4).map (·.sub))

end Sys2Proof.Machine
end

