-- ==== Sys2Proof/Machine/Ops.lean ====
section
/-!
DEFINITION. The shared operations of the machine: interrupts to the host (R33, R34), fault records and routes
(R409 to R419), taking a fault or a trap and returning from it (R278, R279, R413 to R417), the release of a
circuit (R149, R381) and the end of a task (R79, R210, R211, R410).
-/
namespace Sys2Proof.Machine

/-! ## Event counters -/

/-- Whether EVTSEL selects an event of a core (R53). -/
def evtMatches (sel : Word) (ev : Nat) (k : Option CoreId) : Bool :=
  sel.getLsbD 31 && decide ((sel.extractLsb' 0 8).toNat = ev) &&
    (match k with
      | none => true
      | some c => sel.getLsbD 15 || decide ((sel.extractLsb' 16 4).toNat = c.val))

/-- Counter n advanced by m; a wrap sets OVF (R53). -/
def Tile.bump (x : Tile) (n m : Nat) : Tile :=
  let v := (x.evtcnt.get n 0).toNat + m
  let x := { x with evtcnt := x.evtcnt.set n (BitVec.ofNat 48 v) }
  if v < 2 ^ 48 then x else { x with evtsel := x.evtsel.set n (x.evtsel.get n 0 ||| 0x40000000) }

/-- m occurrences of an event, of a core or of the tile (R54). -/
def Tile.count (x : Tile) (ev : Nat) (k : Option CoreId) (m : Nat) : Tile :=
  if m = 0 then x
  else (List.range 16).foldl (fun x n => if evtMatches (x.evtsel.get n 0) ev k then x.bump n m else x) x

/-- m occurrences of an event on tile t. -/
def State.count (s : State) (t : TileId) (ev : Nat) (k : Option CoreId) (m : Nat) : State :=
  s.modTile t fun x => x.count ev k m

/-- The tile whose HBM an MPA names. -/
def hbmTile (mpa : Nat) : Option TileId := if mpa < 0x020000000000 then some (fin 32 (mpa / 2 ^ 36)) else none

/-- Bytes read from HBM, counted at its tile (R54). -/
def countRead (mpa n : Nat) (s : State) : State :=
  match hbmTile mpa with
  | some t => s.count t 0x0B none n
  | none => s

/-- Bytes written to HBM, counted at its tile (R54). -/
def countWrite (mpa n : Nat) (s : State) : State :=
  match hbmTile mpa with
  | some t => s.count t 0x0C none n
  | none => s

/-- An event of a core that occurs in rc n, this one or one to come (R54). -/
def State.countAt (s : State) (t : TileId) (n ev : Nat) (k : CoreId) : State :=
  if n ≤ s.now then s.count t ev (some k) 1
  else s.modTile t fun x => { x with evtLater := x.evtLater ++ [(n, ev, k)] }

/-- The events of rc n that a matrix step has listed, counted (R54). -/
def Tile.countLater (x : Tile) (n : Nat) : Tile :=
  if x.evtLater.isEmpty then x
  else
    let (ok, later) := x.evtLater.partition fun e => decide (e.1 ≤ n)
    ok.foldl (fun x e => x.count e.2.1 (some e.2.2) 1) { x with evtLater := later }

/-- A channel that has stalled at a bank (R105). -/
def Tile.stallChan (x : Tile) (c : Nat) : Tile :=
  { x with chans := x.chans.set c { x.chans.get c {} with debt := (x.chans.get c {}).debt + 1 } }

/-- The scratchpads of a tile after bank cycle c, with the stalls counted (R54, R105). -/
def Tile.serveBanks (c : Nat) (x : Tile) : Tile :=
  if x.cores.rows.all fun p => p.2.bankq.isEmpty then x
  else
    let l := x.cores.rows.map fun p => (p.1, p.2.serveBanks c)
    l.foldl (fun x p => p.2.2.2.foldl Tile.stallChan (x.count 0x08 (some (fin 16 p.1)) p.2.2.1))
      { x with cores := ⟨l.map fun p => (p.1, p.2.1)⟩ }

/-- A tile at the end of an rc: reference cycles and those under string throttle are counted, the bank cycle that ends is
served, and the events of the next rc are counted (R54, R105, R220). -/
def tickTile (s : State) (t : Nat) (x : Tile) : Tile :=
  let x := x.count 0x01 none 1
  let x := if 0 < (s.strs.get (t / 4) {}).level then x.count 0x13 none 1 else x
  let x := if s.now % 2 = 1 then x.serveBanks (s.now / 2) else x
  x.countLater (s.now + 1)

/-- One rc goes by. -/
def State.tick (s : State) : State := { s with now := s.now + 1, tiles := s.tiles.mapVals (tickTile s) }

/-! ## The host side -/

/-- An MSI-X vector raised once: pending while it is masked or the link is down, else one message (R33, R34,
R421). -/
def raiseVec (n : Nat) (s : State) : State :=
  s.modHub fun h =>
    if n ∈ h.msixPend then h
    else if h.msixMask.get n true || !h.linkUp then { h with msixPend := h.msixPend ++ [n] }
    else { h with msixOut := h.msixOut ++ [n] }

/-- A word of a BAR0 block written by the hub, by its byte offset. -/
def bar0Set (off : Nat) (w : Word) (s : State) : State :=
  s.modHub fun h => { h with bar0 := h.bar0.set (off / 4) w }

/-- 64-bit words of a record written into BAR0 from an offset on, the last one last. -/
def bar0SetD (off : Nat) : List DWord → State → State
  | [], s => s
  | d :: r, s => bar0SetD (off + 8) r (bar0Set (off + 4) (d.extractLsb' 32 32) (bar0Set off (d.truncate 32) s))

/-- The inventory changes: INVSEQ advances and vector 2 is raised (R37). -/
def inventoryChange (s : State) : State := raiseVec 2 (s.modHub fun h => { h with invseq := h.invseq + 1 })

/-! ## Fault records -/

/-- The severity of a code (R408); RING_DETUNE is contained for the control ring L9. -/
def sevOf (r : FaultRec) : Severity :=
  match r.code with
  | .ringDetune => if (r.fab.getD {}).line = 9 then .contained else .corrected
  | .safeptState | .watchdog | .exitMismatch | .clusterDeadlock | .heldOverflow | .handlerMatrix | .rigIllegal
  | .lampSpareNone | .tileBypassed | .coreFailed => .taskFatal
  | .hubFailure => .moduleFatal
  | .lampFail | .mziFail | .allowanceAudit | .flitMalformed | .xportStatus | .softCorrected | .linkDown
  | .linkDegraded | .apertureUnmapped | .startLamp | .startRing | .startMesh | .startCore | .startTile => .corrected
  | _ => .contained

/-- The route codes of R411. -/
inductive Route where
  | loc | sup | hub | host
  deriving DecidableEq, Repr, Inhabited

/-- The 2-bit code of a route. -/
def Route.code : Route → BitVec 2
  | .loc => 0
  | .sup => 1
  | .hub => 2
  | .host => 3

/-- The route a code names. -/
def Route.ofCode : Nat → Route
  | 0 => .loc
  | 1 => .sup
  | 2 => .hub
  | _ => .host

/-- A list of keyed items with one put in its place. -/
def putKeyed {α : Type} (k : Nat) (x : α) : List (Nat × α) → List (Nat × α)
  | [] => [(k, x)]
  | (j, y) :: r => if k < j then (k, x) :: (j, y) :: r else (j, y) :: putKeyed k x r

/-- The route that a tile's table gives a fault code: the field of its class (R411). -/
def tableRoute (routes : Word) (code : FaultCode) : Route :=
  Route.ofCode ((routes >>> (2 * (code.num.toNat / 256))).toNat % 4)

/-- The supervisor of a task: logical core 0 of task tile index 0 (R413). -/
def State.supervisor (s : State) (x : Task) : Option TileId := s.bound x 0

/-- Whether the supervisor has executed its EXIT bundle or HALT (R412). -/
def State.supGone (s : State) (x : Task) : Bool :=
  match s.supervisor x with
  | some t => (s.core t 0).exited.isSome || (s.core t 0).halted
  | none => true

/-- Whether the core that a record names is in its handler. -/
def State.recTrap (s : State) (r : FaultRec) : Bool :=
  match r.tile, r.core with
  | some (_, t), some (k, _) => (s.core t k).trap
  | _, _ => false

/-- The route and the severity after the adjustments of R412, the first that matches; a contained fault of a task that is
being restored is task-fatal (R418). -/
def adjust (s : State) (r : FaultRec) : Route × Severity :=
  let sev := sevOf r
  let tbl := match r.tile with
    | some (_, t) => tableRoute ((s.tile t).routesAt s.now) r.code
    | none => .host
  let gone := match s.task? r.task with
    | some x => s.supGone x
    | none => true
  if r.code = .softwareTrap ∧ s.recTrap r = false then (.loc, sev)
  else if r.task = 0 then (.host, sev)
  else if sev = .moduleFatal ∨ sev = .taskFatal then (.host, sev)
  else if r.handlerWork ∧ s.recTrap r = true then (.host, .taskFatal)
  else if sev = .corrected ∧ (tbl = .loc ∨ tbl = .sup) then (.hub, sev)
  else if sev = .contained ∧ (s.task? r.task).map (·.stat) = some .launching then (.host, .taskFatal)
  else if r.kind = .precise ∧ (tbl = .hub ∨ tbl = .host) then (.host, .taskFatal)
  else if r.core.isNone ∧ tbl = .loc then ((if gone then .hub else .sup), sev)
  else if tbl = .sup ∧ gone = true then (.hub, sev)
  else (tbl, sev)

/-- Bytes 8 to 15 of a record (R409). -/
def recWord1 (modid : BitVec 10) (r : FaultRec) : DWord :=
  let lt : BitVec 5 := (r.tile.map (·.1)).getD 0
  let pt : BitVec 5 := BitVec.ofNat 5 ((r.tile.map (·.2.val)).getD 0)
  let k : BitVec 4 := BitVec.ofNat 4 ((r.core.map (·.1.val)).getD 0)
  let c : BitVec 2 := BitVec.ofNat 2 ((r.core.map (·.2.code)).getD 0)
  modid ++ lt ++ pt ++ k ++ c ++ BitVec.ofBool r.tile.isSome ++ BitVec.ofBool r.core.isSome ++ (0 : BitVec 4) ++
    r.task ++ (0 : BitVec 16)

/-- Bytes 32 to 39 of a record (R409). -/
def recWord4 (r : FaultRec) : DWord :=
  match r.fab with
  | none => 0
  | some f => (1 : BitVec 1) ++ f.handle ++ f.port ++ f.line ++ f.fib ++ f.job ++ (0 : BitVec 7) ++ f.mseq

/-- The eight 64-bit words of a fault record (R409). -/
def recWords (s : State) (r : FaultRec) (rt : Route) (sev : Severity) : List DWord :=
  [ r.code.num.extractLsb' 8 4 ++ r.code.num ++ sev.code ++ rt.code ++ r.kind.code ++ (0 : BitVec 2) ++ r.num ++
      s.hub.rseq,
    recWord1 s.hub.modid r,
    (match r.pc with | none => 0 | some p => (1 : BitVec 1) ++ (0 : BitVec 44) ++ p),
    (match r.addr with | none => 0 | some (am, a) => (1 : BitVec 1) ++ BitVec.ofBool am ++ (0 : BitVec 2) ++ a),
    recWord4 r, BitVec.ofNat 64 (r.time.getD s.now), r.extra, (1 : BitVec 1) ++ (0 : BitVec 63) ]

/-- A record of eight words as one number of 512 bits, word 0 lowest. -/
def recBits (l : List DWord) : BitVec 512 := BitVec.ofNat 512 (l.foldr (fun d n => d.toNat + 2 ^ 64 * n) 0)

/-- A record entered into the HOST ring: written and counted in PROD with vector 0, or counted in LOST while the
ring is full (R419, R421). -/
def hostRing (l : List DWord) (s : State) : State :=
  let h := s.hub
  if h.faultProd - h.faultCons = 1023 then s.modHub fun h => { h with faultLost := h.faultLost + 1, linkRecs := true }
  else
    let slot := 1 + h.faultProd.toNat % 1023
    let s := bar0SetD (0x30000 + 64 * slot) l s
    raiseVec 0 (s.modHub fun h => { h with faultProd := h.faultProd + 1, linkRecs := true })

/-- A record written: into the management log, into the HOST ring on that route, and RSEQ advances (R409, R413). -/
def writeRec (r : FaultRec) (rt : Route) (sev : Severity) (s : State) : State :=
  let l := recWords s r rt sev
  let s := s.modHub fun h => { h with rseq := h.rseq + 1, mlog := h.mlog ++ [recBits l] }
  if rt = .host then hostRing l s else s

/-! ## Circuits and paths -/

/-- Messages of a circuit that are outstanding: sent, and not yet returned as allowance by every leaf (R158). -/
def Circ.leaves (c : Circ) : Nat := if c.mcast then c.ends.length else 1

/-- The leaf indices of a circuit as a mask. -/
def Circ.leafMask (c : Circ) : BitVec 16 := BitVec.ofNat 16 (2 ^ c.leaves - 1)

/-- Whether every leaf has returned a message as allowance. -/
def Sent.returned (x : Sent) (c : Circ) : Bool := x.allow &&& c.leafMask == c.leafMask

/-- Whether a message has been acknowledged as delivered (R184): every leaf's ACKSEQ has passed it, or, for a G = 1
multicast store, every leaf's ALLOWC; one whose entry has retired unperformed counts as such (R444, R451). -/
def Sent.delivered (x : Sent) (c : Circ) : Bool :=
  if x.msg.void then true
  else if c.mcast && x.msg.g then x.returned c else x.ack &&& c.leafMask == c.leafMask

/-- Whether nothing of a circuit is outstanding or waiting at the sending unit (R149). -/
def Circ.drained (c : Circ) : Bool :=
  c.waiting.isEmpty && c.sent.all fun x => x.returned c && x.ack &&& c.leafMask == c.leafMask

/-- The parked jobs of a tile whose hub recovery waits for a handle learn that its circuit is gone: 65 stands for that (R472). -/
def State.hubLost (s : State) (t : TileId) (h : HandleId) : State :=
  let job (j : Job) : Job := if j.hub = some h.val then { j with hub := some 65 } else j
  s.modTile t fun x =>
    { x with
      cores := x.cores.mapVals fun _ c =>
        { c with
          mxq := c.mxq.map job, hxq := c.hxq.map job, chq := c.chq.mapVals fun _ l => l.map job, sendq := c.sendq.map job } }

/-- A handle that goes to IDLE (R149): what is on its way is lost, and its homes forget it; chunks that they have
accepted or hold stay, with the source that they are decided on (R198). -/
def idleCirc (t : TileId) (h : HandleId) (s : State) : State :=
  let mine (r : Source) : Bool := r.md == s.hub.modid && r.tile == t && r.handle == h
  let s := ((s.dropWire t h).modCirc t h.val fun _ => {}).hubLost t h
  { s with
    tiles := s.tiles.mapVals fun _ x =>
      if x.homes.any fun y => mine y.src then
        { x with
          homes := x.homes.filter fun y => !mine y.src
          staged := x.staged.map fun c => if (c.src.map mine).getD false then { c with src := none } else c }
      else x }

/-- The path of a handle kept for its release at the next step boundary (R147, R149). -/
def keepPath (t : TileId) (h : HandleId) (s : State) : State :=
  let c := s.circ t h.val
  if c.pathed then
    (s.modHub fun x => { x with releasing := x.releasing ++ [(t, h, c)] }).dueH (stepAfter s.now) t h.val .pathRelease
  else s

/-- A load or an atomic that waits for its reply fails: its word faults, and the entry of lq that it reserved goes
(R318, R438). -/
def failLoad (t : TileId) (k : CoreId) (r : FaultRec) (s : State) : State :=
  let s := s.modTile t fun x => { x with asks := x.asks.filter fun a => a.1 != k }
  s.modCore t k fun x =>
    { x.modClu .m (fun y => { y with ans := some { due := s.now, fault := some r } }) with
      lq := x.dropUnfilled.lq, lk := x.dropUnfilled.lk, badLq := x.dropUnfilled.badLq }

/-- The code of a queue in the lists of parked queues: that of R375, and 10 for the handler queue. -/
def QueueId.park : QueueId → Nat
  | .handler => 10
  | .matrix => 0
  | .chan c => 1 + c.val
  | .send => 9

/-- A job after a chunk of its, accepted or still on its way to the sending unit, is lost: the chunk is no longer accepted,
so a retry sends it again, and a job that runs ends with the fault (R448, R473). -/
def Job.lose (j : Job) (accepted : Bool) (h : Nat) (va : Va) : Job :=
  let n := if accepted then 1 else 0
  let j := { j with bytes := j.bytes - n, unacked := j.unacked - n }
  if j.stat = .running then { j with lost := some (j.lost.getD (h, va)) }
  else { j with prog := if j.op = .mdrainSend then j.prog else j.bytes }

/-- A chunk of a job that a circuit torn down has lost: the job is told (R448). -/
def loseChunk (t : TileId) (k : CoreId) (q : QueueId) (id : Nat) (h : HandleId) (x : Sent) (s : State) : State :=
  let s := s.modCore t k fun y =>
    y.setQueue q ((y.queue q).map fun j => if j.id = id then j.lose x.sampled h.val x.va else j)
  s.dueU s.now t k (QueueId.park q) .copyJobComplete

/-- A semaphore word that waits before it leaves for the file looks again in this rc (R272, R273). -/
def kickLeave (t : TileId) (k : CoreId) (s : State) : State :=
  match (s.core t k).c.req with
  | some (.leave _) => s.due s.now (.issue t k .c)
  | _ => s

/-- The pending stores of every core of a tile, and the semaphore words that wait for accesses, looked at again in this rc:
an allowance, an acknowledgement or a reply has come, or a message is gone (R107, R184, R273). -/
def kickStores (t : TileId) (s : State) : State :=
  (fins 16).foldl (fun s k =>
    kickLeave t k (if (s.core t k).pend.isEmpty then s else s.dueK s.now t k .memoryPortApply)) s

/-- The faults of the messages of a FAULTED handle that is torn down: waiting loads and atomics fault their
words, chunks fault their jobs, stores are dropped, and a chunk of a firing counts as applied (R448). The waiting words are told through their answer. -/
def abandonSent (t : TileId) (h : HandleId) (l : List Sent) (s : State) : State :=
  let c := s.circ t h.val
  l.foldl (fun s x =>
    let s := match x.win with
      | some w =>
        if x.sampled && !x.returned c then
          s.modTile t fun y =>
            let v := y.wins.get w {}
            { y with wins := y.wins.set w { v with out := v.out - 1 } }
        else s
      | none => s
    let s := match x.group with
      | some g =>
        if x.sampled && !x.delivered c then
          s.modTile t fun y =>
            let v := y.groups.get g {}
            { y with groups := y.groups.set g { v with out := v.out - 1 } }
        else s
      | none => s
    if x.ty = .short ∧ x.msg.op ≠ 0 then
      if x.replied then s
      else
        failLoad t x.core {
            code := .circuitNotLive, kind := .precise, task := (s.tile t).taskid,
            tile := some (s.ltileOf t, t), core := some (x.core, .m), pc := some x.pc, addr := some (false, x.va),
            fab := some { handle := BitVec.ofNat 6 h.val }, extra := 5, handlerWork := x.handlerWork } s
    else
      match x.entry, x.job with
      | some i, _ =>
        if x.delivered c then s
        else
          let e := (s.tile t).cents.get i {}
          (s.modTile t fun y => { y with cents := y.cents.set i { e with left := e.left - 1 } }).dueH s.now t i .firingComplete
      | none, some (q, id) => if x.delivered c then s else loseChunk t x.core q id h x s
      | none, none => s) s

/-- DERIG of handle h of tile t (R149, R381, R448). -/
def derig (t : TileId) (h : HandleId) (s : State) : State :=
  let c := s.circ t h.val
  match c.state with
  | .idle | .derigging => s
  | .rigging => idleCirc t h s
  | .settling => idleCirc t h (keepPath t h s)
  | .live =>
    let s := s.modCirc t h.val fun x => { x with state := .derigging }
    if c.drained then s.dueH (stepAfter s.now) t h.val .derigComplete else s
  | .faulted => kickStores t (idleCirc t h (keepPath t h (abandonSent t h (c.sent ++ c.waiting) s)))
  | .rerouting =>
    let s := s.modCirc t h.val fun x => { x with state := .derigging }
    if c.drained then s.dueH (stepAfter s.now) t h.val .derigComplete else s

/-- Every handle of a task derigged (R79, R410). -/
def derigTask (slot : SlotId) (s : State) : State :=
  (fins 32).foldl (fun s t =>
    (fins 64).foldl (fun s h => if (s.circ t h.val).slot = some slot then derig t h s else s) s) s

/-! ## The end of a task -/

/-- The scan of this dispatcher cycle of 2 rc made due at its end, or, once it has been made, that of the next (R212). -/
def pokeDispatcher (s : State) : State :=
  let c := s.now / 2
  s.dueN (2 * (if s.hub.scanned = some c then c + 1 else c) + 1) 0 .dispatcherScan

/-- The completion record of a task: its second word first, V last (R210). -/
def completion (cpl : Nat) (id : BitVec 16) (status : Byte) (succ reason : BitVec 16) (s : State) : State :=
  let w0 : DWord := (1 : BitVec 1) ++ (0 : BitVec 7) ++ status ++ succ ++ id ++ reason
  countWrite cpl 16 ((s.writeDWord (cpl + 8) (BitVec.ofNat 64 s.now)).writeDWord cpl w0)

/-- A core at rest: it issues nothing, its queues are empty. Its registers and memories keep their contents. -/
def Core.rest (x : Core) : Core :=
  let x := x.mapClu fun _ y => { y with
    stat := .stopped, held := false, req := none, ans := none, redir := none,
    noSync := false }
  { x with
    mxq := [], hxq := [], chq := {}, sendq := [], pend := [], heldFaults := [], stopped := false,
    waitsSup := false, parkedFor := [], exited := none, halted := false, trap := false, frozenCtx := false }

/-- A tile released by its task: its cores rest and it is bound to none. -/
def freeTile (t : TileId) (s : State) : State :=
  let s := s.modTile t fun x =>
    { x with
      cores := x.cores.mapVals fun _ c => c.rest, slot := none, taskid := 0, partDone := false,
      landing := [], walkq := [], portq := [], staged := [],
      homes := x.homes.map fun y => { y with kept := y.held.length },
      sems := x.sems.mapVals fun _ y => { y with waiters := [], bwaits := [] },
      chans := x.chans.mapVals fun _ y => { y with run := none },
      lim := { x.lim with
        charges := (x.lim.charges.filter fun c => c.began.isSome).map fun c => { c with ended := some (c.ended.getD s.now) } },
      subst := [] }
  s.undue fun a => match a with
    | .issue u _ _ => u == t
    | .bundle u _ => u == t
    | _ => false

/-- The cores of a string told that its throttle level has changed: each takes the new divisor at its engine's step
boundary (R220). -/
def retime (n : StringId) (s : State) : State :=
  (fins 32).foldl (fun s t =>
    if stringOf t = n then
      (s.tile t).coreList.foldl (fun s k => s.dueK ((s.core t k).stepBoundary s.now) t k .matrixDivisorChange) s
    else s) s

/-- The throttle level of a string with no task is 0 again, and its sample counts start afresh (R219). -/
def calmString (n : StringId) (s : State) : State :=
  let old := (s.str n).level
  let s := s.modStr n fun x => { x with level := 0, held := 0, calm := 0, raised := false, since := 0 }
  let s := (fins 32).foldl (fun s t => if stringOf t = n then s.modTile t fun x => { x with imbs := [] } else s) s
  if old = 0 then s else retime n s

/-- Whether the test of a hold is met (R190, R206). -/
def holdMet (s : State) (h : BitVec 16 × Nat × Nat × Word) : Bool :=
  match s.task? h.1 with
  | some y =>
    match if y.stat = .running ∨ y.stat = .stopping then s.bound y h.2.1 else none with
    | some t =>
      let e := (s.tile t).sem h.2.2.1
      e.phaseMode && !(e.phase - h.2.2.2).slt 0
    | none => false
  | none => false

/-- Every hold whose test is met released (R206, R212). -/
def releaseHolds (s : State) : State :=
  s.modHub fun h => { h with tasks := h.tasks.map fun x =>
    match x.hold with
    | some w => if holdMet s w then { x with hold := none } else x
    | none => x }

/-- The reports in MISSING of a task's ranges that satisfy p cleared: the range is granted, or waits no longer as its task is
gone (R38, R423). -/
def clearMissing (id : BitVec 16) (p : Lease → Bool) (s : State) : State :=
  let l := s.hub.missing.filter fun m => m.1 == id && p m.2.2
  let s := l.foldl (fun s m => bar0SetD (0x40100 + 32 * m.2.1) [0, 0, 0, 0] s) s
  s.modHub fun h => { h with missing := h.missing.filter fun m => !(m.1 == id && p m.2.2) }

/-- A task that holds no slot removed with a status, its reservation and its reports in MISSING too, and every task whose hold
watches it (R38, R206, R209, R211). -/
def removeQueued : Nat → Task → Byte → BitVec 16 → State → State
  | 0, _, _, _, s => s
  | n + 1, x, status, reason, s =>
    let s := clearMissing x.id (fun _ => true) (completion x.cpl x.id status 0 reason s)
    let s := s.modHub fun h =>
      { h with tasks := h.tasks.filter fun y => y.id != x.id, reserved := h.reserved.filter fun r => r.1 != x.id }
    s.hub.tasks.foldl (fun s y =>
      if y.stat = .queued ∧ (y.hold.map (·.1) = some x.id ∨ y.pred = x.id) then removeQueued n y 0x02 0 s else s) s

/-- The held successors of a task that has ended which `drop` names, and the tasks whose hold watches it, removed with
HOLD_UNMET (R206, R211). -/
def dropHeld (id : BitVec 16) (drop : BitVec 16 → Bool) (s : State) : State :=
  s.hub.tasks.foldl (fun s x =>
    if x.stat = .queued ∧ ((x.pred = id ∧ drop x.id = true) ∨ x.hold.map (·.1) = some id) then removeQueued 256 x 0x02 0 s
    else s) s

/-- A task taken off the module: with its slot its circuits are derigged, its tiles and strings freed and its slot's
vector raised; its record is written and its held successors are removed (R210, R211, R410). `handOver` keeps the
strings' throttle for a successor that takes over. -/
def retire (x : Task) (status : Byte) (succ reason : BitVec 16) (drop : BitVec 16 → Bool) (handOver : Bool) (s : State) :
    State :=
  let tiles := if x.slot.isSome then s.taskTiles x else []
  let s := releaseHolds s
  let s := match x.slot with
    | some n => derigTask n s
    | none => s
  let s := clearMissing x.id (fun _ => true) (completion x.cpl x.id status succ reason s)
  let s := match x.slot with
    | some n => raiseVec (4 + n.val) s
    | none => s
  let s := tiles.foldl (fun s t => freeTile t s) s
  let s := if x.slot.isSome && !handOver then x.strings.foldl (fun s n => calmString n s) s else s
  let s := s.modHub fun h =>
    { h with tasks := h.tasks.filter fun y => y.id != x.id, reserved := h.reserved.filter fun r => r.1 != x.id }
  let s := dropHeld x.id drop s
  let s := s.undue fun a => match a with
    | .rig n => some n == x.slot
    | _ => false
  pokeDispatcher s

/-- A task ended by a fault: status ENDED_BY_FAULT with the code as the reason (R410). -/
def endByFault (id : BitVec 16) (code : FaultCode) (s : State) : State :=
  match s.task? id with
  | some x => retire x 0x05 0 (code.num.setWidth 16) (fun _ => true) false s
  | none => s

/-- The task bound to a string: that of its slot, but for one that resumes and has nothing on the string yet (R434, R435). -/
def State.stringTask (s : State) (n : StringId) : Option Task :=
  s.hub.tasks.find? fun x => x.slot.isSome && x.strings.contains n && !(x.stat == .launching && !x.saves.isEmpty)

/-- Every task ended as by a task-fatal fault (R410, module-fatal). -/
def endAll (code : FaultCode) (s : State) : State :=
  s.hub.tasks.foldl (fun s x => endByFault x.id code s) s

/-! ## Issue -/

/-- A time of the V cluster once the first of its pushes into a full sq is delivered in rc a: behind it stand those that it
held back (R288). -/
def freed (a t : Nat) : Nat :=
  if t < unknown then t else if t < 2 * unknown then Nat.max (t - unknown) a else t - unknown

/-- The entries of sq that are delivered or come without a wait, and that no M store has performed (R75, R288). -/
def Core.sqIn (x : Core) : Nat :=
  (x.sq.filter fun p => decide (p.1 < unknown)).length +
    (x.pend.filter fun p => p.sq && p.data.isSome && decide (p.ready < unknown)).length

/-- The first push that waits at its delivery for room in sq delivered in rc a, with what stands behind it (R288). -/
def Core.freePush (x : Core) (a : Nat) : Core :=
  let r := freed a
  let x := x.mapClu fun _ y =>
    { y with
      xq := y.xq.map fun p => (4 * r (p.1 / 4) + p.1 % 4, p.2), xk := y.xk.map fun p => (4 * r (p.1 / 4) + p.1 % 4, p.2) }
  let y := x.vc
  { x with
    vc := { y with
      busy := y.busy.mapVals fun _ t => r t, last := r y.last, pushed := r y.pushed, next := r y.next,
      floors := y.floors.map fun p => (r p.1, p.2), late := y.late.map fun e => { e with t := r e.t } }
    fpend := x.fpend.map fun p => (r p.1, p.2), sq := x.sq.map fun p => (r p.1, p.2),
    pend := x.pend.map fun p => { p with ready := r p.ready }, quietAt := Nat.max x.quietAt (nextEc a x.cdiv) }

/-- The pushes that wait for room in sq delivered while there is room, from the present engine cycle on (R288). -/
def Core.freePushes : Nat → Nat → Core → Core
  | 0, _, x => x
  | n + 1, now, x =>
    if unknown ≤ x.vc.last ∧ x.sqIn < 16 then Core.freePushes n now (x.freePush (alignUp now x.cdiv)) else x

/-- The due issue of a cluster's next word at its next engine cycle (R6, R228). -/
def scheduleIssue (t : TileId) (k : CoreId) (cl : Cluster) (ecs : Nat) (s : State) : State :=
  let x := s.core t k
  let at' := nextEc s.now x.cdiv + (ecs - 1) * x.cdiv
  s.due (Nat.max at' ((x.clu cl).next)) (.issue t k cl)

/-- The due issues and bundles of a core withdrawn. -/
def withdrawCore (t : TileId) (k : CoreId) (s : State) : State :=
  s.undue fun a => match a with
    | .issue u j _ => u == t && j == k
    | .bundle u j => u == t && j == k
    | _ => false

/-- Issue scheduled for every cluster of a core that runs or still completes a word. -/
def scheduleCore (t : TileId) (k : CoreId) (s : State) : State :=
  [Cluster.c, .v, .m, .e].foldl (fun s cl =>
    let y := (s.core t k).clu cl
    if y.stat = .running ∨ y.req.isSome then scheduleIssue t k cl 1 s else s) s

/-! ## Gating -/

/-- Whether a core has nothing to do (R230): every cluster waits in a bundle whose waits are all of R84's list, or has
issued its EXIT bundle; its queues are empty; none of its macros runs a batt. -/
def gateIdle (x : Tile) (k : CoreId) : Bool :=
  let y := x.core k
  let waits (r : Req) : Bool :=
    match r with
    | .sem _ => true
    | .walker => true
    | .watermark _ => true
    | .circuit => true
    | _ => false
  let reqs := [y.c.req, y.vc.req, y.m.req, y.ec.req].filterMap id
  x.slot.isSome && !y.halted && !y.stopped &&
    (y.exited.isSome || (y.bundleWait && !reqs.isEmpty && reqs.all waits)) &&
    y.mxq.isEmpty && y.hxq.isEmpty && y.sendq.isEmpty && ((List.range 8).all fun c => (y.chq.get c []).isEmpty) &&
    !x.lim.gbatt.any fun g => g.1 == k

/-- The first rc at which a core that is idle since rc n has been so for 256 gating cycles (R230). -/
def gateTime (n : Nat) : Nat := alignUp n 2 + 512

/-- The gate of an idle core made due (R230). -/
def armGate (t : TileId) (k : CoreId) (s : State) : State :=
  let x := s.tile t
  let n := gateTime (x.core k).idleAt
  if gateIdle x k && !(x.core k).gated && decide (s.now ≤ n) then s.dueK n t k .coreGate else s

/-- Something that keeps a core from being idle has ended or happened in this rc (R230). -/
def stir (t : TileId) (k : CoreId) (s : State) : State :=
  armGate t k (s.modCore t k fun x => { x with idleAt := s.now })

/-- A wake source of a gated core (R231): its request goes to the arbiter, at the earliest once it has stayed gated for
2,048 cycles. -/
def wakeCore (t : TileId) (k : CoreId) (s : State) : State :=
  let x := s.core t k
  if x.gated && !x.wakeReq then
    (s.modCore t k fun x => { x with wakeReq := true }).dueK (Nat.max s.now (x.gateAt + 4096)) t k .wakeRequest
  else s

/-- An engine queue of a core has completed a job (R78, R230). -/
def queueDone (t : TileId) (k : CoreId) (s : State) : State := (stir t k s).dueT s.now t .tilePartEnd

/-! ## Traps -/

/-- One cluster at trap entry: its resume offset kept, its loop depth recorded, and the handler's word entered in
split execution, at once or once its issued word has completed (R278), which then records both (`Clu.moveTo`). -/
def Clu.enterTrap (y : Clu) (entry : Pc) : Clu :=
  let y := { y with held := false, joined := false, trapLoops := y.loops.length, lat := [], stall := 0 }
  if y.req.isSome then { y with redir := some entry }
  else { y with trapRet := y.pc, trapNoSync := y.noSync, noSync := false, pc := entry }

/-- The first word of cluster c's handler: word 4 x VEC + c (R278). -/
def handlerWord (vec : BitVec 17) (cl : Cluster) : Pc := BitVec.ofNat 19 (4 * vec.toNat + cl.code)

/-- TRAPCAUSE of R282. -/
def trapCause (r : FaultRec) (sev : Severity) : Word :=
  r.code.num ++ r.num ++ BitVec.ofNat 2 ((r.core.map (·.2.code)).getD 0) ++ sev.code ++ (0 : Byte)

/-- TRAPPC_HI of R282 and R414: cluster and word index of the faulting word, 0 where PV = 0. -/
def trapPcHi (r : FaultRec) : Word :=
  match r.pc with
  | none => 0
  | some p => BitVec.ofNat 2 ((r.core.map (·.2.code)).getD 0) ++ (0 : BitVec 11) ++ p

/-- TRAPVAL for LOCAL delivery: ADDR zero-extended when AV = 1, EXTRA otherwise (R414). -/
def trapValLocal (r : FaultRec) : DWord :=
  match r.addr with
  | some (_, a) => a.setWidth 64
  | none => r.extra

/-- TRAPVAL for SUPERVISOR delivery: record bytes 12 to 15 and 36 to 39 (R414). -/
def trapValSup (modid : BitVec 10) (r : FaultRec) : DWord :=
  (recWord4 r).extractLsb' 32 32 ++ (recWord1 modid r).extractLsb' 32 32

/-- TRAP ENTRY of core k (R278, R414): the resume offsets, the recorded depths and the trap registers written,
the latches invalidated, CLSTAT.TRAP set, and each cluster at its word of the handler block, V once its earlier words
have delivered (R289). A core that has executed HALT or its EXIT bundle issues no further word, of its handler either (R78,
R277; log 21). -/
def trapEntry (t : TileId) (k : CoreId) (cause hi : Word) (val : DWord) (s : State) : State :=
  let s := withdrawCore t k s
  let s := s.modCore t k fun x =>
    let x := { x with trapRetDepth := x.ret.length }
    let rest := x.halted || x.exited.isSome
    let x := x.mapClu fun cl y =>
      { y.enterTrap (handlerWord x.trapvec cl) with stat := if rest then .stopped else .running }
    { x with
      vc := { x.vc with next := Nat.max x.vc.next x.vc.last }, vlat := [], trap := true, trapcause := cause, trappcHi := hi, trapval := val, msaved := false,
      mrested := false, frozenCtx := true, waitBundle := false, bundleWait := false,
      safeLast := none }
  let s := scheduleCore t k s
  s.dueK s.now t k .engineFreeze

/-- One cluster at ERET: at its trap return register, its loop stack cut back, its latches invalid (R279). -/
def Clu.leaveTrap (y : Clu) : Clu :=
  { y with
    pc := y.trapRet, noSync := y.trapNoSync, trapNoSync := false, held := false, joined := false, stall := 0,
    loops := y.loops.drop (y.loops.length - y.trapLoops), lat := [] }

/-- RETURN FROM A TRAP on core k (R279): each cluster at its trap return register, each stack cut back to its
recorded depth, the latches invalidated, CLSTAT.TRAP cleared. -/
def trapReturn (t : TileId) (k : CoreId) (s : State) : State :=
  let s := withdrawCore t k s
  let s := s.modCore t k fun x =>
    let x := x.mapClu fun _ y => y.leaveTrap
    { x with ret := x.ret.drop (x.ret.length - x.trapRetDepth), vlat := [], trap := false, frozenCtx := false }
  scheduleCore t k s

/-- A core stopped for a SUPERVISOR delivery (R413). -/
def parkCore (t : TileId) (k : CoreId) (s : State) : State :=
  let s := withdrawCore t k s
  let s := s.modCore t k fun x =>
    let x := x.mapClu fun _ y => { y with stat := .stopped, held := false, joined := false, lat := [], stall := 0 }
    { x with vlat := [], waitsSup := true }
  scheduleCore t k s

/-- The queue that such a code names. -/
def queueOf (n : Nat) : QueueId :=
  if n = 0 then .matrix else if n = 9 then .send else if n = 10 then .handler else .chan (fin 8 (n - 1))

/-- What offers the jobs of a queue again. -/
def kickQueue (t : TileId) (k : CoreId) (q : QueueId) (s : State) : State :=
  match q with
  | .matrix | .handler => s.dueK s.now t k .matrixJobOffer
  | .chan c => s.dueH s.now t c.val .channelJobStart
  | .send => s.dueK s.now t k .sendJobStart

/-- A parked queue resumed: its head job is retried from its checks, and goes on where it stood (R416). -/
def unpark (t : TileId) (k : CoreId) (n : Nat) (s : State) : State :=
  let q := queueOf n
  let s := s.modCore t k fun x =>
    x.setQueue q ((x.queue q).map fun j => if j.stat = .parked then { j with stat := .queued, begun := false, hub := none } else j)
  kickQueue t k q s

/-- The parked queues of a core, by their heads. -/
def Core.parkedQueues (x : Core) : List Nat :=
  (List.range 11).filter fun n => (x.queue (queueOf n)).any fun j => j.stat == .parked

/-- The parked queues that a fault at a job concerns (R416): those whose heads stand parked at the word of its record. -/
def Core.faultQueues (x : Core) (r : FaultRec) : List Nat :=
  if r.kind = .job then
    (List.range 11).filter fun n => (x.queue (queueOf n)).any fun j => j.stat == .parked && j.hub.isNone && some j.pc == r.pc
  else []

/-- The tile that a record names, where the task has been bound anew since the tile that is now in its place (R87, R418). -/
def State.recTile (s : State) (r : FaultRec) : Option TileId :=
  r.tile.bind fun p => if r.task = 0 then some p.2 else ((s.task? r.task).bind fun x => s.bound x p.1.toNat).or (some p.2)

/-- Whether a record names a core. -/
def State.recOf (s : State) (t : TileId) (k : CoreId) (r : FaultRec) : Bool :=
  (s.recTile r == some t) && (r.core.map (·.1) == some k)

/-- The queues that a fault delivered to the core's trap concerns (R416). -/
def noteParked (t : TileId) (k : CoreId) (r : FaultRec) (s : State) : State :=
  s.modCore t k fun x => { x with parkedFor := x.faultQueues r }

/-! ## Delivery -/

/-- A fault that a core cannot take at once, or that stands behind the fault for which it waits for the supervisor, held; the seventeenth ends the task (R417), where the one that a gated core takes
at its wake is not counted (R413). -/
def holdFault (t : TileId) (k : CoreId) (r : FaultRec) (rt : Route) (s : State) : State :=
  let wakes := (s.core t k).gated && !(s.core t k).trap && !(s.core t k).stopped
  if (if wakes then 17 else 16) ≤ (s.core t k).heldFaults.length then
    let r' : FaultRec := {
      code := .heldOverflow, kind := .async, task := r.task, tile := some (s.ltileOf t, t),
      core := some (k, .c) }
    endByFault r.task .heldOverflow (writeRec r' .host .taskFatal s)
  else s.modCore t k fun x => { x with heldFaults := x.heldFaults ++ [(r, rt.code.toNat)] }

/-- LOCAL delivery to a core (R413, R414). A core that waits for the supervisor takes it once it goes on (R417). A gated core is
woken by it and takes it at its wake, as R413 says of the supervisor (DEDUCED, log 30). -/
def deliverLocal (t : TileId) (k : CoreId) (r : FaultRec) (s : State) : State :=
  let x := s.core t k
  if x.trap || x.stopped || x.waitsSup then holdFault t k r .loc s
  else if x.gated then wakeCore t k (holdFault t k r .loc s)
  else trapEntry t k (trapCause r (sevOf r)) (trapPcHi r) (trapValLocal r) (noteParked t k r s)

/-- The supervisor, core 0 of tile t0, takes a fault (R413, R414): its ERET resumes the core and queue that the record
names. -/
def supEntry (id : BitVec 16) (t0 : TileId) (r : FaultRec) (s : State) : State :=
  let s := match s.recTile r, r.core with
    | some t, some (k, _) =>
      if t = t0 ∧ k = 0 then noteParked t0 0 r s
      else
        let qs := (s.core t k).faultQueues r
        s.modTask id fun y => { y with supCores := [(t, k, qs)] }
    | _, _ => s
  let s := s.modTask id fun y => { y with supFault := true }
  trapEntry t0 0 (trapCause r (sevOf r)) (trapPcHi r) (trapValSup s.hub.modid r) s

/-- SUPERVISOR delivery (R413, R414, R417, R418): a gated supervisor is woken, and takes the fault when it issues again; one that
is stopped for pre-emption takes it at its resume, and the core that waits for it stops where it stands (log 59). -/
def deliverSup (r : FaultRec) (s : State) : State :=
  match s.task? r.task with
  | none => s
  | some x =>
    match s.supervisor x with
    | none => s
    | some t0 =>
      let other := match s.recTile r, r.core with
        | some t, some (k, _) => if t = t0 ∧ k = 0 then none else some (t, k)
        | _, _ => none
      let mustHold := match other with
        | some (t, k) => (s.core t k).trap || (s.core t k).stopped
        | none => false
      match other, mustHold with
      | some (t, k), true => holdFault t k r .sup s
      | _, _ =>
        let s := match other with
          | some (t, k) => parkCore t k s
          | none => s
        let c := s.core t0 0
        if c.stopped then
          let s := holdFault t0 0 r .sup s
          match other with
          | some (t, k) => s.dueK s.now t k .coreStop
          | none => s
        else
        let s := s.modTask x.id fun y => { y with supFault := true }
        if c.trap then holdFault t0 0 r .sup s
        else if c.gated then wakeCore t0 0 (holdFault t0 0 r .sup s)
        else supEntry x.id t0 r s

/-- Whether the management processor, or the unit itself, applies a recovery to a code on the HUB or HOST route
(R432, R447, R459 to R464, R472, R475). -/
def hubRecovers (r : FaultRec) : Bool :=
  match r.code with
  | .circuitNotLive => r.kind == .job
  | .carderChecksum | .carderFormat => true
  | .ringDetune | .ackLost | .extPortLoss | .stringImbalance => true
  | _ => false

/-- A parked job whose circuit the hub waits for (R472): its queue is looked at again in the next fabric step. -/
def hubWaits (t : TileId) (k : CoreId) (r : FaultRec) (n : Nat) (s : State) : State :=
  let q := queueOf n
  let h := (r.fab.map (·.handle.toNat)).getD 0
  let s := s.modCore t k fun x =>
    x.setQueue q ((x.queue q).map fun j =>
      if j.stat = .parked ∧ j.hub.isNone ∧ some j.pc = r.pc then { j with hub := some h } else j)
  s.dueU (stepAfter s.now) t k n .hubRecovery

/-- A copy parked at a block of the carder (R475): the management processor retries it once at that block; a block that
fails again ends the task (R499). -/
def hubRetries (t : TileId) (k : CoreId) (r : FaultRec) (n : Nat) (s : State) : State :=
  let q := queueOf n
  let hit (j : Job) : Bool := j.stat == .parked && j.hub.isNone && some j.pc == r.pc
  match ((s.core t k).queue q).find? hit with
  | none => s
  | some j =>
    if j.retried = some j.blk then endByFault r.task r.code s
    else
      let s := s.modCore t k fun x =>
        x.setQueue q ((x.queue q).map fun j => if hit j then { j with hub := some 64, retried := some j.blk } else j)
      s.enable t k n .hubRecovery

/-- HUB delivery: the recovery of the code, or, where it has none or this is its failure, the end of the task (R413, R447). -/
def deliverHub (r : FaultRec) (s : State) : State :=
  if r.code = .ackLost ∧ r.extra.getLsbD 16 = true then endByFault r.task r.code s
  else if r.code = .carderChecksum ∨ r.code = .carderFormat then
    match r.tile, r.core with
    | some (_, t), some (k, _) => (s.core t k).parkedQueues.foldl (fun s n => hubRetries t k r n s) s
    | _, _ => s
  else if hubRecovers r then
    match r.tile, r.core, r.kind with
    | some (_, t), some (k, _), .job => (s.core t k).parkedQueues.foldl (fun s n => hubWaits t k r n s) s
    | _, _, _ => s
  else endByFault r.task r.code s

/-- TAKING A FAULT: its record is written and routed, and its outcome happens (R410, R412, R413, R415). -/
def deliver (r : FaultRec) (s : State) : State :=
  let (rt, sev) := adjust s r
  let s := writeRec r rt sev s
  match sev with
  | .corrected => s
  | .taskFatal => endByFault r.task r.code s
  | .moduleFatal => (endAll r.code s).modHub fun h => { h with dead := true }
  | .contained =>
    match rt with
    | .loc =>
      match r.tile, r.core with
      | some (_, t), some (k, _) => deliverLocal t k r s
      | _, _ => s
    | .sup => deliverSup r s
    | .hub | .host => deliverHub r s

/-- A held fault of the SUPERVISOR route taken by core k of tile t: its own, or as the supervisor that of another core; the hub
takes it where the supervisor has gone meanwhile (R412, R413, R417). -/
def takeSup (t : TileId) (k : CoreId) (r : FaultRec) (s : State) : State :=
  if (s.task? r.task).any fun x => s.supGone x then deliverHub r s
  else if s.recOf t k r then deliverSup r s
  else supEntry (s.tile t).taskid t r s

/-- The oldest held fault taken by a core that can take it (R417). -/
def takeHeld (t : TileId) (k : CoreId) (s : State) : State :=
  let x := s.core t k
  if x.trap || x.stopped || x.waitsSup then s
  else
    match x.heldFaults with
    | [] => s
    | (r, n) :: l =>
      let s := s.modCore t k fun x => { x with heldFaults := l }
      if n = 0 then deliverLocal t k r s else takeSup t k r s

/-- The faults that a supervisor holds when it has executed its EXIT bundle or HALT: the hub takes them (R412, R413). -/
def releaseSup (t : TileId) (k : CoreId) (s : State) : State :=
  let x := s.core t k
  if (x.exited.isSome || x.halted) && (x.heldFaults.any fun e => e.2 != 0) &&
      ((s.tileTask t).any fun y => s.supervisor y == some t && k == 0) then
    (x.heldFaults.filter fun e => e.2 != 0).foldl (fun s e => deliverHub e.1 s)
      (s.modCore t k fun y => { y with heldFaults := y.heldFaults.filter fun e => e.2 == 0 })
  else s

/-- The queues qs of a core resumed by the supervisor's ERET, and its stopped clusters unless the supervisor, core 0 of
tile t0, still holds a fault of it (R413); a fault that it holds itself is taken before any word issues (R417). -/
def resumeCore (t0 t : TileId) (k : CoreId) (qs : List Nat) (s : State) : State :=
  let s := qs.foldl (fun s n => unpark t k n s) s
  if (s.core t0 0).heldFaults.any fun e => s.recOf t k e.1 then s
  else
    takeHeld t k (scheduleCore t k (s.modCore t k fun x =>
      let x := { x with waitsSup := false }
      if x.exited.isSome || x.halted || x.stopped then x else x.mapClu fun _ y => { y with stat := .running }))

/-- ERET after its bundle (R279, R413, R416, R417): the return, the queues and cores whose faults this trap
served resumed, the frozen matrix jobs offered again (R352), and the oldest held fault taken. -/
def eretDone (t : TileId) (k : CoreId) (s : State) : State :=
  let ps := (s.core t k).parkedFor
  let s := s.modCore t k fun x => { x with parkedFor := [] }
  let s := trapReturn t k s
  let s := s.modCore t k fun x =>
    { x with mxq := x.mxq.map fun j => if j.stat = .frozen then { j with stat := .queued } else j }
  let s := ps.foldl (fun s n => unpark t k n s) s
  let s := kickQueue t k .matrix s
  let s := match s.tileTask t with
    | some x =>
      if s.supervisor x = some t ∧ k = 0 then
        let cs := x.supCores
        let more := (s.core t k).heldFaults.any fun e => e.2 != 0
        let s := s.modTask x.id fun y => { y with supCores := [], supFault := more }
        cs.foldl (fun s p => resumeCore t p.1 p.2.1 p.2.2 s) s
      else s
    | none => s
  takeHeld t k s

end Sys2Proof.Machine
end

