-- ==== Sys2Proof/Machine/Pending.lean ====
section
/-!
DEFINITION. What the accesses of a core wait for: those that precede them in core order, performed at a scope, and the
posted remote stores acknowledged as delivered (spec/07 R171, R172, R184, R273); and the pending stores of its M cluster,
which ALLOW may hold (spec/03 R75, spec/04 R107).
-/
namespace Sys2Proof.Machine

/-! ## Accesses performed at a scope -/

/-- Whether a message is an access of the M cluster of core k with a place below n in its stream. -/
def Sent.ofM (x : Sent) (k : CoreId) (n : Nat) : Bool :=
  x.core == k && decide (x.clus = 2) && x.job.isNone && x.entry.isNone && x.ty != .reply && decide (x.ord < n)

/-- Whether every access of core k through one circuit with a place below n is performed at a scope: sent, a load or an
atomic answered, and, at module or system scope, a posted store delivered (R172, R184, R273). `own` excepts the circuit of
a release store that goes the same way (R184). -/
def circDone (k : CoreId) (n sc : Nat) (own : Bool) (c : Circ) : Bool :=
  (own || c.waiting.all fun x => !x.ofM k n) &&
    c.sent.all fun x => !x.ofM k n || (if x.posted then decide (sc < 2) || own || x.delivered c else x.replied)

/-- Whether the posted stores through one circuit of the tile's other cores that happen before a release of core k at module or
system scope are performed there (R180): those sent before the core's latest acquire, in rc n (log 61). `own` excepts the
circuit of a release store that goes the same way (R184). -/
def circLearnt (k : CoreId) (n : Nat) (own : Bool) (c : Circ) : Bool :=
  own || c.sent.all fun x => x.core == k || !x.posted || x.job.isSome || decide (n < x.sentAt) || x.delivered c

/-- Whether what a core has learnt of at its acquires is performed at scope sc (R180). -/
def State.learntDone (s : State) (t : TileId) (k : CoreId) (sc : Nat) (own : Option Nat) : Bool :=
  decide (sc < 2) || (s.tile t).circs.rows.all fun hc => circLearnt k (s.core t k).learnt (own == some hc.1) hc.2

/-- THE WAIT OF A RELEASE OR A FENCE of core k (R172, R174, R180, R184, R273): every M access of the core with a place below n
is performed at scope sc, and so is what it has learnt of. -/
def State.earlierDone (s : State) (t : TileId) (k : CoreId) (n sc : Nat) (own : Option Nat) : Bool :=
  ((s.core t k).pend.all fun p => decide (n ≤ p.ord)) &&
    ((s.tile t).circs.rows.all fun hc => circDone k n sc (own == some hc.1) hc.2) && s.learntDone t k sc own

/-- Whether the M cluster of core k has a word with a place below n still waiting for memory. -/
def Core.mWaits (x : Core) (n : Nat) : Bool :=
  match x.m.req with
  | some (.reply _ _) => decide (x.m.since.m < n)
  | some (.atomic _ _ _ _ _) => decide (x.m.since.m < n)
  | _ => false

/-- The wait of SEMSIG and BARRIVE (R273, R191) of the core that issues now, for what `a` says precedes it. -/
def State.releaseDone (s : State) (a : Know) (sc : Nat) : Bool :=
  s.earlierDone s.cur.tile s.cur.core a.m sc none && !s.cc.mWaits a.m

/-! ## Pending stores -/

/-- Writes of a window that count against ALLOW: those out, and those on their way to the sending unit (R107). -/
def State.winOut (s : State) (t : TileId) (w : Nat) : Nat :=
  let x := (s.tile t).wins.get w {}
  x.out + ((s.circ t x.handle.toNat).waiting.filter fun m => m.win == some w && !m.sampled).length

/-- Whether a window takes another write (R107). -/
def State.winRoom (s : State) (t : TileId) (w : Nat) : Bool :=
  decide (s.winOut t w < ((s.tile t).wins.get w {}).allow.toNat)

/-- Whether two pending stores are to one row of one place (R76, R102). -/
def PendStore.sameRow (p q : PendStore) : Bool :=
  decide (p.mpa / 256 = q.mpa / 256) && p.win.isSome == q.win.isSome && p.group.isSome == q.group.isSome &&
    (decide (p.handle = q.handle) || p.win.isNone)

/-- Whether a pending store leaves over a circuit. -/
def PendStore.remote (p : PendStore) : Bool := p.win.isSome || p.group.isSome

/-- Whether a core has an atomic at the tile's memory port (R325). -/
def Tile.amoAtPort (x : Tile) (k : CoreId) : Bool := x.portq.any fun r => r.core == k

/-- Whether a pending store has its data, its turn among the earlier ones of its core, the values of its earlier atomics, and
what a release waits for (R75, R155, R172, R184); room in its window is another matter. -/
def pendReady (s : State) (t : TileId) (k : CoreId) (before : List PendStore) (p : PendStore) : Bool :=
  p.data.isSome && decide (p.ready ≤ s.now) && (before.all fun q => q.amo.isNone) && !(s.tile t).amoAtPort k &&
    (before.all fun q => !(q.sameRow p) && !(q.remote && p.remote && decide (q.handle = p.handle))) &&
    (!p.rel || (before.isEmpty &&
      ((s.tile t).circs.rows.all fun hc =>
        circDone k p.ord p.sc.toNat (p.win.isSome && decide (hc.1 = p.handle)) hc.2) &&
      s.learntDone t k p.sc.toNat (p.win.map fun _ => p.handle)))

/-- Whether a pending store finds room in its window (R107). -/
def pendRoom (s : State) (t : TileId) (p : PendStore) : Bool :=
  match p.win with
  | some w => s.winRoom t w
  | none => true

/-- Whether a store of the core that is otherwise ready waits for ALLOW, which holds the M cluster (R107). -/
def heldByAllow (s : State) (t : TileId) (k : CoreId) : Bool :=
  let rec go : List PendStore → List PendStore → Bool
    | [], _ => false
    | p :: r, kept => (pendReady s t k kept p && !pendRoom s t p) || go r (kept ++ [p])
  go (s.core t k).pend []

/-- Whether the M cluster of the core that issues now is held by a store that waits for ALLOW (R107). -/
def State.mHeld (s : State) : Bool := heldByAllow s s.cur.tile s.cur.core

end Sys2Proof.Machine
end

