-- ==== Sys2Proof/Machine/Issue.lean ====
section
/-!
DEFINITION. How a cluster word issues: rendezvous and bundles (R73, R74), guards (R235), the order of the checks
(R477, R478), stalls and waits, the program counter and loop-back (R245, R267), and precise faults (R415).
-/
namespace Sys2Proof.Machine

/-- What a word's own effect comes to, once its guard has held: it completes and goes on in sequence; it
completes and goes on at a target after so many more engine cycles; it stalls before it issues, with the code of
R427 or 0; it has issued and waits; it faults. -/
inductive Eff where
  | done (s : State)
  | jump (s : State) (target : Pc) (delay : Nat)
  | stall (code : Nat)
  | wait (s : State)
  | fault (r : FaultRec)
  deriving DecidableEq, Repr

/-- The precise record of a fault of the word that issues now (R409, R415). It is the handler's own work unless the word
issued before the trap and waited (R412, R417). -/
def State.recNow (s : State) (code : FaultCode) (extra : DWord := 0) : FaultRec :=
  {
    code := code, kind := .precise, task := s.ct.taskid, tile := some (s.ct.ltile, s.cur.tile),
    core := some (s.cur.core, s.cur.cl), pc := some s.ccl.pc, extra := extra,
    handlerWork := s.cc.trap && s.ccl.redir.isNone }

/-- The word faults with a code. -/
def State.flt (s : State) (code : FaultCode) (extra : DWord := 0) : Eff := .fault (s.recNow code extra)

/-- The word faults with RESERVED_OPERAND (R237, R477). -/
def State.reserved (s : State) : Eff := s.flt .reservedOperand

/-- The word index after the present one in sequence, and the loop stack that goes with it (R245, R267). -/
def Clu.seqNext (y : Clu) : Pc × List LoopEnt :=
  let p := y.pc + 1
  match y.loops with
  | [] => (p, [])
  | e :: r =>
    if e.stop = p then
      if 1 < e.count.toNat then (e.start, { e with count := e.count - 1 } :: r) else (e.stop, r)
    else (p, e :: r)

/-- A cluster whose word has completed, at the next word: in the handler where a trap waited for it (R278). -/
def Clu.moveTo (y : Clu) (p : Pc) : Clu :=
  let y := { y with held := false, noSync := false, req := none, ans := none, stall := 0 }
  match y.redir with
  | some e => { y with redir := none, trapRet := p, trapNoSync := false, trapLoops := y.loops.length, pc := e, lat := [] }
  | none => { y with pc := p }

/-- The interval between safe points that the image of a tile's task declares (R86). -/
def State.interval (s : State) (t : TileId) : Nat := ((s.tileTask t).map (·.img.interval)).getD 0

/-- The issue of a word of the cluster that acts, counted (R54). A C word counts for the watchdog, from the last bundle with
SAFEPT on, and restarts its timer while the core is within its interval (R429). -/
def countIssue (s : State) : State :=
  let interval := s.interval s.cur.tile
  let s := s.count s.cur.tile (2 + s.cur.cl.code) (some s.cur.core) 1
  if s.cur.cl = .c then
    s.modCc fun x =>
      let n := if s.cur.bundle && x.safeLast.isSome then 0 else x.issued + 1
      { x with issued := n, lastC := x.c.pc, watch := if n ≤ interval then s.now else x.watch }
  else s

/-- The word has completed: its cluster moves on, and the engine cycles without an issue count afresh (R427). A word that has
waited was counted when it issued (R54). -/
def completeAt (p : Pc) (s : State) : State :=
  (if s.ccl.req.isNone then countIssue s else s).modCc fun x =>
    let x := x.modClu s.cur.cl fun y => y.moveTo p
    { x with quietAt := Nat.max x.quietAt (nextEc s.now x.cdiv), idleAt := s.now }

/-- Whether every cluster of a core is stalled on a condition that only the core itself can end (R427). -/
def Core.stuck (x : Core) : Bool :=
  [Cluster.c, .v, .m, .e].all fun cl =>
    let y := x.clu cl
    y.stat == .running && y.req.isNone && decide (1 ≤ y.stall) && decide (y.stall ≤ 6)

/-- The end of 65,536 engine cycles without an issue made due (R427). -/
def armDeadlock (t : TileId) (k : CoreId) (s : State) : State :=
  let x := s.core t k
  if x.stuck then s.dueK (x.quietAt + 65536 * x.cdiv) t k .clusterDeadlock else s

/-- A stall noted on a core, where `was` says whether every cluster was stalled internally before: the engine cycles count from
the one in which all of them first are (R427). -/
def noteStall (was : Bool) (t : TileId) (k : CoreId) (s : State) : State :=
  armDeadlock t k (if !was && (s.core t k).stuck then s.modCore t k fun x => { x with quietAt := Nat.max x.quietAt s.now } else s)

/-- The word has completed and its cluster goes on in sequence. -/
def completeSeq (s : State) : State :=
  let (p, l) := s.ccl.seqNext
  completeAt p (s.modCcl fun y => { y with loops := l })

/-- The issue of the cluster's next word, unless the cluster is stopped. -/
def scheduleNext (delay : Nat) (s : State) : State :=
  if s.ccl.stat = .running ∨ s.ccl.req.isSome then scheduleIssue s.cur.tile s.cur.core s.cur.cl (1 + delay) s else s

/-- The word that issues now in joined or in split execution: a change invalidates the cluster's latches (R74). -/
def enterMode (s : State) : State :=
  if s.ccl.joined = s.cur.bundle then s
  else s.modCc fun x => (x.dropLatches s.cur.cl).modClu s.cur.cl fun y => { y with joined := s.cur.bundle }

/-- A rendezvous word held until the other three clusters hold theirs; the last one starts the bundle (R73). -/
def holdWord (s : State) : State :=
  let was := s.cc.stuck
  let s := s.modCcl fun y => { y with held := true, stall := 1 }
  let s := stir s.cur.tile s.cur.core (noteStall was s.cur.tile s.cur.core s)
  let x := s.cc
  if x.c.held && x.vc.held && x.m.held && x.ec.held then s.due s.now (.bundle s.cur.tile s.cur.core) else s

/-- An EXIT bundle that names successor n (R78): the EXITs of one rc are taken at its end, by logical tile and then core
(R430). -/
def exitNamed (t : TileId) (k : CoreId) (n : BitVec 16) (pc : Pc) (s : State) : State :=
  match s.tileTask t with
  | none => s
  | some x =>
    (s.modTask x.id fun y => { y with exits := putKeyed (16 * (s.ltileOf t).toNat + k.val) (t, k, n, pc) y.exits }).dueT
      s.now t .tilePartEnd

/-- An EXIT taken: the task's first is remembered, and a later one that differs ends the task with EXIT_MISMATCH (R78,
R430). -/
def takeExit (id : BitVec 16) (s : State) (e : Nat × TileId × CoreId × BitVec 16 × Pc) : State :=
  let (_, t, k, n, pc) := e
  match (s.task? id).map (·.firstExit) with
  | none => s
  | some none => s.modTask id fun y => { y with firstExit := some n }
  | some (some m) =>
    if m = n then s
    else
      deliver {
        code := .exitMismatch, kind := .async, task := id, tile := some (s.ltileOf t, t), core := some (k, .c),
        pc := some pc, extra := (0 : BitVec 32) ++ m ++ n } s

/-- Whether a word of a core has issued and still waits. -/
def Core.anyWaits (x : Core) : Bool := x.c.req.isSome || x.vc.req.isSome || x.m.req.isSome || x.ec.req.isSome

/-- TRAP number n of the bundle that core k has issued, with the word index of the TRAP (R278). -/
def takeTrap (t : TileId) (k : CoreId) (num : Byte) (pc : Pc) (s : State) : State :=
  let s := s.modCore t k fun x => { x with post := none }
  deliver {
    code := .softwareTrap, kind := .precise, num := num, task := (s.tile t).taskid, tile := some (s.ltileOf t, t),
    core := some (k, .c), pc := some pc, handlerWork := (s.core t k).trap } s

/-- What the words of the last issue leave for after it: TRAP's entry (R278) or ERET's return (R279), once every word of its
bundle has completed, or EXIT's successor (R430). -/
def finishPost (t : TileId) (k : CoreId) (s : State) : State :=
  match (s.core t k).post with
  | none => s
  | some p =>
    let u := s
    let s := s.modCore t k fun x => { x with post := none }
    match p with
    | .eret => if (u.core t k).anyWaits then u else eretDone t k s
    | .exit n pc => exitNamed t k n pc (stir t k s)
    | .trap num pc => if (u.core t k).anyWaits then u else takeTrap t k num pc u

/-- A cluster whose word issued before a trap and faults while the handler runs: the handler's word comes next, and the faulting
word after the handler (R278, R415). -/
def Clu.redirect (y : Clu) (e : Pc) : Clu :=
  { y with
    req := none, ans := none, redir := none, trapRet := y.pc, trapNoSync := y.noSync, noSync := false, held := false,
    stall := 0, trapLoops := y.loops.length, pc := e, lat := [] }

/-- What a word that waits leaves: its issue is counted in the rc in which it issues (R54). -/
def issuedNow (s t : State) : State := if s.ccl.req.isNone then countIssue t else t

/-- The outcome of a word outside a bundle: it moves on, asks again in the next engine cycle, waits, or its fault
is taken (R415), after a TRAP of its bundle. -/
def settleSplit (s : State) : Eff → State
  | .done t => finishPost s.cur.tile s.cur.core (armGate s.cur.tile s.cur.core (scheduleNext 0 (completeSeq t)))
  | .jump t p d => scheduleNext d (completeAt p t)
  | .stall code =>
    let u := s.modCcl fun y => { y with stall := code }
    let u := if code = 7 then u.count s.cur.tile 0x09 (some s.cur.core) 1 else u
    scheduleNext 0 (noteStall s.cc.stuck s.cur.tile s.cur.core u)
  | .wait t => scheduleNext 0 ((issuedNow s t).modCcl fun y => { y with noSync := true, stall := 0 })
  | .fault r =>
    match s.ccl.redir with
    | none =>
      let s := s.modCcl fun y => { y with req := none, ans := none }
      deliver r (match s.cc.post with
        | some (.trap num pc) => takeTrap s.cur.tile s.cur.core num pc s
        | _ => s)
    | some e => scheduleNext 0 (deliver r (s.modCcl fun y => y.redirect e))

/-- The outcome of a word inside a bundle, noted for the bundle. -/
def settleBundle (s : State) : Eff → State
  | .done t => let u := completeSeq t; { u with cur := { u.cur with res := .done } }
  | .jump t p d =>
    let u := completeAt p t
    let u := u.modCcl fun y => { y with next := ecAfter u.now u.cc.cdiv (1 + d) }
    { u with cur := { u.cur with res := .done } }
  | .stall code =>
    let u := s.modCcl fun y => { y with stall := code }
    { u with cur := { u.cur with res := .stall } }
  | .wait t =>
    let u := (issuedNow s t).modCcl fun y => { y with held := false, noSync := true, stall := 0 }
    { u with cur := { u.cur with res := .wait } }
  | .fault r => { s with cur := { s.cur with res := .fault r } }

/-- The outcome of a word. -/
def settle (s : State) (e : Eff) : State := if s.cur.bundle then settleBundle s e else settleSplit s e

/-- A WORD OF CLUSTER cl (R73, R235, R477): it holds for its rendezvous, or issues; with a false guard it has no
effect; a word that has issued and waits goes on where it was. While a store waits for ALLOW the M cluster issues no word that
takes effect (R107). -/
def cword (cl : Cluster) (h : Hdr) (body : State → Eff) (s : State) : State :=
  let s : State := { s with cur := { s.cur with cl := cl } }
  if s.ccl.req.isSome then settle s (body s)
  else if h.sync && !s.ccl.noSync && !s.cur.bundle then holdWord s
  else
    let s := enterMode s
    if s.ccl.guard h.gd.toNat != h.gn then settle s (if cl = .m ∧ s.mHeld = true then .stall 0 else body s)
    else settle s (.done s)

/-- A word that is no instruction: it takes part in its rendezvous and faults whatever its guard (R244, R478). -/
def illegalWord (cl : Cluster) (h : Hdr) (s : State) : State :=
  let s : State := { s with cur := { s.cur with cl := cl } }
  if h.sync && !s.ccl.noSync && !s.cur.bundle then holdWord s
  else
    let s := enterMode s
    settle s (s.flt .illegalOpcode)

/-- A cluster word as an instruction's meaning. -/
def word (cl : Cluster) (h : Hdr) (body : State → Eff) (s : State) : Host.Outcome State Fault Refusal :=
  .next (cword cl h body s)

/-- What every byte of the instruction store that nothing loaded holds (R245). -/
def unloaded : DWord := 0x7E00000000000000

/-- The word that a cluster fetches (R245). -/
def State.fetch (s : State) (t : TileId) (k : CoreId) (cl : Cluster) : DWord :=
  (s.tile t).store.get ((s.core t k).clu cl).pc.toNat unloaded

/-- The state with a cluster as the one that acts now. -/
def State.at' (s : State) (t : TileId) (k : CoreId) (cl : Cluster) (b : Bool) : State :=
  { s with cur := { tile := t, core := k, ix := cl.code, cl := cl, bundle := b, slot := 0, res := .done } }

/-- The fault of a word of the instruction store found uncorrectable, which is in no on-die region (R91, R441, R444): as no bit
of it can be read, it takes part in no rendezvous (DESIGN CHOICE, log 57). -/
def badWord (s : State) : State := settle s (.fault (s.recNow .dataUncorrectable 7))

/-- One word of a cluster through `ex`, or the fault of a word that is no instruction or cannot be read. -/
def runWord (ex : Instr → State → Host.Outcome State Fault Refusal) (t : TileId) (k : CoreId) (cl : Cluster)
    (b : Bool) (s : State) : Host.Outcome State Fault Refusal :=
  let x := s.fetch t k cl
  if (s.tile t).badWords.contains ((s.core t k).clu cl).pc && ((s.core t k).clu cl).req.isNone then
    .next (badWord (s.at' t k cl b))
  else
  match decode (.cluster cl) x with
  | .ok i => ex i (s.at' t k cl b)
  | .error _ => .next (illegalWord cl (hdrOf x) (s.at' t k cl b))

/-- The issue of a cluster's next word (R72): nothing for a cluster that is stopped and completes no word; a word of
a bundle that waits holds the other clusters (R73, R171, R327). A gated core issues nothing; what would let one of its clusters proceed is a
wake source (R231). -/
def issueWord (ex : Instr → State → Host.Outcome State Fault Refusal) (t : TileId) (k : CoreId) (cl : Cluster)
    (s : State) : Host.Outcome State Fault Refusal :=
  let x := s.core t k
  let y := x.clu cl
  if (y.stat = .stopped ∧ y.req.isNone) ∨ y.held then .next s
  else if x.bundleWait ∧ y.req.isNone ∧ x.anyWaits = true then
    .next (scheduleIssue t k cl 1 s)
  else if x.gated then
    match runWord ex t k cl false s with
    | .next u =>
      let s := scheduleIssue t k cl 1 s
      .next (if ((u.core t k).clu cl).req.isNone then wakeCore t k s else s)
    | o => o
  else
    runWord ex t k cl false
      (if x.bundleWait ∧ y.req.isNone then s.modCore t k fun x => { x with bundleWait := false } else s)

/-- The words of a bundle in turn, each on the state the one before left, M last, whose window accesses no other word of the
bundle sees (R235); stops at a word that did not issue. -/
def foldBundle (ex : Instr → State → Host.Outcome State Fault Refusal) (t : TileId) (k : CoreId) :
    List Cluster → State → Host.Outcome State Fault Refusal
  | [], s => .next { s with cur := { s.cur with res := .done } }
  | cl :: r, s =>
    match runWord ex t k cl true s with
    | .next u =>
      match u.cur.res with
      | .done | .wait => foldBundle ex t k r u
      | _ => .next u
    | o => o

/-- What each word of a bundle comes to on the bundle's own state: the first fault in cluster order, else whether
any stalls (R73, R415). -/
def probeBundle (ex : Instr → State → Host.Outcome State Fault Refusal) (t : TileId) (k : CoreId) (s : State) :
    List Cluster → Res → Res
  | [], a => a
  | cl :: r, a =>
    match runWord ex t k cl true s with
    | .next u =>
      match u.cur.res with
      | .fault f => .fault f
      | .stall => probeBundle ex t k s r .stall
      | _ => probeBundle ex t k s r a
    | _ => probeBundle ex t k s r a

/-- A bundle that stalls: why each of its words does, held words for their rendezvous (R427), and an M word behind a
watermark counted (R54, R118). -/
def stallBundle (ex : Instr → State → Host.Outcome State Fault Refusal) (t : TileId) (k : CoreId) (s : State) : State :=
  let was := (s.core t k).stuck
  let s := [Cluster.c, .v, .m, .e].foldl (fun u cl =>
    let code := match runWord ex t k cl true s with
      | .next w => if w.cur.res = .stall then ((w.core t k).clu cl).stall else 1
      | _ => 1
    let u := u.modCore t k fun x => x.modClu cl fun y => { y with stall := code }
    if code = 7 then u.count t 0x09 (some k) 1 else u) s
  noteStall was t k s

/-- A bundle asked for again in the next engine cycle. -/
def retryBundle (t : TileId) (k : CoreId) (s : State) : State :=
  s.due (nextEc s.now (s.core t k).cdiv) (.bundle t k)

/-- After a bundle: issue of every cluster's next word, once no word of the bundle waits (R73, R171), its program counters
kept (R84), and the stop of a core that a pre-emption waits for is judged (R82). -/
def afterBundle (t : TileId) (k : CoreId) (pcs : List (Pc × List LoopEnt)) (s : State) : State :=
  let s := s.modCore t k fun x =>
    { x.meet (s.tile t).jobCtr with bundlePcs := pcs, bundleWait := x.anyWaits }
  let s := releaseSup t k (finishPost t k (armGate t k (scheduleCore t k s)))
  if ((s.tileTask t).bind (·.preemptAt)).isSome then s.dueU s.now t k 1 .coreStop else s

/-- THE ISSUE OF A BUNDLE (R73, R415, R478): a fault of any word faults the whole bundle, with the record of the
lowest cluster; a stall of any one stalls all four; else the four words issue together. -/
def runBundle (ex : Instr → State → Host.Outcome State Fault Refusal) (t : TileId) (k : CoreId) (s : State) :
    Host.Outcome State Fault Refusal :=
  let x := s.core t k
  if !(x.c.held && x.vc.held && x.m.held && x.ec.held) then .next s
  else
    let all : List Cluster := [.c, .v, .m, .e]
    let s0 := s
    let s := s.modCore t k fun x =>
      let joined := x.c.joined && x.vc.joined && x.m.joined && x.ec.joined
      { x.meet (s.tile t).jobCtr with
        waitBundle := joined && x.safeLast.isSome, safeLast := none
        bundleOn := all.map fun cl => (x.clu cl).guard (hdrOf (s0.fetch t k cl)).gd.toNat != (hdrOf (s0.fetch t k cl)).gn
        bundleXqs := [x.c.xq, x.vc.xq, x.m.xq, x.ec.xq] }
    match probeBundle ex t k s all .done with
    | .fault r =>
      .next (deliver r (s0.modCore t k fun x => x.mapClu fun _ y => { y with held := false }))
    | .stall => .next (retryBundle t k (stallBundle ex t k s0))
    | _ =>
      match foldBundle ex t k [.c, .v, .e, .m] s with
      | .next u =>
        match u.cur.res with
        | .done => .next (afterBundle t k ([x.c, x.vc, x.m, x.ec].map fun y => (y.pc, y.loops)) u)
        | _ => .next (retryBundle t k s0)
      | o => o

/-- The answer a waiting word has, once it is there: its fault, or what comes of it. -/
def withAns (s : State) (k : Ans → State → Eff) : Eff :=
  match s.ccl.ans with
  | none => .wait s
  | some a =>
    if a.due ≤ s.now then
      match a.fault with
      | some r => .fault r
      | none => k a s
    else .wait s

/-- The word has issued and now waits for r, with what stands for its answer. -/
def waitUntil (r : Req) (a : Option Ans) (s : State) : Eff :=
  .wait (stir s.cur.tile s.cur.core (s.modCcl fun y => { y with req := some r, ans := a, since := s.cc.knows s.ct.jobCtr s.cur.cl }))

/-- The word has issued and now waits for r. -/
def waitFor (r : Req) (s : State) : Eff := waitUntil r none s

end Sys2Proof.Machine
end

