-- ==== Sys2Proof/Machine/Agenda.lean ====
section
/-!
DEFINITION. What happens next: the due step at the head of the agenda, else a step of unarchitected time or the
passage of one rc (log 3, log 4); and how a probe word is placed for the next step to run it.
-/
namespace Sys2Proof.Machine

/-- The instruction runner of `exec`, as the steps below take it. -/
abbrev Runner := Instr → State → Host.Outcome State Fault Refusal

/-- A due row of the opcode table run on its unit. -/
def runEvent (ex : Runner) (t : TileId) (k : CoreId) (ix : Nat) (i : Instr) (s : State) :
    Host.Outcome State Fault Refusal :=
  ex i { s with cur := { tile := t, core := k, ix := ix } }

/-- With nothing due: a step of the pool that the open choice of times picks, or one rc goes by (log 4). -/
def idle (ex : Runner) (s : State) : Host.Outcome State Fault Refusal :=
  match s.pool with
  | [] => .next s.tick
  | p =>
    let n := Config.oracle s.freeCtr % (p.length + 1)
    let s := { s with freeCtr := s.freeCtr + 1 }
    match p[n]? with
    | some (t, k, ix, i) => runEvent ex t k ix i { s with pool := p.eraseIdx n }
    | none => .next s.tick

/-- The words of a rig program in one fabric step, through `ex` (R378): at most 16, until one ends the step. -/
def rigWords (ex : Runner) (slot : SlotId) : Nat → State → Host.Outcome State Fault Refusal
  | 0, s => .next s
  | n + 1, s =>
    match s.slotTask slot with
    | none => .next s
    | some x =>
      if x.rig.ended || x.rig.stopReq || x.rig.stopped || decide (s.now / 32 < x.rig.holdTo) then .next s
      else
        let s := { s with cur := { slot := slot, ix := slot.val } }
        let fetched : Option DWord := if x.rig.pc < 0 then none else x.rig.words[x.rig.pc.toNat]?
        match fetched.map (decode .rig) with
        | some (.ok i) =>
          match ex i s with
          | .next u =>
            match u.cur.res with
            | .done => rigWords ex slot n u
            | _ => .next u
          | o => o
        | _ =>
          let sop : BitVec 6 := match fetched with
            | some w => w.extractLsb' 58 6
            | none => 0
          let r : FaultRec :=
            {
              code := .rigIllegal, kind := .async, task := x.id, tile := (s.bound x 0).map fun t => (0, t),
              pc := some (BitVec.ofInt 19 x.rig.pc), fab := some {}, extra := sop.setWidth 64 }
          let s := s.modTask x.id fun y => { y with rig := { y.rig with ended := true } }
          .next (deliver r s)

/-- A fabric step of the rig program of a slot: its words, then its next step (R378, R382). -/
def runRig (ex : Runner) (slot : SlotId) (s : State) : Host.Outcome State Fault Refusal :=
  match rigWords ex slot 16 s with
  | .next u =>
    match u.slotTask slot with
    | some x => if x.rig.ended || x.rig.stopped then .next u else .next (u.due (stepAfter u.now) (.rig slot))
    | none => .next u
  | o => o

/-- A due step. -/
def runAct (ex : Runner) (a : Act) (s : State) : Host.Outcome State Fault Refusal :=
  match a with
  | .instr t k ix i => runEvent ex t k ix i s
  | .issue t k cl => issueWord ex t k cl s
  | .bundle t k => runBundle ex t k { s with cur := {} }
  | .rig slot => runRig ex slot s

/-- One step of the machine through `ex`. -/
def stepWith (ex : Runner) (s : State) : Host.Outcome State Fault Refusal :=
  match s.agenda with
  | (t, a) :: r => if t ≤ s.now then runAct ex a { s with agenda := r } else idle ex s
  | [] => idle ex s

/-- A core of a tile made to issue, from cluster cl, exactly the word x next: tile 0 and core 0, the word at the
cluster's program counter, every other cluster at rest, and its issue due first (log 9). -/
def placeWord (s : State) (cl : Cluster) (x : DWord) : State :=
  let s := s.modTile 0 fun y => { y with store := y.store.set ((y.core 0).clu cl).pc.toNat x }
  let s := s.modCore 0 0 fun y => y.modClu cl fun z =>
    { z with stat := .running, held := false, req := none, ans := none, redir := none, noSync := true }
  { s with agenda := (s.now, .issue 0 0 cl) :: s.agenda }

/-- A rig program of the one word x, running in slot 0 as the next step (log 9). -/
def placeRig (s : State) (x : DWord) : State :=
  let t : Task := { id := 1, prio := 0, stat := .running, slot := some 0, strings := [0], rig := { words := [x] } }
  let s := s.modHub fun h => { h with tasks := t :: h.tasks.filter fun y => y.slot != some 0 }
  { s with agenda := (s.now, .rig 0) :: s.agenda }

end Sys2Proof.Machine
end

