-- ==== Sys2Proof/Machine/Flags.lean ====
section
/-!
DEFINITION. Conditions and floating point: the condition codes of R264, the formats of R121, one rounding
function for every format and mode (R132, R140), exact sums and products (R133), the special functions (R137)
and the flags (R134, R135).
-/
namespace Sys2Proof.Machine

/-- The condition of a code 0 to 10 on two words (R264). -/
def condHolds (code : Nat) (a b : Word) : Bool :=
  match code with
  | 0 => a == b
  | 1 => a != b
  | 2 => a.slt b
  | 3 => !a.slt b
  | 4 => a.ult b
  | 5 => !a.ult b
  | 6 => b.slt a
  | 7 => !b.slt a
  | 8 => b.ult a
  | 9 => !b.ult a
  | 10 => (a &&& b) != 0
  | _ => false

/-! ## Formats -/

/-- A floating-point format: exponent and fraction bits, bias, and whether it is E4M3, which has no infinity
(R121). -/
structure FFmt where
  ew : Nat
  fw : Nat
  bias : Nat
  e4 : Bool := false
  deriving DecidableEq, Repr, Inhabited

/-- FP32 (R121). -/
def fp32 : FFmt := { ew := 8, fw := 23, bias := 127 }
/-- FP16 (R121). -/
def fp16 : FFmt := { ew := 5, fw := 10, bias := 15 }
/-- BF16 (R121). -/
def bf16 : FFmt := { ew := 8, fw := 7, bias := 127 }
/-- E5M2 (R121). -/
def e5m2 : FFmt := { ew := 5, fw := 2, bias := 15 }
/-- E4M3 (R121). -/
def e4m3 : FFmt := { ew := 4, fw := 3, bias := 7, e4 := true }
/-- ACC48 (R121). -/
def acc48 : FFmt := { ew := 10, fw := 37, bias := 511 }

/-- The sign bit's weight. -/
def FFmt.signBit (f : FFmt) : Nat := 2 ^ (f.ew + f.fw)

/-- The magnitude bits of infinity; E4M3 has none and takes its NaN (R121, R140). -/
def FFmt.infBits (f : FFmt) : Nat := if f.e4 then 0x7F else (2 ^ f.ew - 1) * 2 ^ f.fw

/-- The canonical NaN (R122). -/
def FFmt.nanBits (f : FFmt) : Nat := if f.e4 then 0x7F else f.infBits + 2 ^ (f.fw - 1)

/-- The magnitude bits of the largest finite value (R121). -/
def FFmt.maxBits (f : FFmt) : Nat := if f.e4 then 0x7E else f.infBits - 1

/-- A value: NaN, an infinity, or a signed number m x 2^e. -/
inductive FV where
  | nan
  | inf (neg : Bool)
  | num (neg : Bool) (m : Nat) (e : Int)
  deriving DecidableEq, Repr, Inhabited

/-- The value of an encoding (R121). -/
def FFmt.decode (f : FFmt) (x : Nat) : FV :=
  let neg := decide (f.signBit ≤ x % (2 * f.signBit))
  let e := x / 2 ^ f.fw % 2 ^ f.ew
  let m := x % 2 ^ f.fw
  if e = 2 ^ f.ew - 1 ∧ (!f.e4 ∨ m = 7) then
    if m = 0 ∧ !f.e4 then .inf neg else .nan
  else if e = 0 then .num neg m (1 - f.bias - f.fw)
  else .num neg (m + 2 ^ f.fw) ((e : Int) - f.bias - f.fw)

/-- The sticky flags (R134). -/
structure Fl where
  nv : Bool := false
  dz : Bool := false
  of : Bool := false
  uf : Bool := false
  nx : Bool := false
  deriving DecidableEq, Repr, Inhabited

/-- The flags of two operations together. -/
def Fl.or (a b : Fl) : Fl := ⟨a.nv || b.nv, a.dz || b.dz, a.of || b.of, a.uf || b.uf, a.nx || b.nx⟩

/-- FPFLAGS bits [4:0] (R134). -/
def Fl.bits (a : Fl) : BitVec 5 :=
  BitVec.ofBool a.nv ++ BitVec.ofBool a.dz ++ BitVec.ofBool a.of ++ BitVec.ofBool a.uf ++ BitVec.ofBool a.nx

/-- Whether a magnitude r with discarded part rem of 2^k is rounded away, by mode 0 RNE, 1 RZ, 2 RU, 3 RD
(R132). -/
def roundUp (mode : Nat) (neg : Bool) (r rem k : Nat) : Bool :=
  match mode with
  | 0 => decide (2 ^ k < 2 * rem) || (decide (2 * rem = 2 ^ k) && r % 2 == 1)
  | 1 => false
  | 2 => !neg && decide (0 < rem)
  | _ => neg && decide (0 < rem)

/-- m x 2^e rounded to a multiple of 2^q: the multiple, and whether it is inexact. -/
def roundTo (mode : Nat) (neg : Bool) (m : Nat) (e q : Int) : Nat × Bool :=
  if q ≤ e then (m * 2 ^ (e - q).toNat, false)
  else
    let k := (q - e).toNat
    let r := m / 2 ^ k
    let rem := m % 2 ^ k
    (if roundUp mode neg r rem k then r + 1 else r, rem != 0)

/-- The overflow result of R140, magnitude bits: infinity or the largest finite value by mode; E4M3 takes its NaN
for infinity, without the sign. -/
def FFmt.overflow (f : FFmt) (mode : Nat) (sat neg : Bool) : Nat :=
  let s := if neg then f.signBit else 0
  let toMax := sat || (match mode with | 0 => false | 1 => true | 2 => neg | _ => !neg)
  if toMax then s + f.maxBits else if f.e4 then f.nanBits else s + f.infBits

/-- A value rounded into a format (R132, R139, R140): its bits and the flags. -/
def FFmt.round (f : FFmt) (mode : Nat) (sat : Bool) : FV → Nat × Fl
  | .nan => (f.nanBits, {})
  | .inf neg =>
    ((if sat then (if neg then f.signBit else 0) + f.maxBits
      else if f.e4 then f.nanBits else (if neg then f.signBit else 0) + f.infBits), {})
  | .num neg m e =>
    let s := if neg then f.signBit else 0
    if m = 0 then (s, {})
    else
      let top : Int := e + Nat.log2 m
      let q : Int := max (top - f.fw) (1 - (f.bias : Int) - f.fw)
      let (r, ix) := roundTo mode neg m e q
      let bits : Nat := ((q + f.bias + f.fw) * 2 ^ f.fw + (r : Int) - 2 ^ f.fw).toNat
      if f.maxBits < bits then (f.overflow mode sat neg, { of := true, nx := true })
      else (s + bits, { uf := ix && decide (bits < 2 ^ f.fw), nx := ix })

/-! ## Exact arithmetic -/

/-- A signed exact number as an integer at exponent e. -/
def FV.scaled (neg : Bool) (m : Nat) (e q : Int) : Int :=
  let v : Int := (m * 2 ^ (e - q).toNat : Nat)
  if neg then -v else v

/-- The exact sum of two values, with the sign of an exact zero by the mode (R133), and NV for the difference of
infinities (R135). -/
def FV.add (mode : Nat) : FV → FV → FV × Bool
  | .nan, _ => (.nan, false)
  | _, .nan => (.nan, false)
  | .inf a, .inf b => if a = b then (.inf a, false) else (.nan, true)
  | .inf a, .num _ _ _ => (.inf a, false)
  | .num _ _ _, .inf b => (.inf b, false)
  | .num a m e, .num b n d =>
    if m = 0 ∧ n = 0 then (.num (if a = b then a else mode == 3) 0 0, false)
    else
      let q := min e d
      let v := FV.scaled a m e q + FV.scaled b n d q
      if v = 0 then (.num (mode == 3) 0 0, false) else (.num (decide (v < 0)) v.natAbs q, false)

/-- The exact product, and NV for zero times infinity (R135). -/
def FV.mul : FV → FV → FV × Bool
  | .nan, _ => (.nan, false)
  | _, .nan => (.nan, false)
  | .inf a, .inf b => (.inf (a != b), false)
  | .inf a, .num b n _ => if n = 0 then (.nan, true) else (.inf (a != b), false)
  | .num a m _, .inf b => if m = 0 then (.nan, true) else (.inf (a != b), false)
  | .num a m e, .num b n d => (.num (a != b) (m * n) (e + d), false)

/-- The value with its sign changed. -/
def FV.neg : FV → FV
  | .nan => .nan
  | .inf a => .inf (!a)
  | .num a m e => .num (!a) m e

/-- Whether a value is NaN. -/
def FV.isNan : FV → Bool
  | .nan => true
  | _ => false

/-- Whether a < b in value, for values that are not NaN. -/
def FV.lt : FV → FV → Bool
  | .inf a, .inf b => a && !b
  | .inf a, .num _ _ _ => a
  | .num _ _ _, .inf b => !b
  | .num a m e, .num b n d => decide (FV.scaled a m e (min e d) < FV.scaled b n d (min e d))
  | _, _ => false

/-- The bits of a rounded value with NV put to its flags. -/
def FFmt.roundNv (f : FFmt) (mode : Nat) (sat : Bool) (x : FV × Bool) : Nat × Fl :=
  let (b, fl) := f.round mode sat x.1
  (b, { fl with nv := fl.nv || x.2 })

/-- Sum of two encodings (R133). -/
def FFmt.addB (f : FFmt) (mode : Nat) (sat : Bool) (a b : Nat) : Nat × Fl :=
  f.roundNv mode sat ((f.decode a).add mode (f.decode b))

/-- Difference of two encodings. -/
def FFmt.subB (f : FFmt) (mode : Nat) (sat : Bool) (a b : Nat) : Nat × Fl :=
  f.roundNv mode sat ((f.decode a).add mode (f.decode b).neg)

/-- Product of two encodings. -/
def FFmt.mulB (f : FFmt) (mode : Nat) (sat : Bool) (a b : Nat) : Nat × Fl :=
  f.roundNv mode sat ((f.decode a).mul (f.decode b))

/-- a x b + c rounded once (R133); `np` negates the product, `nc` the addend. -/
def FFmt.fmaB (f : FFmt) (mode : Nat) (sat np nc : Bool) (a b c : Nat) : Nat × Fl :=
  let (p, v) := (f.decode a).mul (f.decode b)
  let p := if np then p.neg else p
  let c := f.decode c
  let c := if nc then c.neg else c
  let (r, w) := p.add mode c
  f.roundNv mode sat (r, v || w)

/-! ## Special functions -/

/-- The fixed-point scale of the special functions: 2^320. -/
def fxBits : Nat := 320

/-- The integer square root of n, from its top bit down. -/
def isqrtFrom (n : Nat) : Nat → Nat → Nat
  | 0, r => r
  | b + 1, r => let t := r + 2 ^ b; isqrtFrom n b (if t * t ≤ n then t else r)

/-- The integer square root. -/
def isqrt (n : Nat) : Nat := isqrtFrom n (Nat.log2 n / 2 + 1) 0

/-- 2 atanh (z / 2^320) by its series, in fixed point: terms 1, 3, 5, … -/
def atanhSeries (z2 : Nat) : Nat → Nat → Nat → Nat → Nat
  | 0, _, _, acc => 2 * acc
  | n + 1, p, k, acc => atanhSeries z2 n (p * z2 / 2 ^ fxBits) (k + 2) (acc + p / k)

/-- ln (m / d) for d ≤ m ≤ 2d, in fixed point. -/
def lnFx (m d : Nat) : Nat :=
  let z := (m - d) * 2 ^ fxBits / (m + d)
  atanhSeries (z * z / 2 ^ fxBits) 110 z 1 0

/-- ln 2 in fixed point. -/
def ln2Fx : Nat := lnFx 2 1

/-- e^y for 0 ≤ y < 1 in fixed point, by its series. -/
def expSeries (y : Nat) : Nat → Nat → Nat → Nat → Nat
  | 0, _, _, acc => acc
  | n + 1, p, k, acc =>
    let p := p * y / 2 ^ fxBits / k
    expSeries y n p (k + 1) (acc + p)

/-- 2^f for a fraction f in fixed point. -/
def exp2Fx (f : Nat) : Nat := expSeries (f * ln2Fx / 2 ^ fxBits) 75 (2 ^ fxBits) 1 (2 ^ fxBits)

/-- A fixed-point magnitude that is not exact, as a value just above it. -/
def stickyFx (neg : Bool) (x : Nat) : FV := .num neg (2 * x + 1) (-(fxBits : Int) - 1)

/-- 1 / x (R137). -/
def rcpV : FV → FV × Fl
  | .nan => (.nan, {})
  | .inf a => (.num a 0 0, {})
  | .num a m e =>
    if m = 0 then (.inf a, { dz := true })
    else
      let n := 2 ^ 128 / m
      let sticky := 2 ^ 128 % m != 0
      (.num a (2 * n + if sticky then 1 else 0) (-e - 129), {})

/-- 1 / sqrt x (R137). -/
def rsqV : FV → FV × Fl
  | .nan => (.nan, {})
  | .inf a => if a then (.nan, { nv := true }) else (.num false 0 0, {})
  | .num a m e =>
    if m = 0 then (.inf a, { dz := true })
    else if a then (.nan, { nv := true })
    else
      -- x = m 2^e with e even; 1/sqrt x = sqrt (2^256 / m) / 2^128 / 2^(e/2)
      let (m, e) := if e % 2 = 0 then (m, e) else (2 * m, e - 1)
      let q := 2 ^ 256 / m
      let r := isqrt q
      let sticky := 2 ^ 256 % m != 0 || r * r != q
      (.num false (2 * r + if sticky then 1 else 0) (-(e / 2) - 129), {})

/-- 2^x (R137). -/
def exp2V : FV → FV × Fl
  | .nan => (.nan, {})
  | .inf a => (if a then .num false 0 0 else .inf false, {})
  | .num a m e =>
    if m = 0 then (.num false 1 0, {})
    else if 10 < e + Nat.log2 m then
      -- far outside the range: overflow, or underflow to +0
      (if a then .num false 1 (-400) else .num false 1 400, {})
    else
      let fx : Int := (if 0 ≤ e + fxBits then ((m * 2 ^ (e + fxBits).toNat : Nat) : Int)
        else ((m / 2 ^ (-(e + fxBits)).toNat : Nat) : Int)) * (if a then -1 else 1)
      let n := fx / 2 ^ fxBits
      let f := (fx % 2 ^ fxBits).toNat
      if f = 0 ∧ 0 ≤ e then (.num false 1 n, {})
      else if f = 0 then (.num false 1 n, {})
      else (match stickyFx false (exp2Fx f) with
        | .num s x d => .num s x (d + n)
        | v => v, {})

/-- log2 x (R137). -/
def log2V : FV → FV × Fl
  | .nan => (.nan, {})
  | .inf a => if a then (.nan, { nv := true }) else (.inf false, {})
  | .num a m e =>
    if m = 0 then (.inf true, { dz := true })
    else if a then (.nan, { nv := true })
    else
      let k := Nat.log2 m
      let n : Int := e + k
      if m = 2 ^ k then (if n = 0 then .num false 0 0 else .num (decide (n < 0)) n.natAbs 0, {})
      else
        let frac := lnFx m (2 ^ k) * 2 ^ fxBits / ln2Fx
        let v : Int := n * 2 ^ fxBits + frac
        if 0 ≤ v then (stickyFx false v.toNat, {}) else (stickyFx true (v.natAbs - 1), {})

/-- tanh x (R137). -/
def tanhV : FV → FV × Fl
  | .nan => (.nan, {})
  | .inf a => (.num a 1 0, {})
  | .num a m e =>
    if m = 0 then (.num a 0 0, {})
    else if e + Nat.log2 m < -40 then
      -- |x| (1 - |x|^2 / 3 ...): just below |x|
      (.num a (m * 2 ^ 80 - 1) (e - 80), {})
    else if 5 < e + Nat.log2 m then (.num a (2 ^ 80 - 1) (-80), {})
    else
      -- t = e^(-2|x|) = 2^(-2|x| / ln 2); tanh = (1 - t) / (1 + t)
      let x2 : Nat := if 0 ≤ e + fxBits then 2 * m * 2 ^ (e + fxBits).toNat else 0
      let y := x2 * 2 ^ fxBits / ln2Fx
      let n := y / 2 ^ fxBits
      let f := y % 2 ^ fxBits
      let t := if f = 0 then 2 ^ fxBits / 2 ^ n else exp2Fx (2 ^ fxBits - f) / 2 ^ (n + 1)
      let r := (2 ^ fxBits - t) * 2 ^ fxBits / (2 ^ fxBits + t)
      (stickyFx a r, {})

/-- A special function on FP32 bits, rounded with RNE (R137). -/
def special (g : FV → FV × Fl) (x : Word) : Word × Fl :=
  let (v, fl) := g (fp32.decode x.toNat)
  let (b, fr) := fp32.round 0 false v
  (BitVec.ofNat 32 b, fl.or fr)

end Sys2Proof.Machine
end

