-- ==== Sys2Proof/Machine/Operands.lean ====
section
/-!
DEFINITION. Operands: the 7-bit operand codes of R236 and R237 in every cluster, the latches and queues they
name, inline constants by the position they stand in, destinations (R238, R480) and address pairs (R316, R317).
-/
namespace Sys2Proof.Machine

/-- The registers of a cluster's file (R237). -/
def fileSize : Cluster → Nat
  | .c | .m => 64
  | .v | .e => 32

/-- Whether a source code is not reserved, in the C, M and E clusters (R236, R237). -/
def srcOk (cl : Cluster) (c : BitVec 7) : Bool :=
  decide (c.toNat < fileSize cl) || (decide (0x40 ≤ c.toNat) && decide (c.toNat ≤ 0x43)) || c == 0x45 ||
    decide (0x60 ≤ c.toNat)

/-- Whether a source code is not reserved in the V cluster (R236, R237). -/
def vsrcOk (c : BitVec 7) : Bool :=
  decide (c.toNat < 32) || (decide (0x40 ≤ c.toNat) && decide (c.toNat ≤ 0x45)) || decide (0x60 ≤ c.toNat)

/-- Whether a destination code of a 32-bit result is not reserved (R480). -/
def dstOk (cl : Cluster) (c : BitVec 7) : Bool := decide (c.toNat < fileSize cl) || c == 0x7F

/-- Whether a destination code of a V result is not reserved (R480). -/
def vdstOk (c : BitVec 7) : Bool := decide (c.toNat < 32) || c == 0x44 || c == 0x7F

/-- Whether a field names a mask or a guard 0 to 7 (R237). -/
def idxOk (c : BitVec 7) : Bool := decide (c.toNat < 8)

/-- The latch index a code names, if it names one. -/
def latchIx (c : BitVec 7) : Option Nat := if 0x40 ≤ c.toNat ∧ c.toNat ≤ 0x43 then some (c.toNat - 0x40) else none

/-- The first latch among the codes that is invalid, n being valid (R477, check 4). -/
def badLatch (n : Nat) : List (BitVec 7) → Option Nat
  | [] => none
  | c :: r =>
    match latchIx c with
    | some i => if i < n then badLatch n r else some i
    | none => badLatch n r

/-- How often the codes name xq. -/
def xqPops (cs : List (BitVec 7)) : Nat := (cs.filter fun c => c == 0x45).length

/-- How often the codes name lq. -/
def lqPops (cs : List (BitVec 7)) : Nat := (cs.filter fun c => c == 0x44).length

/-- The inline constant of a code, in an integer position: c - 0x70 (R236, R237). -/
def inlineInt (c : BitVec 7) : Word := BitVec.ofInt 32 ((c.toNat : Int) - 0x70)

/-- The FP32 encoding of an integer -16 to 15, which is exact (R237). -/
def inlineFp32 (c : BitVec 7) : Word :=
  let v : Int := (c.toNat : Int) - 0x70
  let m := v.natAbs
  if m = 0 then 0
  else
    let e := Nat.log2 m
    let mag : Nat := (127 + e) * 2 ^ 23 + (m - 2 ^ e) * 2 ^ (23 - e)
    BitVec.ofNat 32 (mag + if v < 0 then 2 ^ 31 else 0)

/-- A 16-bit float of f fraction bits and a bias, holding an integer -16 to 15. -/
def inlineHalf (f bias : Nat) (c : BitVec 7) : BitVec 16 :=
  let v : Int := (c.toNat : Int) - 0x70
  let m := v.natAbs
  if m = 0 then 0
  else
    let e := Nat.log2 m
    let mag : Nat := (bias + e) * 2 ^ f + (m - 2 ^ e) * 2 ^ (f - e)
    BitVec.ofNat 16 (mag + if v < 0 then 2 ^ 15 else 0)

/-- The oldest entry of a cluster's xq taken, and what its push follows learnt (R77, R171). -/
def Clu.popXq (y : Clu) : Clu :=
  { y.learn ((y.xk.head?.map Prod.snd).getD {}) with
    xq := y.xq.drop 1, xk := y.xk.drop 1, badXq := y.badXq.map (· - 1) }

/-- The first of the registers ks of a cluster, a mask as 128 + k, that was found uncorrectable, as its MPA (R93, R441). -/
def State.badReg (s : State) (cl : Cluster) (ks : List Nat) : Option Nat :=
  (ks.find? fun k => (s.cc.clu cl).badRegs.contains k).map fun k =>
    s.coreMpa s.cur.tile s.cur.core 2 (regSpan cl k).1

/-- The precise fault of a word that reads a register, a latch or a queue entry found uncorrectable (R441, R443): of a register
ADDR is its MPA; a latch and a queue entry have none (log 57). -/
def State.badCell (s : State) (at' : Option Nat) : Eff :=
  .fault { s.recNow .dataUncorrectable 4 with addr := at'.map fun n => (true, BitVec.ofNat 60 n) }

/-- Whether one of the first n places of a queue is listed. -/
def placeBad (l : List Nat) (n : Nat) : Bool := l.any fun i => decide (i < n)

/-- What the source codes of a word of cluster cl read that was found uncorrectable (R441, R443): none, or the place that its fault
names. -/
def State.badSrc (s : State) (cl : Cluster) (cs : List (BitVec 7)) : Option (Option Nat) :=
  match s.badReg cl ((cs.filter fun c => decide (c.toNat < 64)).map (·.toNat)) with
  | some n => some (some n)
  | none =>
    if (cs.any fun c => (latchIx c).any fun i => (s.cc.clu cl).badLat.contains i) ||
        placeBad (s.cc.clu cl).badXq (xqPops cs) || (cl == .v && placeBad s.cc.badLq (lqPops cs)) then some none
    else none

/-- A 32-bit source read, popping xq where the code names it (R236). -/
def readSrc (cl : Cluster) (c : BitVec 7) (s : State) : Word × State :=
  if c.toNat < 64 then (s.cc.reg cl c.toNat, s)
  else
    match latchIx c with
    | some i => (((s.cc.clu cl).lat[i]?).getD 0, s)
    | none =>
      if c = 0x45 then
        ((((s.cc.clu cl).xq[0]?).map Prod.snd).getD 0, s.modCc fun x => x.modClu cl Clu.popXq)
      else (inlineInt c, s)

/-- Whether a register, a mask or a start interval of a cluster still waits for a delivery (R260, R289, R318). -/
def State.owed (s : State) (cl : Cluster) (ks : List Nat) : Bool :=
  ks.any fun k => decide (s.now < (s.cc.clu cl).busy.get k 0)

/-- Whether a local atomic of the core that issues now is on its way, whose push is still to come (R318, R324). -/
def State.amoOut (s : State) : Bool :=
  (s.cc.pend.any fun p => p.amo.isSome) || s.ct.portq.any fun r => r.core == s.cur.core

/-- Whether a source still waits for its producing word: a register for its delivery, a latch for every earlier push
(R238, R260, R289, R318). -/
def State.srcOwed (s : State) (cl : Cluster) (c : BitVec 7) : Bool :=
  if c.toNat < 64 then s.owed cl [c.toNat]
  else (latchIx c).isSome && (decide (s.now < (s.cc.clu cl).pushed) || (cl == .m && s.amoOut))

/-- The code of a stall on a result still to be delivered: that of a full sq where a push waits at its delivery (R288,
R427), else none. -/
def State.owedCode (s : State) (cl : Cluster) : Nat := if cl = .v ∧ unknown ≤ s.cc.vc.last then 6 else 0

/-- A word that reads or writes ks stalls until they are delivered (R260, R289, R318). -/
def held (cl : Cluster) (ks : List Nat) (k : State → Eff) (s : State) : Eff :=
  if s.owed cl ks then .stall (s.owedCode cl) else k s

/-- A word that reads the registers rs, and writes the registers ks, once they are delivered (R260, R289, R318): an uncorrectable one
among those it reads faults it (R443). -/
def reads (cl : Cluster) (rs ks : List Nat) (k : State → Eff) (s : State) : Eff :=
  held cl (rs ++ ks) (fun s =>
    match s.badReg cl rs with
    | some n => s.badCell (some n)
    | none => k s) s

/-- The rc in which a result of n engine cycles is delivered, in program order but for the M cluster (R260, R289,
R318). -/
def State.deliverAt (s : State) (cl : Cluster) (n : Nat) : Nat :=
  let t := ecAfter s.now s.cc.cdiv n
  if cl = .m then t else (s.cc.clu cl).last / unknown * unknown + Nat.max ((s.cc.clu cl).last % unknown) t

/-- Sources read in the order A, B, C (R237). -/
def readSrcs (cl : Cluster) : List (BitVec 7) → State → List Word × State
  | [], s => ([], s)
  | c :: r, s =>
    let (w, s) := readSrc cl c s
    let (l, s) := readSrcs cl r s
    (w :: l, s)

/-- THE SOURCES OF A WORD of the C, M or E cluster (R237, R477): its encoding is valid and its codes are not
reserved, its latches are valid, every result it reads is delivered (R260, R318) and every queue entry it needs is
present; then its values, in the order of the codes, none of them uncorrectable (R443). -/
def srcs (cl : Cluster) (enc : Bool) (cs : List (BitVec 7)) (k : List Word → State → Eff) (s : State) : Eff :=
  if !(enc && cs.all (srcOk cl)) then s.reserved
  else
    match badLatch s.ccl.lat.length cs with
    | some i => s.flt .latchInvalid (BitVec.ofNat 64 i)
    | none =>
      if cs.any (s.srcOwed cl) then .stall (s.owedCode cl)
      else if !s.ccl.xqReady s.now (xqPops cs) then .stall 3
      else if let some a := s.badSrc cl cs then s.badCell a
      else
        let (l, s) := readSrcs cl cs s
        k l s

/-- Value i of a list of sources. -/
def arg (l : List Word) (i : Nat) : Word := l.getD i 0

/-- A 32-bit result delivered n engine cycles after issue: written under W to a register, and pushed into q0 (R238,
R480). -/
def putRes (cl : Cluster) (n : Nat) (d : BitVec 7) (w : Bool) (v : Word) (s : State) : State :=
  let t := s.deliverAt cl n
  let put := w && decide (d.toNat < 64)
  s.modCc fun x =>
    let x := if put then (x.keep cl d.toNat (BitVec.ofNat 2048 0xFFFFFFFF) s.now t).setReg cl d.toNat v else x
    (x.modClu cl fun y => y.push v).owe cl (if put then [d.toNat] else []) true t

/-- A guard of the cluster written, and 1 or 0 pushed n engine cycles after issue (R264). -/
def putGuard (cl : Cluster) (n g : Nat) (b : Bool) (s : State) : State :=
  let t := s.deliverAt cl n
  s.modCc fun x => (x.modClu cl fun y => (y.setGuard g b).push (if b then 1 else 0)).owe cl [] true t

/-! ## V operands -/

/-- How a V source position is read (R237). -/
inductive Pos where
  | int | fp32 | fp16 | bf16
  deriving DecidableEq, Repr, Inhabited

/-- The inline constant of a code in a V position, in every lane (R237). -/
def inlineRow (p : Pos) (c : BitVec 7) : Row :=
  match p with
  | .int => splat (inlineInt c)
  | .fp32 => splat (inlineFp32 c)
  | .fp16 => splat (inlineHalf 10 15 c ++ inlineHalf 10 15 c)
  | .bf16 => splat (inlineHalf 7 127 c ++ inlineHalf 7 127 c)

/-- A V source read, popping lq or xq where the code names it (R236, R237). -/
def readVSrc (p : Pos) (c : BitVec 7) (s : State) : Row × State :=
  if c.toNat < 64 then (s.cc.vreg c.toNat, s)
  else
    match latchIx c with
    | some i => ((s.cc.vlat[i]?).getD 0, s)
    | none =>
      if c = 0x44 then
        ((((s.cc.lq[0]?).getD none).map Prod.snd).getD 0,
          s.modCc fun x =>
            let x := x.modClu .v fun y => y.learn (x.lk.head?.getD {})
            { x with lq := x.lq.drop 1, lk := x.lk.drop 1, badLq := x.badLq.map (· - 1) })
      else if c = 0x45 then
        (splat (((s.cc.vc.xq[0]?).map Prod.snd).getD 0), s.modCc fun x => x.modClu .v Clu.popXq)
      else (inlineRow p c, s)

/-- V sources read in order. -/
def readVSrcs : List (Pos × BitVec 7) → State → List Row × State
  | [], s => ([], s)
  | (p, c) :: r, s =>
    let (w, s) := readVSrc p c s
    let (l, s) := readVSrcs r s
    (w :: l, s)

/-- Whether the n oldest entries of lq are filled by rc now (R75). -/
def lqReady (x : Core) (now n : Nat) : Bool :=
  decide (n ≤ x.lq.length) && (x.lq.take n).all fun o => (o.map fun p => decide (p.1 ≤ now)).getD false

/-- The latency of a V word in engine cycles, and its group with the start interval of the group (R289, R301). -/
structure Pace where
  ec : Nat
  group : Nat := 0
  every : Nat := 1
  deriving DecidableEq, Repr, Inhabited

/-- A V word whose group has a start interval above 1 waits for it (R289). -/
def paced (p : Pace) (k : State → Eff) (s : State) : Eff :=
  if p.every ≤ 1 then k s
  else if s.owed .v [256 + p.group] then .stall (s.owedCode .v)
  else
    k (s.modCc fun x => x.modClu .v fun y =>
      { y with busy := y.busy.set (256 + p.group) (ecAfter s.now s.cc.cdiv p.every) })

/-- THE SOURCES OF A V WORD (R236, R237, R477), as `srcs` does for the other clusters; the masks ks are read too. -/
def vsrcs (enc : Bool) (ks : List Nat) (cs : List (Pos × BitVec 7)) (k : List Row → State → Eff) (s : State) : Eff :=
  let codes := cs.map Prod.snd
  if !(enc && codes.all vsrcOk) then s.reserved
  else
    match badLatch s.cc.vlat.length codes with
    | some i => s.flt .latchInvalid (BitVec.ofNat 64 i)
    | none =>
      if codes.any (s.srcOwed .v) || s.owed .v (ks.map fun k => 128 + k) then .stall (s.owedCode .v)
      else if !lqReady s.cc s.now (lqPops codes) then .stall 2
      else if !s.ccl.xqReady s.now (xqPops codes) then .stall 3
      else if let some a := (s.badReg .v (ks.map fun k => 128 + k)).map some <|> s.badSrc .v codes then s.badCell a
      else
        let (l, s) := readVSrcs cs s
        k l s

/-- Row i of a list of V sources. -/
def rarg (l : List Row) (i : Nat) : Row := l.getD i 0

/-- The lanes of `new` where the mask is set, those of `old` elsewhere (R239). -/
def blend (m : BitVec 64) (new old : Row) : Row := mkRow fun i => if m.getLsbD i then lane new i else lane old i

/-! ## Address pairs -/

/-- Whether a field names an even register of a pair (R317). -/
def pairOk (c : BitVec 7) : Bool := decide (c.toNat < 64) && c.toNat % 2 == 0

/-- The 64-bit value of the pair that starts at register n (R316). -/
def Core.pair (x : Core) (n : Nat) : BitVec 64 := x.reg .m (n + 1) ++ x.reg .m n

/-- The core with a pair written. -/
def Core.setPair (x : Core) (n : Nat) (v : BitVec 64) : Core :=
  (x.setReg .m n (v.truncate 32)).setReg .m (n + 1) (v.extractLsb' 32 32)

/-- The effective address of a memory word (R316), all 64 bits. -/
def State.ea64 (s : State) (f : MemF) : BitVec 64 := s.cc.pair (2 * f.bp.toNat) + f.off.signExtend 64

/-- The virtual address of a memory word: bits [63:60] are ignored (R96, R316). -/
def State.ea (s : State) (f : MemF) : Va := (s.ea64 f).truncate 60

end Sys2Proof.Machine
end

