-- ==== Sys2Proof/Machine/CArith.lean ====
section
/-!
DEFINITION. The arithmetic, logic, compare and move words of the C cluster (spec/11 R260 to R264).
-/
namespace Sys2Proof.Machine

/-! ## Shared operations -/

/-- A C word of two sources whose result goes to D n engine cycles later (R260). -/
def cAlu2 (h : Hdr) (f : RR) (n : Nat) (op : Word → Word → Word) (s : State) : Host.Outcome State Fault Refusal :=
  word .c h (srcs .c (dstOk .c f.d) [f.a, f.b] fun l s => .done (putRes .c n f.d f.w (op (arg l 0) (arg l 1)) s)) s

/-- A division word (R262): 18 engine cycles, and the next waits until it has delivered. -/
def cDiv (h : Hdr) (f : RR) (op : Word → Word → Word) (s : State) : Host.Outcome State Fault Refusal :=
  word .c h (srcs .c (dstOk .c f.d) [f.a, f.b] fun l s => held .c [256] (fun s =>
    .done ((putRes .c 18 f.d f.w (op (arg l 0) (arg l 1)) s).modCc fun x => x.owe .c [256] false (s.deliverAt .c 18))) s) s

/-- A C word of one source whose result goes to D (R260). -/
def cAlu1 (h : Hdr) (f : RR) (op : Word → Word) (s : State) : Host.Outcome State Fault Refusal :=
  word .c h (srcs .c (dstOk .c f.d) [f.a] fun l s => .done (putRes .c 1 f.d f.w (op (arg l 0)) s)) s

/-- A C word of a source and IMM32 (R260). -/
def cAluI (h : Hdr) (f : RI) (op : Word → Word → Word) (s : State) : Host.Outcome State Fault Refusal :=
  word .c h (srcs .c (dstOk .c f.d) [f.a] fun l s => .done (putRes .c 1 f.d f.w (op (arg l 0) f.imm) s)) s

/-- The product of two 64-bit extensions, bits [63:32] (R261). -/
def mulHigh (signed : Bool) (a b : Word) : Word :=
  let x : BitVec 64 := if signed then a.signExtend 64 else a.setWidth 64
  let y : BitVec 64 := if signed then b.signExtend 64 else b.setWidth 64
  (x * y).extractLsb' 32 32

/-- The shift or rotate amount: B[4:0] (R261). -/
def amount (b : Word) : Nat := b.toNat % 32

/-- DIV (R262). -/
def divS (a b : Word) : Word := if b = 0 then 0xFFFFFFFF else BitVec.ofInt 32 (a.toInt.tdiv b.toInt)

/-- DIVU (R262). -/
def divU (a b : Word) : Word := if b = 0 then 0xFFFFFFFF else a / b

/-- REM (R262). -/
def remS (a b : Word) : Word := if b = 0 then a else BitVec.ofInt 32 (a.toInt.tmod b.toInt)

/-- REMU (R262). -/
def remU (a b : Word) : Word := if b = 0 then a else a % b

/-- Leading zero bits (R261). -/
def clz (a : Word) : Word := if a = 0 then 32 else BitVec.ofNat 32 (31 - Nat.log2 a.toNat)

/-- Set bits (R261). -/
def popc {n : Nat} (a : BitVec n) : Nat := ((List.range n).filter fun i => a.getLsbD i).length

/-- Bits reversed (R261). -/
def brev (a : Word) : Word :=
  (List.range 32).foldl (fun r i => if a.getLsbD i then r ||| (1#32 <<< (31 - i)) else r) 0

/-- POS, LEN and SGN of EXTR and INSR (R263). -/
def fieldPos (f : RR) : Nat := f.f.toNat % 32
/-- LEN of R263, 1 to 32. -/
def fieldLen (f : RR) : Nat := f.f.toNat / 32 % 32 + 1

/-- The mask of the low n bits. -/
def lowMask (n : Nat) : Word := BitVec.ofNat 32 (2 ^ n - 1)

/-- EXTR of R263: the field, sign- or zero-extended. -/
def extract (a : Word) (pos len : Nat) (sgn : Bool) : Word :=
  let v := (a >>> pos) &&& lowMask len
  if sgn && v.getLsbD (len - 1) then v ||| ~~~(lowMask len) else v

/-- INSR of R263: A with the field replaced by the low bits of B. -/
def insert (a b : Word) (pos len : Nat) : Word :=
  (a &&& ~~~(lowMask len <<< pos)) ||| ((b &&& lowMask len) <<< pos)

/-! ## Meanings -/

/-- ADD (R261). -/
def execAdd (h : Hdr) (f : RR) (s : State) : Host.Outcome State Fault Refusal :=
  cAlu2 h f 1 (fun a b => a + b) s

/-- SUB (R261). -/
def execSub (h : Hdr) (f : RR) (s : State) : Host.Outcome State Fault Refusal :=
  cAlu2 h f 1 (fun a b => a - b) s

/-- MUL (R261). -/
def execMul (h : Hdr) (f : RR) (s : State) : Host.Outcome State Fault Refusal :=
  cAlu2 h f 3 (fun a b => a * b) s

/-- MULH (R261). -/
def execMulh (h : Hdr) (f : RR) (s : State) : Host.Outcome State Fault Refusal :=
  cAlu2 h f 3 (fun a b => mulHigh true a b) s

/-- MULHU (R261). -/
def execMulhu (h : Hdr) (f : RR) (s : State) : Host.Outcome State Fault Refusal :=
  cAlu2 h f 3 (fun a b => mulHigh false a b) s

/-- DIV (R262). -/
def execDiv (h : Hdr) (f : RR) (s : State) : Host.Outcome State Fault Refusal :=
  cDiv h f (fun a b => divS a b) s

/-- DIVU (R262). -/
def execDivu (h : Hdr) (f : RR) (s : State) : Host.Outcome State Fault Refusal :=
  cDiv h f (fun a b => divU a b) s

/-- REM (R262). -/
def execRem (h : Hdr) (f : RR) (s : State) : Host.Outcome State Fault Refusal :=
  cDiv h f (fun a b => remS a b) s

/-- REMU (R262). -/
def execRemu (h : Hdr) (f : RR) (s : State) : Host.Outcome State Fault Refusal :=
  cDiv h f (fun a b => remU a b) s

/-- AND (R261). -/
def execAnd (h : Hdr) (f : RR) (s : State) : Host.Outcome State Fault Refusal :=
  cAlu2 h f 1 (fun a b => a &&& b) s

/-- ADDI (R261). -/
def execAddi (h : Hdr) (f : RI) (s : State) : Host.Outcome State Fault Refusal :=
  cAluI h f (fun a b => a + b) s

/-- ANDI (R261). -/
def execAndi (h : Hdr) (f : RI) (s : State) : Host.Outcome State Fault Refusal :=
  cAluI h f (fun a b => a &&& b) s

/-- ORI (R261). -/
def execOri (h : Hdr) (f : RI) (s : State) : Host.Outcome State Fault Refusal :=
  cAluI h f (fun a b => a ||| b) s

/-- XORI (R261). -/
def execXori (h : Hdr) (f : RI) (s : State) : Host.Outcome State Fault Refusal :=
  cAluI h f (fun a b => a ^^^ b) s

/-- OR (R261). -/
def execOr (h : Hdr) (f : RR) (s : State) : Host.Outcome State Fault Refusal :=
  cAlu2 h f 1 (fun a b => a ||| b) s

/-- XOR (R261). -/
def execXor (h : Hdr) (f : RR) (s : State) : Host.Outcome State Fault Refusal :=
  cAlu2 h f 1 (fun a b => a ^^^ b) s

/-- ANDN (R261). -/
def execAndn (h : Hdr) (f : RR) (s : State) : Host.Outcome State Fault Refusal :=
  cAlu2 h f 1 (fun a b => a &&& ~~~b) s

/-- SHL (R261). -/
def execShl (h : Hdr) (f : RR) (s : State) : Host.Outcome State Fault Refusal :=
  cAlu2 h f 1 (fun a b => a <<< amount b) s

/-- SHLI (R261). -/
def execShli (h : Hdr) (f : RI) (s : State) : Host.Outcome State Fault Refusal :=
  cAluI h f (fun a b => a <<< amount b) s

/-- SHRI (R261). -/
def execShri (h : Hdr) (f : RI) (s : State) : Host.Outcome State Fault Refusal :=
  cAluI h f (fun a b => a >>> amount b) s

/-- SARI (R261). -/
def execSari (h : Hdr) (f : RI) (s : State) : Host.Outcome State Fault Refusal :=
  cAluI h f (fun a b => a.sshiftRight (amount b)) s

/-- SHR (R261). -/
def execShr (h : Hdr) (f : RR) (s : State) : Host.Outcome State Fault Refusal :=
  cAlu2 h f 1 (fun a b => a >>> amount b) s

/-- SAR (R261). -/
def execSar (h : Hdr) (f : RR) (s : State) : Host.Outcome State Fault Refusal :=
  cAlu2 h f 1 (fun a b => a.sshiftRight (amount b)) s

/-- ROTL (R261). -/
def execRotl (h : Hdr) (f : RR) (s : State) : Host.Outcome State Fault Refusal :=
  cAlu2 h f 1 (fun a b => a.rotateLeft (amount b)) s

/-- MIN (R261). -/
def execMin (h : Hdr) (f : RR) (s : State) : Host.Outcome State Fault Refusal :=
  cAlu2 h f 1 (fun a b => if a.slt b then a else b) s

/-- MAX (R261). -/
def execMax (h : Hdr) (f : RR) (s : State) : Host.Outcome State Fault Refusal :=
  cAlu2 h f 1 (fun a b => if a.slt b then b else a) s

/-- MINU (R261). -/
def execMinu (h : Hdr) (f : RR) (s : State) : Host.Outcome State Fault Refusal :=
  cAlu2 h f 1 (fun a b => if a.ult b then a else b) s

/-- MAXU (R261). -/
def execMaxu (h : Hdr) (f : RR) (s : State) : Host.Outcome State Fault Refusal :=
  cAlu2 h f 1 (fun a b => if a.ult b then b else a) s

/-- CLZ (R261). -/
def execClz (h : Hdr) (f : RR) (s : State) : Host.Outcome State Fault Refusal :=
  cAlu1 h f (fun a => clz a) s

/-- POPC (R261). -/
def execPopc (h : Hdr) (f : RR) (s : State) : Host.Outcome State Fault Refusal :=
  cAlu1 h f (fun a => BitVec.ofNat 32 (popc a)) s

/-- BREV (R261). -/
def execBrev (h : Hdr) (f : RR) (s : State) : Host.Outcome State Fault Refusal :=
  cAlu1 h f (fun a => brev a) s

/-- MOV (R261). -/
def execMov (h : Hdr) (f : RR) (s : State) : Host.Outcome State Fault Refusal :=
  cAlu1 h f (fun a => a) s

/-- MAD (R261). -/
def execMad (h : Hdr) (f : RR) (s : State) : Host.Outcome State Fault Refusal :=
  word .c h (srcs .c (dstOk .c f.d) [f.a, f.b, f.c] fun l s =>
    .done (putRes .c 3 f.d f.w (arg l 0 * arg l 1 + arg l 2) s)) s

/-- EXTR (R263). -/
def execExtr (h : Hdr) (f : RR) (s : State) : Host.Outcome State Fault Refusal :=
  word .c h (srcs .c (dstOk .c f.d && decide (fieldPos f + fieldLen f ≤ 32)) [f.a] fun l s =>
    .done (putRes .c 1 f.d f.w (extract (arg l 0) (fieldPos f) (fieldLen f) (f.f.getLsbD 10)) s)) s

/-- INSR (R263). -/
def execInsr (h : Hdr) (f : RR) (s : State) : Host.Outcome State Fault Refusal :=
  word .c h (srcs .c (dstOk .c f.d && decide (fieldPos f + fieldLen f ≤ 32)) [f.a, f.b] fun l s =>
    .done (putRes .c 1 f.d f.w (insert (arg l 0) (arg l 1) (fieldPos f) (fieldLen f)) s)) s

/-- MOVI (R261). -/
def execMovi (h : Hdr) (f : RI) (s : State) : Host.Outcome State Fault Refusal :=
  word .c h (srcs .c (dstOk .c f.d) [] fun _ s => .done (putRes .c 1 f.d f.w f.imm s)) s

/-- SEL (R261): field C holds the guard code. -/
def execSel (h : Hdr) (f : RR) (s : State) : Host.Outcome State Fault Refusal :=
  word .c h (srcs .c (dstOk .c f.d && idxOk f.c) [f.a, f.b] fun l s =>
    .done (putRes .c 1 f.d f.w (if (s.cc.clu .c).guard f.c.toNat then arg l 0 else arg l 1) s)) s

/-- CMP (R264). -/
def execCmp (h : Hdr) (f : RR) (s : State) : Host.Outcome State Fault Refusal :=
  word .c h (srcs .c (idxOk f.d && decide (f.f.toNat % 16 ≤ 10)) [f.a, f.b] fun l s =>
    .done (putGuard .c 1 f.d.toNat (condHolds (f.f.toNat % 16) (arg l 0) (arg l 1)) s)) s

/-- CMPI (R264). -/
def execCmpi (h : Hdr) (f : RI) (s : State) : Host.Outcome State Fault Refusal :=
  word .c h (srcs .c (idxOk f.d && decide (f.f5.toNat % 16 ≤ 10)) [f.a] fun l s =>
    .done (putGuard .c 1 f.d.toNat (condHolds (f.f5.toNat % 16) (arg l 0) f.imm) s)) s

end Sys2Proof.Machine
end

