-- ==== Sys2Proof/Machine/Order.lean ====
section
/-!
DEFINITION. The way of a semaphore operation to the file (spec/11 R272).
-/
namespace Sys2Proof.Machine

/-- A semaphore operation on its way to the file of a tile: it lands in the first cycle at or after rc ready (R272); what
lands in a cycle is looked at once its first rc is over. -/
def land (t : TileId) (ready : Nat) (n : BitVec 8) (k : CoreId) (op : SemOp) (s : State) : State :=
  (s.modTile t fun x => { x with landing := x.landing ++ [{ ready := ready, sem := n, core := k, op := op }] }).dueT
    (alignUp ready 2 + 1) t .semaphoreFileCycle

end Sys2Proof.Machine
end

