-- ==== Sys2Proof/Machine/Special.lean ====
section
/-!
DEFINITION. The special registers (spec/11 R280 to R284) with the event counters of spec/02 R53 and R54, and the
string and limiter reports of spec/09 R216, R217, R226 and R229.
-/
namespace Sys2Proof.Machine

/-- Whether a tile is halted: it belongs to a running task and every present core has executed HALT (R219). -/
def State.tileHalted (s : State) (t : TileId) : Bool :=
  (match s.tileTask t with
    | some x => decide (x.stat = .running)
    | none => false) && (s.tile t).coreList.all fun k => (s.core t k).halted

/-- Bits j = 0 to 3 of a test over the positions of a tile's string. -/
def State.posBits (s : State) (t : TileId) (p : TileId → Bool) : BitVec 4 :=
  BitVec.ofNat 4 ((List.range 4).foldl (fun n j =>
    n + (match s.posTile (stringOf t) j with
      | some u => if p u then 2 ^ j else 0
      | none => 0)) 0)

/-- A tile's position in its string. -/
def State.posOf (s : State) (t : TileId) : Nat := ((s.positions (stringOf t)).findIdx? fun u => u == t).getD 0

/-- STRSTAT (R217); POS and PRESENT are 0 until the map of stage 7 is built (R39). -/
def State.strstat (s : State) (t : TileId) : Word :=
  let up := s.hub.stage == 0xE
  (0 : BitVec 18) ++ (if up then BitVec.ofNat 2 (s.posOf t) else 0) ++ BitVec.ofNat 2 (s.str (stringOf t)).level ++
    BitVec.ofBool (!(s.tile t).lim.gbatt.isEmpty) ++ (0 : BitVec 1) ++ s.posBits t s.tileHalted ++
    s.posBits t fun _ => up

/-- CLKDIVS (R229). -/
def Core.clkdivs (x : Core) : Word :=
  (0 : BitVec 11) ++ BitVec.ofNat 5 x.meff ++ (0 : BitVec 3) ++ BitVec.ofNat 5 x.mdiv ++ (0 : BitVec 3) ++
    BitVec.ofNat 5 x.cdiv

/-! ## Reads and writes -/

/-- The value of a special register that a read does not change (R281, R282); none for a number R281 does not
list. -/
def srValue (s : State) (n : Nat) : Option Word :=
  let t := s.cur.tile
  let x := s.ct
  let c := s.cc
  if n = 0x000 then some c.tileid
  else if n = 0x001 then some c.coreid
  else if n = 0x002 then some ((0 : BitVec 16) ++ x.taskid)
  else if n = 0x003 then
    some (BitVec.ofBool c.trap ++ (0 : BitVec 18) ++ BitVec.ofNat 5 c.ret.length ++ (0 : BitVec 5) ++
      BitVec.ofNat 3 c.c.loops.length)
  else if n = 0x004 then some (BitVec.ofNat 32 s.now)
  else if n = 0x005 then some (c.c.cycHi.getD (BitVec.ofNat 32 (s.now / 2 ^ 32)))
  else if n = 0x008 then some ((if s.cur.bundle then c.flagsAll else c.flagsAt s.now).setWidth 32)
  else if n = 0x010 then some c.trapcause
  else if n = 0x011 then some (c.c.trapRet.setWidth 32)
  else if n = 0x012 then some c.trappcHi
  else if n = 0x013 then some (c.trapval.truncate 32)
  else if n = 0x014 then some (c.trapval.extractLsb' 32 32)
  else if n = 0x015 then some ((c.trapvec.setWidth 32) <<< 2)
  else if n = 0x020 then some (c.heapbase.setWidth 32)
  else if n = 0x021 then some (c.heaplimit.setWidth 32)
  else if n = 0x022 then some (c.heapoff.setWidth 32)
  else if n = 0x023 then some (c.ctx.setWidth 32)
  else if n = 0x030 then some x.strimb
  else if n = 0x031 then some (s.strstat t)
  else if n = 0x032 then some x.lim.battcnt
  else if n = 0x033 then some x.lim.report
  else if n = 0x040 then some c.clkdivs
  else if 0x100 ≤ n ∧ n < 0x110 then some (x.evtsel.get (n - 0x100) 0)
  else if 0x110 ≤ n ∧ n < 0x130 then
    let i := (n - 0x110) / 2
    let v := x.evtcnt.get i 0
    if n % 2 = 0 then some (v.truncate 32)
    else some (((c.c.evtHi.get i none).getD (v.extractLsb' 32 16)).setWidth 32)
  else none

/-- What a read of a special register latches or uses up, in the cluster that reads (R53, R283). -/
def srLatch (n : Nat) (s : State) : State :=
  let put (f : Clu → Clu) : State := s.modCcl f
  if n = 0x004 then put fun y => { y with cycHi := some (BitVec.ofNat 32 (s.now / 2 ^ 32)) }
  else if n = 0x005 then put fun y => { y with cycHi := none }
  else if 0x110 ≤ n ∧ n < 0x130 then
    let i := (n - 0x110) / 2
    if n % 2 = 0 then
      put fun y => { y with evtHi := y.evtHi.set i (some ((s.ct.evtcnt.get i 0).extractLsb' 32 16)) }
    else put fun y => { y with evtHi := y.evtHi.set i none }
  else s

/-- Whether the row of a special register has a field that a WRSR writes (R280, R281). -/
def srWritable (n : Nat) : Bool := n == 0x008 || n == 0x015 || (decide (0x100 ≤ n) && decide (n < 0x130))

/-- Whether a read or write of FPFLAGS in a bundle still waits for V words issued before the bundle (R136). -/
def State.flagsWait (s : State) (n : Nat) : Bool := n == 0x008 && s.cur.bundle && decide (s.now < s.cc.vc.last)

/-- WRSR of a writable special register (R280, R282, R53, R134). -/
def srWrite (n : Nat) (v : Word) (s : State) : State :=
  if n = 0x008 then s.modCc fun x =>
      { x with
        fpflags := v.truncate 5,
        fpend := if s.cur.bundle then [] else x.fpend.filter fun p => decide (s.now ≤ p.1) }
  else if n = 0x015 then s.modCc fun x => { x with trapvec := v.extractLsb' 2 17 }
  else if n < 0x110 then
    s.modCt fun x =>
      let old := x.evtsel.get (n - 0x100) 0
      let ovf := if v.getLsbD 30 then 0 else old &&& 0x40000000
      { x with evtsel := x.evtsel.set (n - 0x100) ((v &&& 0x800F80FF) ||| ovf) }
  else
    let i := (n - 0x110) / 2
    s.modCt fun x =>
      let old := x.evtcnt.get i 0
      let new : BitVec 48 :=
        if n % 2 = 0 then old.extractLsb' 32 16 ++ v else (v.truncate 16 : BitVec 16) ++ (old.truncate 32 : BitVec 32)
      { x with evtcnt := x.evtcnt.set i new }

end Sys2Proof.Machine
end

