-- ==== Sys2Proof/Machine/CControl.lean ====
section
/-!
DEFINITION. The control words of the C cluster: jumps, semaphores, iterations, exit, safe points, traps, special
registers and divisors (spec/11 R269 to R285).
-/
namespace Sys2Proof.Machine

/-! ## Jumps -/

/-- The loop stack after a taken BR or JMP: each entry of the current return-stack depth whose range does not hold
the target is popped (R268). -/
def popLoops (l : List LoopEnt) (depth : Nat) (target : Pc) : List LoopEnt :=
  l.filter fun e => decide (e.depth ≠ depth) || (decide (e.start ≤ target) && decide (target < e.stop))

/-- The return-stack depth that a cluster's loop entries record: only C has a return stack (R268, R269). -/
def State.loopDepth (s : State) : Nat := if s.cur.cl = .c then s.cc.ret.length else 0

/-- A taken BR or JMP (R266, R268). -/
def branchTo (target : Pc) (s : State) : Eff :=
  .jump (s.modCcl fun y => { y with loops := popLoops y.loops s.loopDepth target }) target 2

/-- A return address pushed; the push onto 16 entries faults (R269). -/
def pushRet (s : State) (k : State → Eff) : Eff :=
  if 16 ≤ s.cc.ret.length then s.flt .returnStack
  else k (s.modCc fun x => { x with ret := (x.c.pc + 1) :: x.ret })

/-- JMP (R269). -/
def execJmp (h : Hdr) (f : RR) (s : State) : Host.Outcome State Fault Refusal :=
  word .c h (fun s => srcs .c true [f.a] (fun l s =>
    let target : Pc := (arg l 0).extractLsb' 3 19
    if f.f.getLsbD 0 then pushRet s (branchTo target)
    else branchTo target s) s) s

/-- The target of a BR-format word: DISP words from its own (R245). -/
def State.brTarget (s : State) (f : BrF) : Pc := s.ccl.pc + f.disp.truncate 19

/-- CALL (R269). -/
def execCall (h : Hdr) (f : BrF) (s : State) : Host.Outcome State Fault Refusal :=
  word .c h (fun s =>
    if f.bk ≠ 0 ∨ f.z ≠ 0 then s.reserved
    else
      let target := s.brTarget f
      pushRet s fun s => .jump s target 2) s

/-- RET (R268, R269). -/
def execRet (h : Hdr) (f : BrF) (s : State) : Host.Outcome State Fault Refusal :=
  word .c h (fun s =>
    if f.bk ≠ 0 ∨ f.z ≠ 0 then s.reserved
    else
      match s.cc.ret with
      | [] => s.flt .returnStack
      | p :: r =>
        .jump (s.modCc fun x =>
          { x with ret := r, c := { x.c with loops := x.c.loops.filter fun e => decide (e.depth ≤ r.length) } }) p 2) s

/-! ## Semaphore words -/

/-- The semaphore a word names: IMM32[7:0] (R271). -/
def semNum (f : RI) : BitVec 8 := f.imm.truncate 8

/-- The scope SC of a semaphore word: F5[1:0] (R168, R271). -/
def semScope (f : RI) : Nat := f.f5.toNat % 4

/-- A semaphore word that waits for nothing leaves for the file: it lands from the next rc on (R272). -/
def semLeave (f : RI) (op : SemOp) (s : State) : Eff :=
  waitFor (.sem (semNum f).toNat) (land s.cur.tile (s.now + 1) (semNum f) s.cur.core op s)

/-- A semaphore word whose answer, once there, is used by k (R271, R272). -/
def semWord (h : Hdr) (f : RI) (enc : Bool) (cs : List (BitVec 7)) (op : List Word → SemOp)
    (k : Ans → State → State) (s : State) : Host.Outcome State Fault Refusal :=
  word .c h (fun s =>
    match s.ccl.req with
    | none => srcs .c enc cs (fun l s => semLeave f (op l) s) s
    | some _ => withAns s fun a s => .done (k a s)) s

/-- A semaphore word that is a release: it first waits for the accesses it orders (R191, R273), and lands in the rc
in which that wait ends. -/
def semRelease (h : Hdr) (f : RI) (enc : Bool) (cs : List (BitVec 7)) (op : Word → SemOp)
    (k : Ans → State → State) (s : State) : Host.Outcome State Fault Refusal :=
  word .c h (fun s =>
    match s.ccl.req with
    | none =>
      srcs .c enc cs (fun l s =>
        if s.releaseDone (s.cc.knows s.ct.jobCtr .c) (semScope f) then semLeave f (op (arg l 0)) s else waitFor (.leave (arg l 0)) s) s
    | some (.leave v) =>
      if s.releaseDone s.ccl.since (semScope f) then
        let s := land s.cur.tile s.now (semNum f) s.cur.core (op v) s
        .wait (s.modCcl fun y => { y with req := some (.sem (semNum f).toNat) })
      else .wait s
    | some _ => withAns s fun a s => .done (k a s)) s

/-- One engine cycle of a wait on a semaphore, counted (R54). -/
def semStall (s : State) : State :=
  match s.ccl.req, s.ccl.ans with
  | some (.sem _), none => s.count s.cur.tile 0x0A (some s.cur.core) 1
  | _, _ => s

/-- SEMSIG (R271, R273, R452). -/
def execSemsig (h : Hdr) (f : RI) (s : State) : Host.Outcome State Fault Refusal :=
  semRelease h f true [f.a] (fun v => .sig v) (fun _ s => s) s

/-- SEMWAIT (R188, R271): D receives COUNT after the decrement. -/
def execSemwait (h : Hdr) (f : RI) (s : State) : Host.Outcome State Fault Refusal :=
  semWord h f (dstOk .c f.d) [f.a] (fun l => .wait (arg l 0)) (fun a s => putRes .c 0 f.d f.w a.val s)
    (semStall { s with cur := { s.cur with cl := .c } })

/-- SEMTRY (R188, R271): the guard D tells of success. -/
def execSemtry (h : Hdr) (f : RI) (s : State) : Host.Outcome State Fault Refusal :=
  semWord h f (idxOk f.d) [f.a] (fun l => .try (arg l 0)) (fun a s => putGuard .c 0 f.d.toNat a.ok s) s

/-- SEMSET (R271, R274): F5[2] is the mode; a phase barrier that expects no arrival faults at issue. -/
def execSemset (h : Hdr) (f : RI) (s : State) : Host.Outcome State Fault Refusal :=
  word .c h (fun s =>
    match s.ccl.req with
    | none =>
      srcs .c true [f.a] (fun l t =>
        if f.f5.getLsbD 2 && (arg l 0).truncate 16 == (0 : BitVec 16) then s.reserved
        else semLeave f (.set (f.f5.getLsbD 2) (arg l 0)) t) s
    | some _ => withAns s fun _ s => .done s) s

/-- SEMRD (R271): F5[4:2] selects the word, or 4 the mode. -/
def execSemrd (h : Hdr) (f : RI) (s : State) : Host.Outcome State Fault Refusal :=
  semWord h f (dstOk .c f.d && decide (f.f5.toNat / 4 ≤ 4)) [] (fun _ => .rd (f.f5.extractLsb' 2 3))
    (fun a s => putRes .c 0 f.d f.w a.val s) s

/-- BARRIVE (R189, R190, R191): D receives the token. -/
def execBarrive (h : Hdr) (f : RI) (s : State) : Host.Outcome State Fault Refusal :=
  semRelease h f (dstOk .c f.d) [] (fun _ => .arrive) (fun a s => putRes .c 0 f.d f.w a.val s) s

/-- BEXPECT (R189, R271, R452). -/
def execBexpect (h : Hdr) (f : RI) (s : State) : Host.Outcome State Fault Refusal :=
  semWord h f true [f.a] (fun l => .expect (arg l 0)) (fun _ s => s) s

/-- BWAIT (R190, R271): D receives PHASE at completion. -/
def execBwait (h : Hdr) (f : RI) (s : State) : Host.Outcome State Fault Refusal :=
  semWord h f (dstOk .c f.d) [f.a] (fun l => .bwait (arg l 0)) (fun a s => putRes .c 0 f.d f.w a.val s)
    (semStall { s with cur := { s.cur with cl := .c } })

/-! ## Iterations, exit, safe points -/

/-- NLOOP of a nest record (R65). -/
def nestLoops (r : List DWord) : Nat := (r.getD 0 0).toNat % 16

/-- BOUND, STEP and ORDER of loop j (R65). -/
def nestBound (r : List DWord) (j : Nat) : Nat := (r.getD (2 + j) 0).toNat / 2 ^ 32
/-- STEP of loop j. -/
def nestStep (r : List DWord) (j : Nat) : Nat := (r.getD (2 + j) 0).toNat / 2 ^ 16 % 2 ^ 16
/-- ORDER of loop j. -/
def nestOrder (r : List DWord) (j : Nat) : Nat := (r.getD (2 + j) 0).toNat % 8

/-- The trip count of loop j: ceil(BOUND / STEP) (R66). -/
def nestTrip (r : List DWord) (j : Nat) : Nat := (nestBound r j + nestStep r j - 1) / nestStep r j

/-- T, the product of the trip counts (R67). -/
def nestTotal (r : List DWord) : Nat :=
  if r.isEmpty then 0 else (List.range (nestLoops r)).foldl (fun n j => n * nestTrip r j) 1

/-- CMASK's bit of logical core k (R65). -/
def nestHas (r : List DWord) (k : CoreId) : Bool := (r.getD 0 0).getLsbD (16 + k.val)

/-- s[56 + j] for the loops of a nest, from rank r - 1 down (R67). -/
def iterRegs (r : List DWord) : Nat → Nat → Tbl Word → Tbl Word
  | 0, _, regs => regs
  | n + 1, rem, regs =>
    let j := ((List.range (nestLoops r)).find? fun j => nestOrder r j == n).getD 0
    let c := rem % nestTrip r j
    iterRegs r n (rem / nestTrip r j) (regs.set (56 + j) (BitVec.ofNat 32 (c * nestStep r j)))

/-- The C registers of a core that receives iteration `ord` (R67). -/
def giveIteration (r : List DWord) (ord : Nat) (k : CoreId) (regs : Tbl Word) : Tbl Word :=
  let regs := (List.range 6).foldl (fun g j => g.set (56 + j) 0) regs
  let regs := iterRegs r (nestLoops r) ord regs
  (regs.set 62 (BitVec.ofNat 32 ord)).set 63 (BitVec.ofNat 32 k.val)

/-- ITER (R68, R69, R275). -/
def execIter (h : Hdr) (f : RI) (s : State) : Host.Outcome State Fault Refusal :=
  word .c h (fun s =>
    let nest := f.imm.toNat % 16
    match s.ccl.req with
    | none =>
      if f.d = 0 ∨ 7 < f.d.toNat then s.reserved
      else
        let s := s.modCt fun x =>
          { x with walkq := x.walkq ++ [{ cyc := s.now / 2, core := s.cur.core, nest := nest }] }
        waitFor .walker (s.dueT (2 * (s.now / 2) + 2) s.cur.tile .walkerCycle)
    | some _ =>
      withAns s fun a s =>
        let t := s.deliverAt .c 0
        let s := if a.ok then
            s.modCc fun x =>
              let x := (List.range 8).foldl (fun x j => x.keep .c (56 + j) (BitVec.ofNat 2048 0xFFFFFFFF) s.now t) x
              { x with s := giveIteration (s.ct.nests.get nest []) a.val.toNat s.cur.core x.s }
          else s
        let v : Word := if a.ok then a.val else 0xFFFFFFFF
        .done (s.modCc fun x => (x.modClu .c fun y => (y.setGuard f.d.toNat a.ok).push v).owe .c
          (if a.ok then (List.range 8).map fun j => 56 + j else []) true t)) s

/-- The clusters of the core that issues now stopped after their words (R78, R277). -/
def stopAfter (s : State) : State := s.modCc fun x => x.mapClu fun _ y => { y with stat := .stopped }

/-- EXIT (R78, R79, R430). -/
def execExit (h : Hdr) (f : RI) (s : State) : Host.Outcome State Fault Refusal :=
  word .c h (fun s =>
    if !h.sync then s.reserved
    else
      let n : BitVec 16 := f.imm.truncate 16
      let pc := s.ccl.pc
      .done ((stopAfter s).modCc fun x => { x with exited := some n, post := some (.exit n pc) })) s

/-- Entries of the live-map table of the task on a tile: the bytes of its LIVEMAP section (R82, R258). -/
def State.liveMaps (s : State) (t : TileId) : Nat :=
  match s.tileTask t with
  | none => 0
  | some x =>
    match x.img.sects.find? fun y => y.ty == 5 with
    | some y => y.size / 32
    | none => 0

/-- SAFEPT (R82, R429): an index beyond the table faults; the live map is kept for a stop after this bundle; in a
handler it has no effect (R418). -/
def execSafept (h : Hdr) (f : RI) (s : State) : Host.Outcome State Fault Refusal :=
  word .c h (fun s =>
    if !h.sync || decide (s.liveMaps s.cur.tile ≤ f.imm.toNat) then s.reserved
    else if s.cc.trap then .done s
    else .done (s.modCc fun x => { x with safeLast := some f.imm.toNat, liveMap := f.imm.toNat, issued := 0 })) s

/-- SEVT (R276). -/
def execSevt (h : Hdr) (f : RI) (s : State) : Host.Outcome State Fault Refusal :=
  word .c h (fun s =>
    .done (s.modCt fun x => { x with sevtPend := x.sevtPend ++ [(s.now, f.imm.toNat % 64)] })) s

/-! ## Traps -/

/-- TRAP (R278): it enters the handler after its bundle. -/
def execTrap (h : Hdr) (f : RI) (s : State) : Host.Outcome State Fault Refusal :=
  word .c h (fun s =>
    if !h.sync then s.reserved
    else
      let pc := s.ccl.pc
      .done (s.modCc fun x => { x with post := some (.trap (f.imm.truncate 8) pc) })) s

/-- ERET (R279, R352): it waits for the handler's queue, and the handler must have restored what it saved. -/
def execEret (h : Hdr) (_f : RR) (s : State) : Host.Outcome State Fault Refusal :=
  word .c h (fun s =>
    if !h.sync then s.reserved
    else if !s.cc.trap then s.flt .notInTrap
    else if s.cc.msaved && !s.cc.mrested then s.flt .handlerMatrix
    else if !s.cc.hxq.isEmpty then .stall 0
    else .done (s.modCc fun x => { x with post := some .eret })) s

/-- HALT (R277). -/
def execHalt (h : Hdr) (_f : RR) (s : State) : Host.Outcome State Fault Refusal :=
  word .c h (fun s =>
    if !h.sync then s.reserved else .done ((stopAfter s).modCc fun x => { x with halted := true })) s

/-! ## Special registers and divisors -/

/-- RDSR (R280, R283). -/
def execRdsr (h : Hdr) (f : RI) (s : State) : Host.Outcome State Fault Refusal :=
  word .c h (fun s =>
    let n := f.imm.toNat % 0x1000
    match srValue s n with
    | none => s.reserved
    | some v =>
      if !dstOk .c f.d then s.reserved
      else if s.flagsWait n then .stall 0
      else .done (putRes .c 1 f.d f.w v (srLatch n s))) s

/-- WRSR (R280): a number not listed is reserved, a row with nothing to write faults with SR_WRITE. -/
def execWrsr (h : Hdr) (f : RI) (s : State) : Host.Outcome State Fault Refusal :=
  word .c h (fun s =>
    let n := f.imm.toNat % 0x1000
    srcs .c (srValue s n).isSome [f.a] (fun l t =>
      if !srWritable n then s.flt .srWrite
      else if s.flagsWait n then .stall 0
      else .done (srWrite n (arg l 0) t)) s) s

/-- RDCNT (R284). -/
def execRdcnt (h : Hdr) (f : RR) (s : State) : Host.Outcome State Fault Refusal :=
  word .c h (fun s =>
    srcs .c (dstOk .c f.d) [f.a] (fun l s =>
      let n := 0x110 + 2 * ((arg l 0).toNat % 16) + (if f.f.getLsbD 0 then 1 else 0)
      .done (putRes .c 1 f.d f.w ((srValue s n).getD 0) (srLatch n s))) s) s

/-- Whether a divisor field is one that R285 gives. -/
def divOk (n : Nat) : Bool := n == 0 || (decide (2 ≤ n) && decide (n ≤ 16))

/-- CLKDIV (R228, R285): the cluster divisor holds from the next cycle on; MDIV waits for the matrix engine's step
boundary (R220). -/
def execClkdiv (h : Hdr) (f : RI) (s : State) : Host.Outcome State Fault Refusal :=
  word .c h (fun s =>
    let c := f.imm.toNat % 32
    let m := f.imm.toNat / 256 % 32
    if !h.sync || !divOk c || !divOk m then s.reserved
    else
      let s := if c = 0 ∨ c = s.cc.cdiv then s
        else
          let s := s.modCc fun x => x.setDiv s.now c
          if s.cc.pend.isEmpty then s else s.dueK s.now s.cur.tile s.cur.core .memoryPortApply
      .done (if m = 0 then s
        else
          (s.modCc fun x => { x with mdivNew := m }).dueK (s.cc.stepBoundary s.now) s.cur.tile s.cur.core
            .matrixDivisorChange)) s

end Sys2Proof.Machine
end

