-- ==== Sys2Proof/Machine/Common.lean ====
section
/-!
DEFINITION. The common group, the same in each cluster: BR, LOOP, XPUT, GOP and NOP (spec/10 R244, spec/11 R265 to
R270).
-/
namespace Sys2Proof.Machine

/-- A 32-bit source of a common word: in V, lane 0 of the operand (R267, R270). -/
def scalarSrc (enc : Bool) (c : BitVec 7) (k : Word → State → Eff) (s : State) : Eff :=
  if s.cur.cl = .v then vsrcs enc [] [(.int, c)] (fun l s => k (lane (rarg l 0) 0) s) s
  else srcs s.cur.cl enc [c] (fun l s => k (arg l 0) s) s

/-- The condition of BR on a 32-bit value (R266). -/
def brHolds (bk : Nat) (a : Word) : Bool :=
  match bk with
  | 0 => true
  | 1 => a == 0
  | 2 => a != 0
  | 3 => a.slt 0
  | 4 => !a.slt 0
  | 5 => (0 : Word).slt a
  | _ => !(0 : Word).slt a

/-- BR (R266, R268). -/
def execBr (h : Hdr) (f : BrF) (s : State) : Host.Outcome State Fault Refusal :=
  word s.cur.cl h (fun s =>
    let bk := f.bk.toNat
    let target := s.brTarget f
    if f.z ≠ 0 then s.reserved
    else if bk = 0 then branchTo target s
    else if s.cur.cl = .v then
      if bk ≤ 2 && idxOk f.a then
        reads .v [128 + f.a.toNat] [] (fun s =>
          let z := s.cc.mask f.a.toNat == 0
          if z == decide (bk = 1) then branchTo target s else .done s) s
      else s.reserved
    else
      srcs s.cur.cl (decide (bk ≤ 6)) [f.a] (fun l s =>
        if brHolds bk (arg l 0) then branchTo target s else .done s) s) s

/-- LOOP (R267, R268). -/
def execLoop (h : Hdr) (f : BrF) (s : State) : Host.Outcome State Fault Refusal :=
  word s.cur.cl h (fun s0 =>
    scalarSrc (f.z == 0 && f.bk == 0 && decide (2 ≤ f.disp.toInt)) f.a (fun c s =>
      let pc := s.ccl.pc
      let stop := s.brTarget f
      let depth := s.loopDepth
      if 4 ≤ s.ccl.loops.length then s0.flt .loopDepth
      else
        match s.ccl.loops.head? with
        | some e =>
          if e.depth = depth ∧ e.stop ≤ stop then s0.reserved
          else if c = 0 then .jump s stop 0
          else
            .done (s.modCcl fun y =>
              { y with loops := { start := pc + 1, stop := stop, count := c, depth := depth } :: y.loops })
        | none =>
          if c = 0 then .jump s stop 0
          else
            .done (s.modCcl fun y =>
              { y with loops := { start := pc + 1, stop := stop, count := c, depth := depth } :: y.loops })) s0) s

/-- XPUT (R77, R270): it stalls while the named queue is full. -/
def execXput (h : Hdr) (f : RR) (s : State) : Host.Outcome State Fault Refusal :=
  word s.cur.cl h (fun s0 =>
    let dst := Cluster.ofCode f.d.toNat
    scalarSrc (decide (f.d.toNat < 4)) f.a (fun v s =>
      if 8 ≤ (s.cc.clu dst).xq.length then .stall 4
      else .done (s.modCc fun x => x.modClu dst fun y =>
          y.enq (4 * s.now + s0.cur.cl.code) v (s.cc.knows s.ct.jobCtr s0.cur.cl))) s0) s

/-- GOP (R265): gD := LUT[2 x gA + gB], without a push. -/
def execGop (h : Hdr) (f : RR) (s : State) : Host.Outcome State Fault Refusal :=
  word s.cur.cl h (fun s =>
    if idxOk f.d && idxOk f.a && idxOk f.b then
      let y := s.ccl
      let ix := (if y.guard f.a.toNat then 2 else 0) + if y.guard f.b.toNat then 1 else 0
      .done (s.modCcl fun y => y.setGuard f.d.toNat (f.f.getLsbD ix))
    else s.reserved) s

/-- NOP (R244): bits [51:0] are ignored. -/
def execNop (h : Hdr) (_f : BitVec 52) (s : State) : Host.Outcome State Fault Refusal :=
  word s.cur.cl h (fun s => .done s) s

end Sys2Proof.Machine
end

