-- ==== Sys2Proof/Machine/Convert.lean ====
section
/-!
DEFINITION. Conversion between the element formats of R113 (spec/05 R120 to R126, R139 to R142): one function for
every pair, the scale slots of MX rows, and the quantisation of a block.
-/
namespace Sys2Proof.Machine

/-- The width and the signedness of an integer format code (R113, R120). -/
def intFmt (code : Nat) : Option (Nat × Bool) :=
  match code with
  | 0x00 => some (8, true)
  | 0x01 => some (8, false)
  | 0x02 => some (16, true)
  | 0x03 => some (32, true)
  | 0x04 => some (32, false)
  | _ => none

/-- The floating format of a code (R113, R121). -/
def fltFmt (code : Nat) : Option FFmt :=
  match code with
  | 0x08 => some fp32
  | 0x09 => some fp16
  | 0x0A => some bf16
  | 0x0B => some e4m3
  | 0x0C => some e5m2
  | 0x18 => some acc48
  | _ => none

/-- The width of an element in bits, 0 for a code that R113 does not list. -/
def fmtWidth (code : Nat) : Nat :=
  match code with
  | 0x00 | 0x01 | 0x0B | 0x0C | 0x10 => 8
  | 0x02 | 0x09 | 0x0A => 16
  | 0x03 | 0x04 | 0x08 => 32
  | 0x11 => 6
  | 0x12 => 4
  | 0x18 => 48
  | _ => 0

/-- Whether a code is one of the block-scaled formats. -/
def isMx (code : Nat) : Bool := code == 0x10 || code == 0x11 || code == 0x12

/-- The signed value of the low w bits. -/
def sextNat (w x : Nat) : Int :=
  let v := x % 2 ^ w
  if 2 ^ (w - 1) ≤ v then (v : Int) - 2 ^ w else v

/-- The low w bits of an integer. -/
def truncInt (w : Nat) (v : Int) : Nat := (v % (2 ^ w : Nat)).toNat

/-- An integer as an exact value. -/
def intV (v : Int) : FV := .num (decide (v < 0)) v.natAbs 0

/-- The least and the greatest value of an integer format. -/
def intLimits (w : Nat) (signed : Bool) : Int × Int :=
  if signed then (-(2 ^ (w - 1) : Nat), (2 ^ (w - 1) : Nat) - 1) else (0, (2 ^ w : Nat) - 1)

/-- A value as an integer of a range, rounded and saturated (R139): a NaN gives 0. -/
def toIntRange (mode : Nat) (lo hi : Int) : FV → Int × Fl
  | .nan => (0, { nv := true })
  | .inf neg => (if neg then lo else hi, { nv := true })
  | .num neg m e =>
    let (r, ix) := roundTo mode neg m e 0
    let v : Int := if neg then -(r : Int) else r
    if v < lo then (lo, { nv := true })
    else if hi < v then (hi, { nv := true })
    else (v, { nx := ix })

/-- The exact value of an element of a format that is not block-scaled. -/
def elemValue (code x : Nat) : FV :=
  match intFmt code with
  | some (w, signed) => intV (if signed then sextNat w x else (x % 2 ^ w : Nat))
  | none =>
    match fltFmt code with
    | some f => f.decode x
    | none => .num false 0 0

/-- A value into a format that is not block-scaled, with its flags (R139, R140); `fromInt` marks an integer source,
which saturates without a flag. -/
def convTo (tgt mode : Nat) (sat fromInt : Bool) (v : FV) : Nat × Fl :=
  match intFmt tgt with
  | some (w, signed) =>
    let (lo, hi) := intLimits w signed
    let (r, fl) := toIntRange mode lo hi v
    (truncInt w r, if fromInt then {} else fl)
  | none =>
    match fltFmt tgt with
    | some f => f.round mode sat v
    | none => (0, {})

/-- CONVERSION of an element between two formats (R139). -/
def convert (src tgt mode : Nat) (sat : Bool) (x : Nat) : Nat × Fl :=
  convTo tgt mode sat (intFmt src).isSome (elemValue src x)

/-! ## MX blocks -/

/-- A scale slot of three nibbles decoded from the running scale (R125). -/
def slotScale (prev : Int) (n0 n1 n2 : Nat) : Int :=
  if n0 = 8 then sextNat 8 (n1 + 16 * n2) else sextNat 8 (truncInt 8 (prev + sextNat 4 n0))

/-- The three nibbles of a slot for scale s after prev, as a number of 12 bits (R141, step 6). -/
def slotBits (prev s : Int) : Nat :=
  let d := s - prev
  if -7 ≤ d ∧ d ≤ 7 then truncInt 4 d else 8 + 16 * (truncInt 8 s % 16) + 256 * (truncInt 8 s / 16)

/-- floor(log2 |x|) of a finite nonzero value. -/
def FV.log2? : FV → Option Int
  | .num _ m e => if m = 0 then none else some (e + Nat.log2 m)
  | _ => none

/-- The greater of two magnitudes that may be absent. -/
def maxLog (a b : Option Int) : Option Int :=
  match a, b with
  | some x, some y => some (max x y)
  | some x, none => some x
  | none, y => y

/-- The scale of a block of values for elements of w bits (R141, steps 1 to 3): floor(log2) of the largest magnitude is
the largest of the lanes' own. -/
def blockScale (w : Nat) (prev : Int) (xs : List FV) : Int :=
  match xs.foldl (fun a x => maxLog a x.log2?) none with
  | none => prev
  | some l => max (-128) (min 127 (l - (w - 2)))

/-- A value over 2^s. -/
def FV.scale (v : FV) (s : Int) : FV :=
  match v with
  | .num a m e => .num a m (e + s)
  | v => v

/-- An element of a block (R141, steps 4 and 5): its code and flags. A clamp raises NX. -/
def quantElem (w mode : Nat) (s : Int) (x : FV) : Nat × Fl :=
  let (lo, hi) := intLimits w true
  match x with
  | .num neg m e =>
    let (r, ix) := roundTo mode neg m (e - s) 0
    let v : Int := if neg then -(r : Int) else r
    let c := max lo (min hi v)
    (truncInt w c, { nx := ix || c != v })
  | x =>
    let (v, fl) := toIntRange mode lo hi x
    (truncInt w v, fl)

/-- The element width of an MX format code 0 to 2 of VQUANT and VDEQ (R304). -/
def mxWidth (code : Nat) : Nat :=
  match code with
  | 0 => 8
  | 1 => 6
  | _ => 4

end Sys2Proof.Machine
end

