-- ==== Sys2Proof/Machine/Translate.lean ====
section
/-!
DEFINITION. Translation of virtual addresses (spec/04 R98 to R102), leases (R62), the conversion of logical tile and
core numbers (R90), and the checks of a place (R89, R91, R94, R443).
-/
namespace Sys2Proof.Machine

/-- What a virtual address comes to: an MPA of this module, an address behind window w, or a fault with its EXTRA
and its ADDR (R437). -/
inductive Tr where
  | loc (mpa : Nat)
  | win (w : Nat) (mpa : Nat)
  | bad (code : FaultCode) (extra : DWord) (addr : Bool × Va)
  deriving DecidableEq, Repr, Inhabited

/-- EXTRA of LEASE_VIOLATION: the permissions missing (R437). -/
def permBits (rd wr : Bool) : DWord := (if rd then 1 else 0) + if wr then 2 else 0

/-- The lease range of the tile's task that covers an address on the tile (R61, R62). -/
def State.leaseAt (s : State) (t : TileId) (va : Nat) : Option Lease :=
  (s.tileTask t).bind fun x =>
    x.leases.find? fun l => l.tix == (s.tile t).ltile.toNat && decide (l.va ≤ va) && decide (va < l.va + l.size)

/-- The base of window w in the virtual space, in bytes (R106). -/
def Win.base (w : Win) : Nat := w.lbase.toNat * 2 ^ 21

/-- Whether a window holds an address (R98, step 2). -/
def Win.holds (w : Win) (va : Nat) : Bool :=
  w.v && decide (w.base ≤ va) && decide (va < w.base + w.size.toNat * 2 ^ 21)

/-- The lowest window that holds an address (R98, step 2). -/
def Tile.winAt (x : Tile) (va : Nat) : Option Nat := x.wins.keys.find? fun w => (x.wins.get w {}).holds va

/-- The physical core of logical core c of a physical tile, or one that is not present (R90, R91). -/
def Tile.coreField (x : Tile) (c : Nat) : Nat :=
  (x.physCore c).getD (((List.range 16).find? fun p => !x.present.getLsbD p).getD c)

/-- An on-die MPA with its logical tile and core numbers turned into physical ones (R90, R98): the core field of the
kinds that belong to a core. -/
def State.dieMpa (s : State) (t : TileId) (lt lc kind off : Nat) : Option Nat :=
  (s.physTile t lt).map fun u => onDieMpa u.val (if kind ≤ 2 then (s.tile u).coreField lc else lc) kind off

/-- An MPA whose tile and core fields are logical, for the task on tile t, as a physical one (R90); none where the
tile is not bound. -/
def State.physMpa (s : State) (t : TileId) (mpa : Nat) : Option Nat :=
  if mpa < 0x020000000000 then
    (s.physTile t (mpa / 2 ^ 36)).map fun u => u.val * 2 ^ 36 + mpa % 2 ^ 36
  else if 0x800000000000 ≤ mpa ∧ mpa < 0x900000000000 then
    s.dieMpa t (mpa / 2 ^ 39 % 32) (mpa / 2 ^ 35 % 16) (mpa / 2 ^ 32 % 8) (mpa % 2 ^ 32)
  else some mpa

/-- An address through the heap triple or the TLB, checked against the lease (R62, R98, R99). -/
def State.leased (s : State) (t : TileId) (va : Nat) (rd wr : Bool) (mpa : Lease → Option Nat) : Tr :=
  match s.leaseAt t va with
  | none => .bad .leaseViolation (permBits rd wr) (false, BitVec.ofNat 60 va)
  | some l =>
    if (rd && !l.rd) || (wr && !l.wr) then
      .bad .leaseViolation (permBits (rd && !l.rd) (wr && !l.wr)) (false, BitVec.ofNat 60 va)
    else
      match mpa l with
      | some p => .loc p
      | none => .bad .leaseViolation (permBits rd wr) (false, BitVec.ofNat 60 va)

/-- TRANSLATION (R98): the first step that matches. -/
def State.translate (s : State) (t : TileId) (k : CoreId) (va : Nat) (rd wr : Bool) : Tr :=
  if va < 0x400000 then .loc (s.padMpa t k va)
  else
    match (s.tile t).winAt va with
    | some w =>
      let x := (s.tile t).wins.get w {}
      .win w (x.tbase.toNat * 2 ^ 21 + (va - x.base))
    | none =>
      if va / 2 ^ 48 = 0xFFF then
        if va / 2 ^ 44 % 16 ≠ 8 then .bad .mpaHole 0 (false, BitVec.ofNat 60 va)
        else
          match s.dieMpa t (va / 2 ^ 39 % 32) (va / 2 ^ 35 % 16) (va / 2 ^ 32 % 8) (va % 2 ^ 32) with
          | none => .bad .leaseViolation (permBits rd wr) (false, BitVec.ofNat 60 va)
          | some p => .loc p
      else
        let c := s.core t k
        let g := va / 2 ^ 30
        if c.heapbase.toNat ≤ g ∧ g < c.heaplimit.toNat then
          s.leased t va rd wr fun _ =>
            some ((g - c.heapbase.toNat + c.heapoff.toNat) % 2 ^ 18 * 2 ^ 30 + va % 2 ^ 30)
        else s.leased t va rd wr fun l => l.mpa.map fun p => p + (va - l.va)

/-- The place of a local access of a tile agent checked: a hole, on-die space that agents may not write, a register
file of a core that has stopped (R89, R91, R94). -/
def State.checkPlace (s : State) (mpa : Nat) (va : Va) (rd wr : Bool) : Tr :=
  match s.place mpa with
  | .hole => .bad .mpaHole (BitVec.ofNat 64 mpa) (false, va)
  | .onDie u c kind _ =>
    if kind = 5 ∨ (3 ≤ kind ∧ wr) then .bad .onDieReadonly (BitVec.ofNat 64 kind) (true, BitVec.ofNat 60 mpa)
    else if kind = 2 ∧ (s.core u (s.dieCore u c)).stopped then .bad .leaseViolation (permBits rd wr) (false, va)
    else .loc mpa
  | _ => .loc mpa

/-- A local or remote address with its place checked (R98, R322). -/
def State.access (s : State) (t : TileId) (k : CoreId) (va : Nat) (rd wr : Bool) : Tr :=
  match s.translate t k va rd wr with
  | .loc p => s.checkPlace p (BitVec.ofNat 60 va) rd wr
  | o => o

/-! ## Uncorrectable data and watermarks -/

/-- The MPA of a semaphore of a tile (R91, R187). -/
def semMpa (t : TileId) (n : Nat) : Nat := onDieMpa t.val 0 3 (16 * n)

/-- The bytes of a granule of memory or of a shape table, by its first byte (R441). -/
def granuleSize (mpa : Nat) : Nat :=
  if 0x800000000000 ≤ mpa ∧ mpa < 0x900000000000 ∧ mpa / 2 ^ 32 % 8 = 4 then 64 else 32

/-- The accumulator elements of a core found uncorrectable, by their first bytes in the banks (R92, R441). -/
def Core.badElems (x : Core) : List Nat := x.badAcc.map fun i => i / 4096 * 0x6000 + i % 4096 * 6

/-- The registers of a core found uncorrectable, as places of the register files and their bytes (R93, R441). -/
def Core.badFiles (x : Core) : List (Nat × Nat) :=
  [Cluster.c, .v, .m, .e].flatMap fun cl => (x.clu cl).badRegs.map (regSpan cl)

/-- The uncorrectable granules of the store that an MPA lies in, each as its MPA and its bytes (R441). -/
def State.granules (s : State) (mpa : Nat) : List (Nat × Nat) :=
  match s.place mpa with
  | .onDie t c 1 off => (s.core t (s.dieCore t c)).badElems.map fun i => (mpa - off + i, 6)
  | .onDie t c 2 off => (s.core t (s.dieCore t c)).badFiles.map fun g => (mpa - off + g.1, g.2)
  | .onDie t _ 3 _ => (s.tile t).badSems.map fun m => (semMpa t m.toNat, 16)
  | _ => s.bad.map fun g => (g, granuleSize g)

/-- Whether a granule shares a byte with a range. -/
def granuleMeets (mpa n : Nat) (g : Nat × Nat) : Bool := decide (g.1 < mpa + n) && decide (mpa < g.1 + g.2)

/-- Whether a range covers a granule. -/
def granuleIn (mpa n : Nat) (g : Nat × Nat) : Bool := decide (mpa ≤ g.1) && decide (g.1 + g.2 ≤ mpa + n)

/-- The first uncorrectable granule that a read of a range meets, as its MPA (R441, R443). -/
def State.badIn (s : State) (mpa n : Nat) : Option Nat := ((s.granules mpa).find? (granuleMeets mpa n)).map Prod.fst

/-- The first uncorrectable granule that a write of a range rewrites in part only, as its MPA (R441, R443). -/
def State.badPart (s : State) (mpa n : Nat) : Option Nat :=
  ((s.granules mpa).find? fun g => granuleMeets mpa n g && !granuleIn mpa n g).map Prod.fst

/-- The store of R441 that an MPA lies in. -/
def State.storeCode (s : State) (mpa : Nat) : Nat :=
  match s.place mpa with
  | .onDie _ _ kind _ =>
    match kind with
    | 0 => 1
    | 1 => 2
    | 2 => 4
    | 3 => 5
    | 4 => 6
    | _ => 0
  | _ => 0

/-- Every granule of memory, or of a shape table, that a range rewrites whole: its error is gone (R443). Those of registers and
accumulators go with their writes. -/
def State.heal (s : State) (mpa n : Nat) : State :=
  { s with bad := s.bad.filter fun g => !granuleIn mpa n (g, granuleSize g) }

/-- The first uncorrectable granule that a list of bytes reads (R443). -/
def badRead (s : State) (l : List Nat) : Option Nat := l.findSome? fun m => s.badIn m 1

/-- Whether a granule lies whole in a list of bytes. -/
def granuleAmong (l : List Nat) (g : Nat × Nat) : Bool := (List.range g.2).all fun i => l.contains (g.1 + i)

/-- The first uncorrectable granule that a list of bytes writes in part only (R443). -/
def badWrite (s : State) (l : List Nat) : Option Nat :=
  l.findSome? fun m => ((s.granules m).find? fun g => granuleMeets m 1 g && !granuleAmong l g).map Prod.fst

/-- The granules that a list of bytes rewrites whole are good again (R443). -/
def healBytes (l : List Nat) (s : State) : State :=
  if s.bad.isEmpty then s else { s with bad := s.bad.filter fun g => !granuleAmong l (g, granuleSize g) }

/-- Whether an MPA lies in [watermark, hi) of a channel of the tile (R118). -/
def Tile.behindMark (x : Tile) (mpa : Nat) : Bool :=
  x.chans.rows.any fun c =>
    match c.2.wm with
    | some (w, hi, _) => decide (w ≤ mpa) && decide (mpa < hi)
    | none => false

/-! ## Performing -/

/-- A row performed at its home (R181): written, counted, its granules healed. -/
def performRow (mpa : Nat) (r : Row) (s : State) : State :=
  countWrite mpa 256 ((s.heal (mpa / 256 * 256) 256).writeRow mpa r)

/-- A word performed at its home (R181). -/
def performWord (mpa : Nat) (w : Word) (s : State) : State := countWrite mpa 4 ((s.heal (mpa / 4 * 4) 4).writeWord mpa w)

end Sys2Proof.Machine
end

