-- ==== Sys2Proof/Machine/Shape.lean ====
section
/-!
DEFINITION. Shape records: their fields, validity and generations (spec/04 R112 to R116, spec/15 R340), where their
elements and scales lie (R114, R124), and the reading and writing of elements (R123 to R126).
-/
namespace Sys2Proof.Machine

/-! ## Fields -/

/-- A shape record as its 64 bytes (R112). -/
abbrev Recd := BitVec 512

/-- BASE. -/
def recBase (r : Recd) : Nat := (r.extractLsb' 0 60).toNat
/-- SIZEd. -/
def recSize (r : Recd) (d : Nat) : Nat := (r.extractLsb' (64 + 16 * d) 16).toNat
/-- STRIDEd, in elements. -/
def recStride (r : Recd) (d : Nat) : Int := (r.extractLsb' (192 + 24 * d) 24).toInt
/-- SPPITCH. -/
def recPitch (r : Recd) : Nat := (r.extractLsb' 392 24).toNat
/-- SPOFF. -/
def recOff (r : Recd) : Int := (r.extractLsb' 416 32).toInt
/-- RGNV. -/
def recRgnv (r : Recd) : Bool := r.getLsbD 487
/-- REGION. -/
def recRegion (r : Recd) : Nat := (r.extractLsb' 488 3).toNat
/-- MX. -/
def recMx (r : Recd) : Bool := r.getLsbD 491
/-- MXAX. -/
def recAxis (r : Recd) : Nat := (r.extractLsb' 492 3).toNat
/-- RANK. -/
def recRank (r : Recd) : Nat := (r.extractLsb' 495 4).toNat
/-- FMT. -/
def recFmt (r : Recd) : Nat := (r.extractLsb' 499 5).toNat
/-- BSCALE. -/
def recBscale (r : Recd) : Int := (r.extractLsb' 504 8).toInt

/-- The width of an element in bits. -/
def recW (r : Recd) : Nat := fmtWidth (recFmt r)

/-- The number of elements. -/
def recCount (r : Recd) : Nat := (List.range (recRank r)).foldl (fun n d => n * recSize r d) 1

/-- Whether FMT and MX meet R113. -/
def fmtOk (r : Recd) : Bool := fmtWidth (recFmt r) != 0 && recMx r == isMx (recFmt r)

/-- Whether the strides of a record of 4 or 6-bit elements meet R114. -/
def stridesOk (r : Recd) : Bool :=
  let w := recW r
  (w != 4 && w != 6) ||
    (recStride r 0 == 1 && (List.range (recRank r)).all fun d => d == 0 || (recStride r d * w) % 8 == 0)

/-- Whether a record is valid (R340). -/
def recValid (r : Recd) : Bool :=
  decide (1 ≤ recRank r) && decide (recRank r ≤ 8) && ((List.range (recRank r)).all fun d => recSize r d != 0) &&
    fmtOk r && stridesOk r && (!recMx r || decide (recAxis r < recRank r)) && r.extractLsb' 60 4 == 0 &&
    r.extractLsb' 384 8 == 0 && r.extractLsb' 448 39 == 0

/-! ## Handles -/

/-- The slot of a handle (R115). -/
def hSlot (h : Word) : Nat := (h.extractLsb' 0 12).toNat
/-- The generation of a handle. -/
def hGen (h : Word) : BitVec 20 := h.extractLsb' 12 20

/-- The generation after g (R115). -/
def nextGen (g : BitVec 20) : BitVec 20 := if g = 0xFFFFF then 1 else g + 1

/-- Whether a handle is stale (R115). -/
def Tile.stale (x : Tile) (h : Word) : Bool := hGen h == 0 || hGen h != (x.shapes.get (hSlot h) {}).gen

/-- The record a handle names. -/
def Tile.record (x : Tile) (h : Word) : Recd := (x.shapes.get (hSlot h) {}).recd

/-- EXTRA of SHAPE_STALE (R437). -/
def Tile.staleExtra (x : Tile) (h : Word) : DWord :=
  (0 : BitVec 12) ++ (x.shapes.get (hSlot h) {}).gen ++ h

/-! ## Geometry -/

/-- The index in dimension d of element n of the stream, dimension 0 fastest (R355). -/
def elemIx (r : Recd) : Nat → Nat → Nat
  | 0, n => n % recSize r 0
  | d + 1, n => (n / (List.range (d + 1)).foldl (fun p e => p * recSize r e) 1) % recSize r (d + 1)

/-- The bit address of the element of an index (R114). -/
def elemBit (r : Recd) (ix : Nat → Nat) : Int :=
  8 * (recBase r : Int) + recW r * (List.range (recRank r)).foldl (fun a d => a + (ix d : Int) * recStride r d) 0

/-- The bit address of element n of the stream. -/
def streamBit (r : Recd) (n : Nat) : Int := elemBit r fun d => elemIx r d n

/-- The bit address of element (i, j) of a record of rank 2, i in dimension 0. -/
def bitAt (r : Recd) (i j : Nat) : Int := elemBit r fun d => if d = 0 then i else if d = 1 then j else 0

/-- The first and the last byte that the elements of a record touch. -/
def recSpan (r : Recd) : Int × Int :=
  let ds := List.range (recRank r)
  let ext (d : Nat) : Int := ((recSize r d : Int) - 1) * recStride r d
  let lo := ds.foldl (fun a d => a + min 0 (ext d)) 0
  let hi := ds.foldl (fun a d => a + max 0 (ext d)) 0
  let b := 8 * (recBase r : Int)
  ((b + recW r * lo) / 8, (b + recW r * hi + recW r - 1) / 8)

/-- Rows of an MX tensor: the product of the extents other than that of MXAX (R124). -/
def mxRows (r : Recd) : Nat :=
  (List.range (recRank r)).foldl (fun n d => if d = recAxis r then n else n * recSize r d) 1

/-- Blocks of a row (R124). -/
def mxBlocks (r : Recd) : Nat := (recSize r (recAxis r) + 31) / 32

/-- The byte of nibble n of row ρ (R124). -/
def nibbleByte (r : Recd) (row n : Nat) : Int := (recBase r : Int) + recOff r + row * recPitch r + n / 2

/-- The first and the last byte of the scale plane. -/
def scaleSpan (r : Recd) : Int × Int := (nibbleByte r 0 0, nibbleByte r (mxRows r - 1) (3 * mxBlocks r - 1))

/-- Whether every row of a span of the scratchpad lies in a region of the core (R103, R114). -/
def inRegion (x : Core) (n : Nat) (lo hi : Int) : Bool :=
  let v := x.rgn.get n 0
  let base : Int := (v.extractLsb' 16 14).toNat
  let rows : Int := (v.extractLsb' 40 16).toNat
  v.getLsbD 63 && decide (base ≤ lo / 256) && decide (hi / 256 < base + rows)

/-- Whether a span lies in the core's own scratchpad. -/
def inPad (sp : Int × Int) : Bool := decide (0 ≤ sp.1) && decide (sp.2 < 0x400000)

/-- The first element, in stream order, one of whose bytes fails a test, as its byte address. -/
def firstBad (r : Recd) (bad : Int → Bool) : Nat → Nat → Option Int
  | 0, _ => none
  | n + 1, i =>
    let a := streamBit r i
    if bad (a / 8) then some (a / 8)
    else if bad ((a + recW r - 1) / 8) then some ((a + recW r - 1) / 8) else firstBad r bad n (i + 1)

/-- A byte address as a virtual address. -/
def vaOf (a : Int) : Va := BitVec.ofInt 60 a

/-! ## Elements -/

/-- w bits from a bit address of local memory, through a map from byte addresses to MPAs. -/
def State.bitsAt (s : State) (mpa : Int → Nat) (a : Int) (w : Nat) : Nat :=
  let b := a / 8
  let n := ((a % 8).toNat + w + 7) / 8
  let v := leNat ((List.range n).map fun (i : Nat) => s.readByte (mpa (b + (i : Nat))))
  v / 2 ^ (a % 8).toNat % 2 ^ w

/-- The state with w bits written at a bit address; the other bits of its bytes keep their values (R123, R348). -/
def State.putBits (s : State) (mpa : Int → Nat) (a : Int) (w v : Nat) : State :=
  let b := a / 8
  let sh := (a % 8).toNat
  let n := (sh + w + 7) / 8
  let old := leNat ((List.range n).map fun (i : Nat) => s.readByte (mpa (b + (i : Nat))))
  let new := old - (old / 2 ^ sh % 2 ^ w) * 2 ^ sh + v % 2 ^ w * 2 ^ sh
  ((List.range n).foldl (fun (p : State × Nat) (i : Nat) =>
    (p.1.writeByte (mpa (b + (i : Nat))) (BitVec.ofNat 8 p.2), p.2 / 256)) (s, new)).1

/-- The byte of a core's own scratchpad at a virtual address. -/
def State.padAt (s : State) (t : TileId) (k : CoreId) (a : Int) : Nat := s.padMpa t k a.toNat

/-- Nibble n of row ρ of a record's scale plane (R124). -/
def State.nibble (s : State) (mpa : Int → Nat) (r : Recd) (row n : Nat) : Nat :=
  (s.readByte (mpa (nibbleByte r row n))).toNat / 16 ^ (n % 2) % 16

/-- The scales of blocks b, b + 1, … of a row, from the running scale on (R125). -/
def rowScales (nib : Nat → Nat) : Nat → Nat → Int → List Int
  | 0, _, _ => []
  | n + 1, b, prev =>
    let s := slotScale prev (nib (3 * b)) (nib (3 * b + 1)) (nib (3 * b + 2))
    s :: rowScales nib n (b + 1) s

/-- The scales of a row of a record (R125). -/
def State.scalesOf (s : State) (mpa : Int → Nat) (r : Recd) (row : Nat) : List Int :=
  rowScales (s.nibble mpa r row) (mxBlocks r) 0 (recBscale r)

end Sys2Proof.Machine
end

