-- ==== Sys2Proof/Machine/EArith.lean ====
section
/-!
DEFINITION. The register words and the shape-table words of the E cluster (spec/15 R339 to R343).
-/
namespace Sys2Proof.Machine

/-! ## Register words -/

/-- A 32-bit word of the E cluster (R339). -/
def eAlu (h : Hdr) (d : BitVec 7) (w : Bool) (cs : List (BitVec 7)) (op : List Word → Word) (s : State) :
    Host.Outcome State Fault Refusal :=
  word .e h (srcs .e (dstOk .e d) cs fun l s => .done (putRes .e 1 d w (op l) s)) s

/-- EADD (R339). -/
def execEadd (h : Hdr) (f : RR) (s : State) : Host.Outcome State Fault Refusal :=
  eAlu h f.d f.w [f.a, f.b] (fun l => arg l 0 + arg l 1) s

/-- EADDI (R339). -/
def execEaddi (h : Hdr) (f : RI) (s : State) : Host.Outcome State Fault Refusal :=
  eAlu h f.d f.w [f.a] (fun l => arg l 0 + f.imm) s

/-- EMOV (R339). -/
def execEmov (h : Hdr) (f : RR) (s : State) : Host.Outcome State Fault Refusal :=
  eAlu h f.d f.w [f.a] (fun l => arg l 0) s

/-- EMOVI (R339). -/
def execEmovi (h : Hdr) (f : RI) (s : State) : Host.Outcome State Fault Refusal :=
  eAlu h f.d f.w [] (fun _ => f.imm) s

/-- ECMP (R339). -/
def execEcmp (h : Hdr) (f : RR) (s : State) : Host.Outcome State Fault Refusal :=
  word .e h (srcs .e (idxOk f.d && decide (f.f.toNat % 16 ≤ 10)) [f.a, f.b] fun l s =>
    .done (putGuard .e 1 f.d.toNat (condHolds (f.f.toNat % 16) (arg l 0) (arg l 1)) s)) s

/-! ## Table words -/

/-- Whether every M store of the core with a place below n to a row of its own scratchpad is performed (R340, R373). -/
def padReady (s : State) (n off : Nat) : Bool :=
  let row := s.padMpa s.cur.tile s.cur.core off / 256
  s.cc.pend.all fun p => decide (n ≤ p.ord) || p.win.isSome || p.group.isSome || decide (p.mpa / 256 ≠ row)

/-- The request of a table word of the E cluster for the row of its scratchpad that it reads (R105). -/
def askTable (row : Option Nat) (s : State) : State :=
  match row with
  | some off => askRows (asUnit .e) [s.padMpa s.cur.tile s.cur.core off] s
  | none => s

/-- Whether that row's bank serves others first. -/
def tableBusy (row : Option Nat) (s : State) : Bool :=
  row.any fun off => s.bankWait (asUnit .e) (s.padMpa s.cur.tile s.cur.core off) != 0

/-- A WORD OF A TABLE OF THE TILE (R343, R373): its operands are read when it issues; it holds the E cluster for n
engine cycles and until `ready`, and takes effect then. The scratchpad row that it reads, if `row` names one, is asked for as it
issues; every bank cycle that it is not served makes the word longer (R105). -/
def tableWord (h : Hdr) (n : Nat) (enc : Bool) (cs : List (BitVec 7)) (ready : Nat → Word → Word → State → Bool)
    (row : Word → Option Nat) (go : Word → Word → State → Eff) (s : State) : Host.Outcome State Fault Refusal :=
  word .e h (fun s =>
    match s.ccl.req with
    | none =>
      srcs .e enc cs (fun l s =>
        let busy := tableBusy (row (arg l 1)) s
        let s := askTable (row (arg l 1)) s
        if decide (n = 0) && !busy && ready (s.cc.knows s.ct.jobCtr .e).m (arg l 0) (arg l 1) s then go (arg l 0) (arg l 1) s
        else waitUntil (.shape (arg l 0) (arg l 1)) (some { due := ecAfter s.now s.cc.cdiv n }) s) s
    | some (.shape a b) =>
      if (s.ccl.ans.all fun x => decide (x.due ≤ s.now)) && ready s.ccl.since.m a b s then go a b s else .wait s
    | some _ => .wait s) s

/-- The fault of uncorrectable data that a table word reads from the scratchpad (R443). -/
def padBad (s : State) (g : Nat) : Eff :=
  .fault { s.recNow .dataUncorrectable (BitVec.ofNat 64 (s.storeCode g)) with
    addr := some (true, BitVec.ofNat 60 g) }

/-- n bytes of the issuing core's scratchpad as a number, checked for uncorrectable data. -/
def padBytes (s : State) (off n : Nat) : Except Nat Nat :=
  let m := s.padMpa s.cur.tile s.cur.core off
  match s.badIn m n with
  | some g => .error g
  | none => .ok (leNat (s.readBytes m n))

/-- A slot of the tile's shape table written. -/
def putShape (n : Nat) (x : Shape) (s : State) : State := s.modCt fun t => { t with shapes := t.shapes.set n x }

/-- The MPA of a slot of a tile's shape table (R91, R115). -/
def slotMpa (t : TileId) (n : Nat) : Nat := onDieMpa t.val 0 4 (64 * n)

/-- SHSET (R340): it rewrites a slot found uncorrectable too (R444). -/
def execShset (h : Hdr) (f : RR) (s : State) : Host.Outcome State Fault Refusal :=
  tableWord h 2 (dstOk .e f.d) [f.a, f.b] (fun e _ b s => padReady s e ((b.extractLsb' 6 16).toNat * 64))
    (fun b => some ((b.extractLsb' 6 16).toNat * 64)) (fun a b s =>
      match padBytes s ((b.extractLsb' 6 16).toNat * 64) 64 with
      | .error g => padBad s g
      | .ok v =>
        let r : Recd := BitVec.ofNat 512 v
        if !recValid r then s.reserved
        else
          let n := hSlot a
          let g := nextGen (s.ct.shapes.get n {}).gen
          .done (putRes .e 0 f.d f.w (g ++ (BitVec.ofNat 12 n)) (putShape n { recd := r, gen := g } (s.heal (slotMpa s.cur.tile n) 64)))) s

/-- A field of n bits of a record replaced. -/
def recPut (r : Recd) (at' n : Nat) (v : Nat) : Recd :=
  (r &&& ~~~(BitVec.ofNat 512 ((2 ^ n - 1) * 2 ^ at'))) ||| BitVec.ofNat 512 (v % 2 ^ n * 2 ^ at')

/-- A record with the field of selector f set to b (R341); none for a selector that R341 does not list. -/
def shapeField (r : Recd) (f : Nat) (b : Word) : Option Recd :=
  let v := b.toNat
  if f = 0 then some (recPut r 0 32 v)
  else if f = 1 then some (recPut r 32 28 v)
  else if f ≤ 9 then (if v % 2 ^ 16 = 0 then none else some (recPut r (64 + 16 * (f - 2)) 16 v))
  else if f ≤ 17 then some (recPut r (192 + 24 * (f - 10)) 24 v)
  else if f = 18 then some (recPut r 416 32 v)
  else if f = 19 then some (recPut r 392 24 v)
  else if f = 20 then some (recPut r 504 8 v)
  else none

/-- SHMOD (R341): one field of a record, which it reads (R443); a selector not listed is an encoding error. -/
def execShmod (h : Hdr) (f : RR) (s : State) : Host.Outcome State Fault Refusal :=
  let sel := f.f.toNat % 32
  tableWord h 2 (dstOk .e f.d && decide (sel ≤ 20)) [f.a, f.b] (fun _ _ _ _ => true) (fun _ => none)
    (fun a b s =>
      if s.ct.stale a then s.flt .shapeStale (s.ct.staleExtra a)
      else
        let x := s.ct.shapes.get (hSlot a) {}
        match s.badIn (slotMpa s.cur.tile (hSlot a)) 64, shapeField x.recd sel b with
        | some g, _ => padBad s g
        | none, none => s.reserved
        | none, some r =>
          if fmtOk r && stridesOk r then
            .done (putRes .e 0 f.d f.w a (putShape (hSlot a) { x with recd := r } s))
          else s.reserved) s

/-- SHINV (R342). -/
def execShinv (h : Hdr) (f : RR) (s : State) : Host.Outcome State Fault Refusal :=
  tableWord h 2 true [f.a] (fun _ _ _ _ => true) (fun _ => none)
    (fun a _ s =>
      if s.ct.stale a then s.flt .shapeStale (s.ct.staleExtra a)
      else
        let x := s.ct.shapes.get (hSlot a) {}
        .done (putShape (hSlot a) { x with gen := nextGen x.gen } s)) s

end Sys2Proof.Machine
end

