-- ==== Sys2Proof/Machine/Jobs.lean ====
section
/-!
DEFINITION. Engine jobs: how a word queues one (spec/15 R333, spec/16 R353), its wait, its pacing gap and its signal
(R334, R227, R119), and its faults (R338, R415, R416).
-/
namespace Sys2Proof.Machine

/-- The jobs a queue holds (R333, R353). -/
def queueCap : QueueId → Nat
  | .matrix => 16
  | .handler => 16
  | .chan _ => 8
  | .send => 8

/-- A job at the tail of a queue of the core that issues now. -/
def pushJob (q : QueueId) (j : Job) (s : State) : State :=
  let n := s.ct.jobCtr
  let j := { j with id := n, pc := s.ccl.pc, handler := s.cc.trap }
  let s := s.modCt fun x => { x with jobCtr := n + 1 }
  let s := s.modCc fun x => x.setQueue q (x.queue q ++ [j])
  kickQueue s.cur.tile s.cur.core q s

/-- A job of an operation with its fields and operands. -/
def mkJob (op : JobOp) (f : EngF) (a b c : Word) : Job := { id := 0, op := op, f := f, a := a, b := b, c := c, pc := 0 }

/-- A word that queues a job on queue q (R333): its used operands are read, and a full queue stalls it. -/
def engWord (h : Hdr) (f : EngF) (enc : Bool) (q : QueueId) (op : JobOp) (cs : List (BitVec 7)) (s : State) :
    Host.Outcome State Fault Refusal :=
  word .e h (srcs .e enc cs fun l s =>
    if queueCap q ≤ (s.cc.queue q).length then .stall 0
    else .done (pushJob q (mkJob op f (arg l 0) (arg l 1) (arg l 2)) s)) s

/-! ## Wait, gap, signal -/

/-- Whether the wait of a job is satisfied at an rc (R334). -/
def Job.satisfied (j : Job) (now : Nat) : Bool := !j.f.we || (j.waitDone && decide (j.start ≤ now))

/-- The job of a queue with f applied, by its id. -/
def modJob (t : TileId) (k : CoreId) (q : QueueId) (id : Nat) (f : Job → Job) (s : State) : State :=
  s.modCore t k fun x => x.setQueue q ((x.queue q).map fun j => if j.id = id then f j else j)

/-- A job of a queue by its id. -/
def findJob (s : State) (t : TileId) (k : CoreId) (q : QueueId) (id : Nat) : Option Job :=
  ((s.core t k).queue q).find? fun j => j.id == id

/-- The wait of a job that has reached the head of its queue, sent to the semaphore file once (R272, R334). -/
def sendWait (t : TileId) (k : CoreId) (q : QueueId) (j : Job) (s : State) : State :=
  if j.f.we && !j.waitSent then
    land t (s.now + 1) j.f.ws k (.jobWait q) (modJob t k q j.id (fun j => { j with waitSent := true }) s)
  else s

/-- The rc from which the pacing gap of a channel or of the send unit allows a start: their engine cycles are always of 2 rc
(R227). -/
def gapFrom (x : Core) (q : QueueId) : Nat :=
  if x.lastStart.keys.contains (QueueId.park q) then x.lastStart.get (QueueId.park q) 0 + x.gap.get (QueueId.code q) 0 * 2 else 0

/-- Whether the gap of a channel or of the send unit is met. -/
def gapMet (x : Core) (q : QueueId) (now : Nat) : Bool := x.gap.get (QueueId.code q) 0 == 0 || decide (gapFrom x q ≤ now)

/-! ## Faults -/

/-- The record of a fault at the job (R409, R415). -/
def jobRec (s : State) (t : TileId) (k : CoreId) (j : Job) (code : FaultCode) (extra : DWord := 0)
    (addr : Option (Bool × Va) := none) (fab : Option FabricRec := none) : FaultRec :=
  {
    code := code, kind := .job, task := (s.tile t).taskid, tile := some (s.ltileOf t, t), core := some (k, .e),
    pc := some j.pc, addr := addr, fab := fab, extra := extra, handlerWork := j.handler }

/-- The fault of a job that has done its work and whose signal names a semaphore found uncorrectable (R444). -/
def signalBad (s : State) (t : TileId) (k : CoreId) (j : Job) : Option FaultRec :=
  if j.f.se && (s.tile t).badSems.contains j.f.ss then
    some (jobRec s t k j .dataUncorrectable 5 (some (true, BitVec.ofNat 60 (semMpa t j.f.ss.toNat))))
  else none

/-- The signal of a job that has completed: an arrival or a count of 1, or the bytes of a copy (R119, R189, R272). -/
def jobSignal (t : TileId) (k : CoreId) (j : Job) (bytes : Option Nat) (s : State) : State :=
  if j.f.se then land t (s.now + 1) j.f.ss k (.engine bytes) s else s

/-- A fault at the job (R338, R416): its queue parks with the job at its head. -/
def parkJob (t : TileId) (k : CoreId) (q : QueueId) (j : Job) (r : FaultRec) (s : State) : State :=
  deliver r (modJob t k q j.id (fun _ => { j with stat := .parked }) s)

/-! ## Firings -/

/-- Whether a job makes a firing of which not every chunk is accepted yet (R203, R474). -/
def Job.toFire (j : Job) : Bool :=
  (j.op == .mdrainSend || j.op == .ctready) && !(j.fired && decide (j.total ≤ j.bytes))

/-- Whether a firing job waits for the last firing of its entry to complete: not for its own, which it retries (R203, R474). -/
def firingWaits (s : State) (t : TileId) (j : Job) : Bool :=
  let e := (s.tile t).cents.get (j.a.toNat % 256) {}
  j.toFire && e.rdy && e.owner != some j.id

/-- RDY of the entry that a job fires, set as the job starts (R203). -/
def takeEntry (t : TileId) (j : Job) (s : State) : State :=
  let i := j.a.toNat % 256
  s.modTile t fun x => { x with cents := x.cents.set i { x.cents.get i {} with rdy := true, owner := some j.id } }

/-- Whether the next chunk of a job's firing is the one that holds uncorrectable data (R443). -/
def Job.cutNow (j : Job) : Bool := j.cut.any fun c => decide (c.2 ≤ j.bytes)

/-- A job that has faulted at a chunk: a retry goes on at its first chunk not accepted (R473, R474). -/
def Job.again (j : Job) : Job :=
  { j with lost := none, cut := none, fired := false, card := none, prog := if j.op = .mdrainSend then j.prog else j.bytes }

/-- Whether the engines of a core that serve its interrupted context are held (R85, R352): in its handler, or once it
has stopped for pre-emption. -/
def Core.held (x : Core) : Bool := x.frozenCtx || x.stopped

end Sys2Proof.Machine
end

