-- ==== Sys2Proof/Machine/Send.lean ====
section
/-!
DEFINITION. The sending side of a tile: the checks of a window access (spec/04 R107), the outbound remote-store
buffer (spec/07 R183), messages handed to the sending unit (spec/06 R151), and the pending stores of a core
(spec/03 R75, spec/14 R321).
-/
namespace Sys2Proof.Machine

/-! ## Circuits -/

/-- Whether a send on a handle is sampled as LIVE (R151, R162). -/
def Circ.usable (c : Circ) : Bool := c.state == .live && !c.inb

/-- The code of a handle's state (R148). -/
def HState.code : HState → Nat
  | .idle => 0
  | .rigging => 1
  | .settling => 2
  | .live => 3
  | .derigging => 4
  | .faulted => 5
  | .rerouting => 6

/-- The physical or foreign number of the tile that a window targets: own tiles converted (R90). -/
def State.winTile (s : State) (t : TileId) (w : Win) : Option Nat :=
  if w.tmod = s.hub.modid then (s.physTile t w.ttile.toNat).map (·.val) else some w.ttile.toNat

/-- The target MPA of a window access, as the message carries it: TBASE, its tile and core fields converted where TMOD is the
module's own id, and the offset in the window (R90, R106). -/
def State.winMpa (s : State) (t : TileId) (w : Win) (mpa : Nat) : Option Nat :=
  let base := w.tbase.toNat * 2 ^ 21
  if w.tmod = s.hub.modid then (s.physMpa t base).map fun b => (b + (mpa - base)) % 2 ^ 48 else some mpa

/-- Whether the destination that a handle was rigged to is a tile of a module (R107, check 4). -/
def Circ.goesTo (c : Circ) (md : BitVec 10) (tile : Nat) : Bool :=
  !c.mcast && (match c.ends with
    | e :: _ => e.md == md && decide (e.tile.toNat = tile)
    | [] => false)

/-- The fabric fields of a record that names a handle. -/
def fabOf (h : Nat) : Option FabricRec := some { handle := BitVec.ofNat 6 h }

/-- THE CHECKS OF A WINDOW ACCESS at issue (R107), in their order: the fault, or the target MPA of the message.
`reply` marks a load or an atomic. -/
def winCheck (s : State) (t : TileId) (w : Nat) (mpa : Nat) (va : Va) (reply rd wr : Bool) (mk : FaultCode → DWord → FaultRec) :
    Except FaultRec Nat :=
  let x := (s.tile t).wins.get w {}
  let h := x.handle.toNat
  let c := s.circ t h
  let at' (r : FaultRec) : FaultRec := { r with addr := some (false, va) }
  if reply && !x.rv then .error { at' (mk .windowWriteOnly (BitVec.ofNat 64 w)) with fab := fabOf h }
  else
    match s.winTile t x, s.winMpa t x mpa with
    | some u, some p =>
      if !c.usable then .error { at' (mk .circuitNotLive (BitVec.ofNat 64 c.state.code)) with fab := fabOf h }
      else if !c.goesTo x.tmod u then .error { at' (mk .windowMismatch (BitVec.ofNat 64 w)) with fab := fabOf h }
      else .ok p
    | _, _ => .error (at' (mk .leaseViolation (permBits rd wr)))

/-- A message handed to the sending unit of a handle; the unit takes it in the same rc (R151). -/
def admitMsg (t : TileId) (h : Nat) (x : Sent) (s : State) : State :=
  (s.modCirc t h fun c => { c with waiting := c.waiting ++ [x] }).dueH s.now t h .messageSend

/-- An empty message descriptor (R154). -/
def blankMsg : Msg :=
  {
    seq := 0, mpa := 0, tag := 0, gen := 0, job := 0, g := false, op := 0, nrow := 0, pay := [], side := [] }

/-! ## The outbound remote-store buffer -/

/-- Whether a message makes an entry of the ORB that covers a row (R183). -/
def Sent.orbRow (x : Sent) (row : Nat) : Bool :=
  x.msg.op == 0 && !x.msg.void && x.ty != .reply && decide (x.msg.mpa.toNat / 256 ≤ row) &&
    decide (row ≤ x.msg.mpa.toNat / 256 + x.msg.nrow.toNat)

/-- Whether a message is a store of the M cluster of core k. -/
def Sent.storeOf (x : Sent) (k : CoreId) : Bool := x.core == k && decide (x.clus = 2) && x.job.isNone && x.entry.isNone

/-- The ORB entries of a circuit for a row that core k meets, youngest first (R183): a message enters the buffer when it is
sent, in SEQ order, so that what an agent reads from it no later load of the circuit can undo; the core's own stores that wait at the
sending unit for their turn are its youngest entries (R170, R185; log 44). -/
def Circ.orb (c : Circ) (k : CoreId) (row : Nat) : List Sent :=
  ((c.sent.filter fun x => x.orbRow row && !x.delivered c) ++ c.waiting.filter fun x => x.orbRow row && x.storeOf k).reverse

/-- What a load through a window meets in the ORB: it stalls, is forwarded a row, or is sent (R183). -/
inductive Orb where
  | stall
  | forward (r : Row)
  | send
  deriving DecidableEq, Repr, Inhabited

/-- The lanes of a word of a row. -/
def laneBit (mpa : Nat) : BitVec 64 := 1#64 <<< (mpa / 4 % 64)

/-- A LOAD THROUGH A WINDOW against the ORB (R183). -/
def orbLoad (c : Circ) (k : CoreId) (mpa : Nat) (lanes : BitVec 64) : Orb :=
  let l := c.orb k (mpa / 256)
  if l.any fun x => x.msg.g && x.storeOf k then .stall
  else
    match l with
    | x :: _ =>
      if !x.msg.g && !c.mcast && x.lanes &&& lanes == lanes then
        .forward (x.msg.pay.getD (mpa / 256 - x.msg.mpa.toNat / 256) 0)
      else .send
    | [] => .send

/-! ## Pending stores -/

/-- The precise record of an M word, at its own index. -/
def mRec (s : State) (t : TileId) (k : CoreId) (pc : Pc) (hw : Bool) (code : FaultCode) (extra : DWord) : FaultRec :=
  {
    code := code, kind := .precise, task := (s.tile t).taskid, tile := some (s.ltileOf t, t), core := some (k, .m),
    pc := some pc, extra := extra, handlerWork := hw }

/-- The row of a store: its sq row, or a row with its word in its lane. -/
def storeRow (p : PendStore) : Row := p.data.getD 0

/-- The word of a word store: lane ea[7:2] of its data (R321). -/
def storeWord (p : PendStore) : Word := lane (p.data.getD 0) (p.lane.getD 0)

/-- A local atomic into the queue of the tile's memory port (R325). -/
def portAtomic (t : TileId) (k : CoreId) (mpa : Nat) (a : Amo) (s : State) : State :=
  (s.modTile t fun y => { y with portq := y.portq ++ [{ core := k, mpa := mpa, amo := a }] }).dueK s.now t k .memoryPortApply

/-- A ready store performed at home, or handed to the sending unit (R151, R321, R323), and a release atomic placed at the
memory port (R325). Each relaxed store is a message of its own: the M cluster never merges two to one row, which R173
allows (log 42). -/
def performStore (t : TileId) (k : CoreId) (p : PendStore) (s : State) : State :=
  if let some a := p.amo then portAtomic t k p.mpa a s
  else if p.remote then
    let m : Msg := { blankMsg with
      mpa := BitVec.ofNat 48 (if p.lane.isSome then p.mpa / 4 * 4 else p.mpa / 256 * 256), g := p.g,
      tag := BitVec.ofNat 8 ((p.group.map (·.1)).getD 0), gen := (p.group.map (·.2)).getD 0, pay := [storeRow p] }
    let x : Sent := {
      msg := m, ty := if p.lane.isSome then .short else .row, core := k, clus := 2, pc := p.pc, va := p.va,
      lanes := match p.lane with
        | some n => 1#64 <<< n
        | none => BitVec.allOnes 64,
      win := p.win, posted := true, handlerWork := p.handlerWork, group := p.group.map (·.1),
      ord := p.ord }
    admitMsg t p.handle x s
  else
    let s := askRows (askerM t k) [p.mpa] s
    match p.lane with
    | some _ => performWord p.mpa (storeWord p) s
    | none => performRow p.mpa (storeRow p) s

/-- The pending stores of a core that can be performed, in order; the others stay (R75, R172). -/
def advanceList (t : TileId) (k : CoreId) : List PendStore → List PendStore → State → List PendStore × State
  | [], kept, s => (kept, s)
  | p :: r, kept, s =>
    if pendReady s t k kept p && pendRoom s t p then advanceList t k r kept (performStore t k p s)
    else advanceList t k r (kept ++ [p]) s

/-- The V pushes that wait for room in sq delivered, where there is room now, and the V cluster's next word asked for
again (R288). -/
def freeSq (t : TileId) (k : CoreId) (s : State) : State :=
  let x := s.core t k
  let y := x.freePushes 64 s.now
  if x.vc.last = y.vc.last then s
  else
    let u := (s.setCore t k y).undue fun a => match a with
      | .issue u j cl => u == t && j == k && cl == .v
      | _ => false
    if y.vc.stat = .running ∨ y.vc.req.isSome then scheduleIssue t k .v 1 u else u

/-- The pending stores of a core advanced (R75), and what waits for them: pushes of its V cluster, and a semaphore word. -/
def advancePend (t : TileId) (k : CoreId) (s : State) : State :=
  let l := (s.core t k).pend
  let s := s.modCore t k fun x => { x with pend := [] }
  let (kept, s) := advanceList t k l [] s
  let s := s.modCore t k fun x => { x with pend := kept }
  let s := freeSq t k (if kept.length < l.length then kickLeave t k s else s)
  match (s.core t k).pend.find? fun p => p.data.isSome && decide (s.now < p.ready) && decide (p.ready < unknown) with
  | some p => s.dueK p.ready t k .memoryPortApply
  | none => s

end Sys2Proof.Machine
end

