-- ==== Sys2Proof/Machine/CopyWords.lean ====
section
/-!
DEFINITION. The copy, circuit and collective words of the E cluster as they issue (spec/16 R353, R354, R365 to R375).
-/
namespace Sys2Proof.Machine

/-! ## Words that queue jobs -/

/-- The channel of a copy word: MOD[12:10] (R354). -/
def chOf (f : EngF) : QueueId := .chan (fin 8 (f.md.extractLsb' 10 3).toNat)
/-- G of a copy word. -/
def copyG (f : EngF) : Bool := f.md.getLsbD 9
/-- JOB of CPYR. -/
def copyJob (f : EngF) : BitVec 4 := f.md.extractLsb' 3 4
/-- ROP of CPYR. -/
def copyRop (f : EngF) : Nat := (f.md.extractLsb' 1 2).toNat
/-- SLOT of CPYR. -/
def copySlot (f : EngF) : Nat := (f.md.extractLsb' 7 6).toNat

/-- CPY (R355, R359). -/
def execCpy (h : Hdr) (f : EngF) (s : State) : Host.Outcome State Fault Refusal :=
  engWord h f (f.md.extractLsb' 0 9 == 0) (chOf f) .cpy [f.a, f.b] s

/-- CPYD (R360). -/
def execCpyd (h : Hdr) (f : EngF) (s : State) : Host.Outcome State Fault Refusal :=
  engWord h f (f.md.extractLsb' 0 10 == 0) (chOf f) .cpyd [f.a, f.b] s

/-- CPYR (R364): it runs on channel JOB[2:0]. -/
def execCpyr (h : Hdr) (f : EngF) (s : State) : Host.Outcome State Fault Refusal :=
  engWord h f (!f.md.getLsbD 0 && decide (copyRop f ≤ 2)) (.chan (fin 8 (copyJob f).toNat)) .cpyr [f.a, f.b, f.c] s

/-- CPYM (R367). -/
def execCpym (h : Hdr) (f : EngF) (s : State) : Host.Outcome State Fault Refusal :=
  engWord h f (f.md.extractLsb' 0 9 == 0) (chOf f) .cpym [f.a, f.b, f.c] s

/-- WMSET (R370). -/
def execWmset (h : Hdr) (f : EngF) (s : State) : Host.Outcome State Fault Refusal :=
  engWord h f (f.md.extractLsb' 0 10 == 0) (chOf f) .wmset [f.a] s

/-- SEND (R369). -/
def execSend (h : Hdr) (f : EngF) (s : State) : Host.Outcome State Fault Refusal :=
  engWord h f (f.md.extractLsb' 6 6 == 0) .send .send [f.a, f.b, f.c] s

/-- CTREADY (R374). -/
def execCtready (h : Hdr) (f : EngF) (s : State) : Host.Outcome State Fault Refusal :=
  engWord h f (f.md == 0) .send .ctready [f.a] s

/-! ## Circuit state -/

/-- CWAIT (R371): it waits until its handle is LIVE. -/
def execCwait (h : Hdr) (f : RR) (s : State) : Host.Outcome State Fault Refusal :=
  word .e h (fun s =>
    let c := s.circ s.cur.tile (f.f.toNat % 64)
    if c.state = .live then .done s
    else if s.ccl.req.isSome then .wait s else waitFor .circuit s) s

/-- The word of CSTAT (R372). -/
def Circ.stat (c : Circ) : Word :=
  (0 : BitVec 22) ++ BitVec.ofBool c.inb ++ BitVec.ofNat 4 (if c.state = .live then c.lines else 0) ++
    BitVec.ofBool c.ext ++ BitVec.ofBool c.mcast ++ BitVec.ofNat 3 c.state.code

/-- CSTAT (R372). -/
def execCstat (h : Hdr) (f : RR) (s : State) : Host.Outcome State Fault Refusal :=
  word .e h (fun s =>
    if !dstOk .e f.d then s.reserved
    else .done (putRes .e 1 f.d f.w (s.circ s.cur.tile (f.f.toNat % 64)).stat s)) s

/-! ## Collective tables -/

/-- Whether no chunk of a reduction job is in staging and each of its slots has NEXTC = 0 (R373). -/
def jobIdle (x : Tile) (job : BitVec 4) : Bool :=
  (x.staged.all fun c => c.job != job) &&
    (List.range 64).all fun i => !(x.slots.get i {}).v || (x.slots.get i {}).job != job || (x.slots.get i {}).nextc == 0

/-- The byte offset of a table entry in the scratchpad (R373). -/
def ctOff (form : Nat) (b : Word) : Nat :=
  let n := if form = 0 then 16 else if form = 1 then 4 else 32
  (b.toNat % 2 ^ 22) / n * n

/-- The job that a slot entry in the scratchpad names. -/
def slotJobAt (s : State) (b : Word) : BitVec 4 :=
  (s.readWord (s.padMpa s.cur.tile s.cur.core (ctOff 1 b))).extractLsb' 26 4

/-- Whether CTSET need wait no longer (R373). -/
def ctReady (form : Nat) (e : Nat) (a b : Word) (s : State) : Bool :=
  padReady s e (ctOff form b) &&
    (match form with
      | 0 => jobIdle s.ct (BitVec.ofNat 4 a.toNat)
      | 1 => jobIdle s.ct ((s.ct.slots.get (a.toNat % 64) {}).job) && jobIdle s.ct (slotJobAt s b)
      | _ => !(s.ct.cents.get (a.toNat % 256) {}).rdy)

/-- Whether ROP and RFMT are ones that R194 and R202 give. -/
def ropOk (rop rfmt : Nat) : Bool := decide (rop ≤ 2) && decide (rfmt ≤ 3) && (rfmt != 3 || rop == 0)

/-- A reduction-job entry from its 16 bytes (R194); none for one that R373 refuses. -/
def rjobOf (v : Nat) : Option RJob :=
  let d : BitVec 128 := BitVec.ofNat 128 v
  let j : RJob := {
    v := d.getLsbD 63, rop := d.extractLsb' 59 4, rfmt := d.extractLsb' 55 4, sem := d.extractLsb' 47 8,
    se := d.getLsbD 46, round := d.extractLsb' 0 32, base := d.extractLsb' 88 40, scoff := d.extractLsb' 64 24 }
  if d.extractLsb' 32 14 != 0 || (j.v && !ropOk j.rop.toNat j.rfmt.toNat) then none else some j

/-- A time-slot entry from its 4 bytes (R195); none for one that R373 refuses. -/
def tslotOf (v : Nat) : Option TSlot :=
  let d : Word := BitVec.ofNat 32 v
  if d.getLsbD 30 || d.extractLsb' 0 11 != 0 then none
  else some { v := d.getLsbD 31, job := d.extractLsb' 26 4, smod := d.extractLsb' 16 10, stile := d.extractLsb' 11 5 }

/-- A collective entry from its 32 bytes (R202); none for one that R373 refuses. -/
def centryOf (v : Nat) : Option CEntry :=
  let d : BitVec 256 := BitVec.ofNat 256 v
  let n := (d.extractLsb' 59 3).toNat
  let rows := (d.extractLsb' 244 12).toNat
  let e : CEntry := {
    v := d.getLsbD 63, npeer := n, rop := d.extractLsb' 55 4, rfmt := d.extractLsb' 51 4, job := d.extractLsb' 47 4,
    slot := d.extractLsb' 41 6, sem := d.extractLsb' 33 8, se := d.getLsbD 32, round := d.extractLsb' 0 32,
    raddr := d.extractLsb' 88 40,
    h := [d.extractLsb' 82 6, d.extractLsb' 76 6, d.extractLsb' 70 6, d.extractLsb' 64 6],
    laddr := d.extractLsb' 136 52, nrows := rows }
  let bad := d.extractLsb' 188 4 != 0 || d.extractLsb' 128 8 != 0 || d.extractLsb' 192 52 != 0 ||
    (e.v && (!ropOk e.rop.toNat e.rfmt.toNat || n == 0 || decide (4 < n) || rows % 4 != 0 || rows == 0 ||
      decide (4092 < rows)))
  if bad then none else some e

/-- CTSET (R373). -/
def execCtset (h : Hdr) (f : RR) (s : State) : Host.Outcome State Fault Refusal :=
  let form := f.f.toNat % 4
  tableWord h 0 (f.f.extractLsb' 2 21 == 0 && form != 3) [f.a, f.b] (ctReady form)
    (fun b => some (ctOff form b)) (fun a b s =>
      match padBytes s (ctOff form b) (if form = 0 then 16 else if form = 1 then 4 else 32) with
      | .error g => padBad s g
      | .ok v =>
        match form with
        | 0 =>
          match rjobOf v with
          | none => s.reserved
          | some j => .done (s.modCt fun x => { x with rjobs := x.rjobs.set (a.toNat % 16) j })
        | 1 =>
          match tslotOf v with
          | none => s.reserved
          | some e => .done (s.modCt fun x => { x with slots := x.slots.set (a.toNat % 64) e })
        | _ =>
          match centryOf v with
          | none => s.reserved
          | some e => .done (s.modCt fun x => { x with cents := x.cents.set (a.toNat % 256) e })) s

/-! ## Groups and pacing -/

/-- Messages of a group that are out or on their way to the sending unit (R365, R368). -/
def State.groupOut (s : State) (t : TileId) (g : Nat) : Nat :=
  let e := (s.tile t).groups.get g {}
  e.out + ((s.circ t e.handle.toNat).waiting.filter fun m => m.group == some g && !m.sampled).length

/-- Whether the new fields of a group break R368. -/
def groupBad (b : Word) : Bool := b.extractLsb' 24 7 != 0 || b.extractLsb' 6 10 != 0

/-- GRPSET (R368). -/
def execGrpset (h : Hdr) (f : RR) (s : State) : Host.Outcome State Fault Refusal :=
  tableWord h 0 (f.f == 0) [f.a, f.b] (fun _ a b s => groupBad b || s.groupOut s.cur.tile (a.toNat % 256) == 0)
    (fun _ => none) (fun a b s =>
      if groupBad b then s.reserved
      else
        .done (s.modCt fun x =>
          { x with
            groups := x.groups.set (a.toNat % 256)
              { v := b.getLsbD 31, gen := b.extractLsb' 16 8, handle := b.extractLsb' 0 6 } })) s

/-- GFREE (R368). -/
def execGfree (h : Hdr) (f : RR) (s : State) : Host.Outcome State Fault Refusal :=
  tableWord h 0 (f.f == 0) [f.a] (fun _ a _ s => s.groupOut s.cur.tile (a.toNat % 256) == 0)
    (fun _ => none) (fun a _ s =>
      .done (s.modCt fun x =>
        let g := x.groups.get (a.toNat % 256) {}
        { x with groups := x.groups.set (a.toNat % 256) { g with v := false, gen := g.gen + 1 } })) s

/-- PACE (R227, R375). -/
def execPace (h : Hdr) (f : RI) (s : State) : Host.Outcome State Fault Refusal :=
  word .e h (fun s =>
    let q := f.f5.toNat
    if 9 < q then s.reserved
    else
      let s := s.modCc fun x => { x with gap := x.gap.set q (f.imm.toNat % 2 ^ 16) }
      let s := kickQueue s.cur.tile s.cur.core (queueOf q) s
      .done s) s

end Sys2Proof.Machine
end

