-- ==== Sys2Proof/Machine/Contrib.lean ====
section
/-!
DEFINITION. Reduction contributions and collective firings as they are sent (spec/08 R196, R202, R203; spec/04 R90).
-/
namespace Sys2Proof.Machine

/-- The header words of a contribution's side data (R196). -/
def contribHead (cseq slot rop rfmt nchunk : Nat) (round : Word) : List Word :=
  [ BitVec.ofNat 32 (cseq % 2 ^ 16 * 2 ^ 16 + slot % 64 * 2 ^ 10 + rop % 16 * 16 + rfmt % 16), round,
    BitVec.ofNat 32 (nchunk % 2 ^ 16 * 2 ^ 16), 0 ]

/-- A contribution chunk (R154, R196): rows from row r on, and the scale words of MXINT8 rows. -/
def contribMsg (mpa : Nat) (job : BitVec 4) (head : List Word) (rows : List Row) (scales : List Word) : Msg :=
  { blankMsg with
    mpa := BitVec.ofNat 48 mpa, job := job, op := 1, nrow := BitVec.ofNat 4 (rows.length - 1), pay := rows,
    side := head ++ scales }

/-- The number of chunks of n rows (R196, R356). -/
def chunksOf (n : Nat) : Nat := (n + 15) / 16

/-- An MPA with its tile field replaced by physical tile u, its core field, where it has one, turned into a physical
number of that tile of this module (R90, RADDR). -/
def State.atTile (s : State) (own : Bool) (u : Nat) (mpa : Nat) : Nat :=
  if 0x800000000000 ≤ mpa ∧ mpa < 0x900000000000 then
    let kind := mpa / 2 ^ 32 % 8
    let c := mpa / 2 ^ 35 % 16
    onDieMpa u (if own && decide (kind ≤ 2) then (s.tile (fin 32 u)).coreField c else c) kind (mpa % 2 ^ 32)
  else if mpa < 0x020000000000 then u * 2 ^ 36 + mpa % 2 ^ 36
  else mpa

/-- The destination MPA of a peer's rows (R90, R203): the tile that the handle reaches. -/
def State.peerMpa (s : State) (t : TileId) (h : Nat) (mpa : Nat) : Nat :=
  match (s.circ t h).ends with
  | e :: _ => s.atTile (e.md == s.hub.modid) e.tile.toNat mpa
  | [] => mpa

/-- The messages of a firing in the order in which they are sent (R203), each with its handle and the number of its chunk: per peer,
chunk by chunk. -/
def fireMsgs (s : State) (t : TileId) (e : CEntry) (rows : List Row) (scales : List Word) : List (Nat × Nat × Msg) :=
  let n := chunksOf rows.length
  (List.range e.npeer).flatMap fun p =>
    let h := (e.h.getD p 0).toNat
    let base := s.peerMpa t h (e.raddr.toNat * 256)
    (List.range n).map fun c =>
      (h, c, contribMsg (base + 4096 * c) e.job
        (contribHead c e.slot.toNat e.rop.toNat e.rfmt.toNat n e.round) ((rows.drop (16 * c)).take 16)
        ((scales.drop (32 * c)).take 32))

/-- A message of a job handed to the sending unit of a handle. -/
def admitJob (t : TileId) (k : CoreId) (q : QueueId) (j : Job) (h : Nat) (m : Msg) (entry group : Option Nat)
    (va : Va) (s : State) : State :=
  admitMsg t h {
    msg := m, ty := .chunk, core := k, clus := 3, pc := j.pc, va := va, lanes := BitVec.allOnes 64,
    handlerWork := j.handler, job := some (q, j.id), entry := entry, group := group } s

/-- A FIRING of collective entry i by a job (R203, R474): RDY is set, and the messages not yet accepted of it go to
the sending unit, up to a chunk that holds uncorrectable data, at which the job faults (R443). `va` is the address of the first row,
and `bad` names the granule of a chunk found uncorrectable. A new firing counts the chunks its peers have to apply; one with no
peer is complete at once. -/
def fire (t : TileId) (k : CoreId) (q : QueueId) (j : Job) (i va : Nat) (rows : List Row) (scales : List Word)
    (bad : Nat → Option Nat) (s : State) : State :=
  let s := takeEntry t j s
  let e := (s.tile t).cents.get i {}
  let ms := fireMsgs s t e rows scales
  let cut := (ms.zipIdx.drop j.bytes).findSome? fun p => (bad p.1.2.1).map fun g => (g, p.2)
  let n := (cut.map Prod.snd).getD ms.length
  let s := s.modTile t fun x =>
    { x with
      cents := x.cents.set i
        { e with left := if j.bytes = 0 then ms.length else e.left, round := if ms.isEmpty then e.round + 1 else e.round } }
  let s := modJob t k q j.id (fun j => { j with total := ms.length, fired := true, cut := cut }) s
  let s := if ms.isEmpty then s.dueH s.now t i .firingComplete else s
  let s := if n ≤ j.bytes then s.dueU s.now t k (QueueId.park q) .copyJobComplete else s
  ((ms.take n).drop j.bytes).foldl (fun s p =>
    admitJob t k q j p.1 p.2.2 (some i) none (BitVec.ofNat 60 (va + 4096 * p.2.1)) s) s

end Sys2Proof.Machine
end

