-- ==== Sys2Proof/Machine/Matrix.lean ====
section
/-!
DEFINITION. The words that queue matrix jobs and what the jobs compute (spec/15 R333 to R352; the arithmetic of spec/05
R127 to R131).
-/
namespace Sys2Proof.Machine

/-! ## Fields of MOD -/

/-- MAC (R345, R346, R350). -/
def macN (f : EngF) : Nat := (f.md.extractLsb' 11 2).toNat
/-- FMTC. -/
def fmtcN (f : EngF) : Nat := (f.md.extractLsb' 4 3).toNat
/-- BANK of MMA. -/
def mmaBank (f : EngF) : Nat := (f.md.extractLsb' 7 4).toNat
/-- BANK of MDRAIN and MZERO. -/
def lowBank (f : EngF) : Nat := (f.md.extractLsb' 0 4).toNat
/-- ACT of MDRAIN. -/
def drainAct (f : EngF) : Nat := (f.md.extractLsb' 8 3).toNat
/-- BE of MDRAIN. -/
def drainBias (f : EngF) : Bool := f.md.getLsbD 7
/-- SAT of MDRAIN. -/
def drainSat (f : EngF) : Bool := f.md.getLsbD 11

/-- The element format of a format code (R345). -/
def fmtcFmt : Nat → Nat
  | 0 => 0x10
  | 1 => 0x11
  | 2 => 0x12
  | 3 => 0x0B
  | 4 => 0x0C
  | 5 => 0x0A
  | _ => 0x09

/-- Digit cycles of a row (R345). -/
def fmtcD : Nat → Nat
  | 0 => 4
  | 1 => 3
  | 2 => 2
  | 3 => 4
  | 4 => 4
  | _ => 8

/-- Kmax (R345). -/
def fmtcK : Nat → Nat
  | 0 => 512
  | 1 => 672
  | 2 => 1024
  | 3 => 512
  | 4 => 512
  | _ => 256

/-- Whether a format code is block-scaled. -/
def fmtcMx (c : Nat) : Bool := decide (c < 3)

/-- The bits of an element as a macro holds it: w for MX formats, W of R128 otherwise (R351). -/
def fmtcBits (c : Nat) : Nat :=
  match c with
  | 0 => 8
  | 1 => 6
  | 2 => 4
  | 3 => 8
  | 4 => 8
  | _ => 16

/-- A macro of a core; one of depth 0 is unplanted. -/
def Core.macro (x : Core) (n : Nat) : Macro := x.macros.get n { fmtc := 7, k := 0, n := 0 }

/-- The macros that a job drives (R335). -/
def jobMacros (j : Job) : List Nat :=
  match j.op with
  | .mplant => [macN j.f]
  | .mma => [macN j.f]
  | .mbatt => [macN j.f]
  | .msave => (List.range 4).filter fun n => j.f.md.getLsbD n
  | .mrest => (List.range 4).filter fun n => j.f.md.getLsbD n
  | _ => []

/-- The banks of MSAVE and MREST (R351). -/
def jobBanks (j : Job) : List Nat := (List.range 16).filter fun n => j.b.getLsbD n

/-- The limiter cost of a job (R221, R337, R350). -/
def jobCost (j : Job) : Nat :=
  match j.op with
  | .mplant => 1
  | .mma => 1
  | .mbatt => if j.a.toNat % 256 = 0 then 0 else 1
  | .msave => (jobMacros j).length
  | .mrest => (jobMacros j).length
  | _ => 0

/-! ## Words -/

/-- A word that queues a matrix job (R333, R352): in a trap handler the first must be MSAVE, and the handler has a
queue of its own. MDRAIN reads B as FP32 (R347). -/
def matWord (h : Hdr) (f : EngF) (enc : Bool) (op : JobOp) (cs : List (BitVec 7)) (s : State) :
    Host.Outcome State Fault Refusal :=
  word .e h (fun s0 =>
    srcs .e enc cs (fun l s =>
      let hd := s.cc.trap
      let q : QueueId := if hd then .handler else .matrix
      if hd && !s.cc.msaved && op != .msave then s0.flt .handlerMatrix
      else if queueCap q ≤ (s.cc.queue q).length then .stall 0
      else
        let fp := (op == .mdrain || op == .mdrainSend) && decide (0x60 ≤ f.b.toNat)
        let b := if fp then inlineFp32 f.b else arg l 1
        let s := if hd then s.modCc fun x =>
            { x with msaved := true, mrested := op == .mrest || (x.mrested && op != .msave) }
          else s
        .done (pushJob q (mkJob op f (arg l 0) b (arg l 2)) s)) s0) s

/-- MPLANT (R345). -/
def execMplant (h : Hdr) (f : EngF) (s : State) : Host.Outcome State Fault Refusal :=
  matWord h f (f.md.extractLsb' 7 4 == 0 && f.md.extractLsb' 0 4 == 0 && fmtcN f != 7) .mplant [f.a] s

/-- MMA (R346). -/
def execMma (h : Hdr) (f : EngF) (s : State) : Host.Outcome State Fault Refusal :=
  matWord h f (!f.md.getLsbD 0 && fmtcN f != 7) .mma [f.a] s

/-- Whether the MOD field of an MDRAIN is one that R347 allows. -/
def drainOk (f : EngF) : Bool := f.md.extractLsb' 4 3 == 0 && decide (drainAct f ≤ 4)

/-- The used operands of an MDRAIN (R347). -/
def drainOps (f : EngF) : List (BitVec 7) := if drainBias f then [f.a, f.b, f.c] else [f.a, f.b]

/-- MDRAIN (R347). -/
def execMdrain (h : Hdr) (f : EngF) (s : State) : Host.Outcome State Fault Refusal :=
  matWord h f (drainOk f) .mdrain (drainOps f) s

/-- MDRAIN .send (R347, R349). -/
def execMdrainSend (h : Hdr) (f : EngF) (s : State) : Host.Outcome State Fault Refusal :=
  matWord h f (drainOk f) .mdrainSend (drainOps f) s

/-- MZERO (R350). -/
def execMzero (h : Hdr) (f : EngF) (s : State) : Host.Outcome State Fault Refusal :=
  matWord h f (f.md.extractLsb' 4 9 == 0) .mzero [] s

/-- MSAVE (R351). -/
def execMsave (h : Hdr) (f : EngF) (s : State) : Host.Outcome State Fault Refusal :=
  matWord h f (f.md.extractLsb' 4 9 == 0) .msave [f.a, f.b] s

/-- MREST (R351). -/
def execMrest (h : Hdr) (f : EngF) (s : State) : Host.Outcome State Fault Refusal :=
  matWord h f (f.md.extractLsb' 4 9 == 0) .mrest [f.a, f.b] s

/-- MBATT (R350). -/
def execMbatt (h : Hdr) (f : EngF) (s : State) : Host.Outcome State Fault Refusal :=
  matWord h f (f.md.extractLsb' 0 11 == 0) .mbatt [f.a] s

/-! ## Checks at the job -/

/-- EXTRA of a geometry fault: the handle and the operand field (R456). -/
def geomExtra (fld : Nat) (h : Word) : DWord := (0 : BitVec 30) ++ BitVec.ofNat 2 fld ++ h

/-- A handle checked and its record captured (R116, R444). -/
def capture (s : State) (t : TileId) (k : CoreId) (j : Job) (h : Word) : Except FaultRec Recd :=
  let x := s.tile t
  if x.stale h then .error (jobRec s t k j .shapeStale (x.staleExtra h))
  else
    let m := onDieMpa t.val 0 4 (64 * hSlot h)
    match s.badIn m 64 with
    | some g => .error (jobRec s t k j .dataUncorrectable 6 (some (true, BitVec.ofNat 60 g)))
    | none => .ok (x.record h)

/-- Whether a byte address lies in the core's own scratchpad, within the record's region (R114, R344). -/
def padOk (x : Core) (r : Recd) (a : Int) : Bool :=
  decide (0 ≤ a) && decide (a < 0x400000) && (!recRgnv r || inRegion x (recRegion r) a a)

/-- The first scale byte of a record outside its placement. -/
def firstScaleBad (r : Recd) (bad : Int → Bool) : Option Int :=
  ((List.range (mxRows r)).findSome? fun row =>
    ((List.range ((3 * mxBlocks r + 1) / 2)).map fun i => nibbleByte r row (2 * i)).find? bad)

/-- The first address of a record outside the core's own scratchpad or its region (R344, R437). -/
def padBreach (x : Core) (r : Recd) : Option Int :=
  let ok (sp : Int × Int) : Bool := inPad sp && (!recRgnv r || inRegion x (recRegion r) sp.1 sp.2)
  if ok (recSpan r) && (!recMx r || ok (scaleSpan r)) then none
  else
    match firstBad r (fun a => !padOk x r a) (recCount r) 0 with
    | some a => some a
    | none => if recMx r then firstScaleBad r fun a => !padOk x r a else none

/-- The fault of a placement in the core's own scratchpad. -/
def checkPad (s : State) (t : TileId) (k : CoreId) (j : Job) (fld : Nat) (h : Word) (r : Recd) : Except FaultRec Unit :=
  match padBreach (s.core t k) r with
  | some a => .error (jobRec s t k j .shapeBounds (geomExtra fld h) (some (false, vaOf a)))
  | none => .ok ()

/-- What stands against a byte address as a place of MDRAIN, MSAVE and MREST (R344): the code of its fault. -/
def placeFault (s : State) (t : TileId) (k : CoreId) (region : Option Nat) (rd wr : Bool) (a : Int) : Option FaultCode :=
  if a < 0 then some .shapeBounds
  else if a < 0x400000 then
    match region with
    | some n => if inRegion (s.core t k) n a a then none else some .shapeBounds
    | none => none
  else if ((s.tile t).winAt a.toNat).isSome ∨ a.toNat / 2 ^ 48 = 0xFFF ∨ 2 ^ 60 ≤ a.toNat then some .shapeBounds
  else
    match s.translate t k a.toNat rd wr with
    | .loc p => if p < 0x020000000000 ∧ p / 2 ^ 36 = t.val then none else some .shapeBounds
    | _ => some .leaseViolation

/-- The first element of a target that has no place, with its code. -/
def targetBreach (s : State) (t : TileId) (k : CoreId) (r : Recd) : Option (Int × FaultCode) :=
  let region := if recRgnv r then some (recRegion r) else none
  let bad (a : Int) : Bool := (placeFault s t k region false true a).isSome
  (firstBad r bad (recCount r) 0).map fun a => (a, (placeFault s t k region false true a).getD .shapeBounds)

/-- The fault record of a place. -/
def placeRec (s : State) (t : TileId) (k : CoreId) (j : Job) (fld : Nat) (h : Word) (rd wr : Bool)
    (p : Int × FaultCode) : FaultRec :=
  let extra := match p.2 with
    | .leaseViolation => permBits rd wr
    | _ => geomExtra fld h
  jobRec s t k j p.2 extra (some (false, vaOf p.1))

/-- The size of a save image in bytes (R351). -/
def imageSize (j : Job) : Nat := 36864 * (jobMacros j).length + 24576 * (jobBanks j).length

/-- The address of a save image (R351). -/
def imageBase (j : Job) : Nat := j.a.toNat / 256 * 256

/-- The fault of a save image's place (R351). -/
def imageBreach (s : State) (t : TileId) (k : CoreId) (j : Job) (wr : Bool) : Option (Int × FaultCode) :=
  (List.range (imageSize j / 256)).findSome? fun (i : Nat) =>
    let a : Int := imageBase j + 256 * i
    (placeFault s t k none (!wr) wr a).map fun c => (a, c)

/-- The MPA behind a byte address of a matrix job that its checks have passed. -/
def State.jobMpa (s : State) (t : TileId) (k : CoreId) (a : Int) : Nat :=
  match s.translate t k a.toNat false false with
  | .loc p => p
  | _ => 0

/-- n bytes of a job's memory as a number. -/
def State.jobBytes (s : State) (t : TileId) (k : CoreId) (a : Int) (n : Nat) : Nat :=
  leNat ((List.range n).map fun (i : Nat) => s.readByte (s.jobMpa t k (a + (i : Nat))))

/-- Whether a macro record of an image is one that MREST refuses (R351). -/
def imageBad (s : State) (t : TileId) (k : CoreId) (a : Int) : Bool :=
  let w : Word := BitVec.ofNat 32 (s.jobBytes t k a 4)
  let c := (w.extractLsb' 28 3).toNat
  let kk := (w.extractLsb' 16 11).toNat
  let n := (w.extractLsb' 0 7).toNat
  w.getLsbD 31 &&
    (c == 7 || w.getLsbD 27 || w.extractLsb' 7 9 != 0 || kk == 0 || decide (fmtcK c < kk) || n == 0 || decide (64 < n) ||
      s.jobBytes t k (a + 4) 60 != 0 || s.jobBytes t k (a + 2112) 1984 != 0)

/-- THE CHECKS OF A MATRIX JOB (R335, R338, R344): its fault, or the job with the records it captured. -/
def matChecks (s : State) (t : TileId) (k : CoreId) (j : Job) : Except FaultRec Job := do
  let fail (code : FaultCode) (fld : Nat) (h : Word) : FaultRec := jobRec s t k j code (geomExtra fld h)
  let req (b : Bool) (r : FaultRec) : Except FaultRec Unit := if b then .ok () else .error r
  let x := s.core t k
  let c := fmtcN j.f
  match j.op with
  | .mplant =>
    let r ← capture s t k j j.a
    req (recFmt r == fmtcFmt c && recMx r == fmtcMx c && (!fmtcMx c || recAxis r == 1)) (fail .matrixFormat 1 j.a)
    req (recRank r == 2 && decide (recSize r 0 ≤ 64) && decide (recSize r 1 ≤ fmtcK c)) (fail .matrixShape 1 j.a)
    checkPad s t k j 1 j.a r
    .ok { j with recA := r }
  | .mma =>
    let r ← capture s t k j j.a
    let m := x.macro (macN j.f)
    req (recFmt r == fmtcFmt c && recMx r == fmtcMx c && (!fmtcMx c || recAxis r == 0) && m.k != 0 && m.fmtc == c)
      (fail .matrixFormat 1 j.a)
    req (recRank r == 2 && recSize r 0 == m.k && decide (recSize r 1 ≤ 64)) (fail .matrixShape 1 j.a)
    checkPad s t k j 1 j.a r
    .ok { j with recA := r }
  | .mdrain =>
    let r ← capture s t k j j.a
    let raw := recFmt r == 0x18
    req (([0x08, 0x0A, 0x09, 0x0B, 0x0C, 0x03, 0x18].contains (recFmt r)) && !recMx r && !(raw && drainAct j.f != 0))
      (fail .matrixFormat 1 j.a)
    let b ← if drainBias j.f && !raw then capture s t k j j.c else .ok 0
    if drainBias j.f && !raw then req (recFmt b == 0x08 && !recMx b) (fail .matrixFormat 3 j.c) else .ok ()
    req (recRank r == 2 && decide (recSize r 0 ≤ 64) && decide (recSize r 1 ≤ 64)) (fail .matrixShape 1 j.a)
    if drainBias j.f && !raw then
      req (recRank b == 1 && decide (recSize r 0 ≤ recSize b 0)) (fail .matrixShape 3 j.c)
      else .ok ()
    match targetBreach s t k r with
    | some p => .error (placeRec s t k j 1 j.a false true p)
    | none => .ok ()
    if drainBias j.f && !raw then checkPad s t k j 3 j.c b else .ok ()
    .ok { j with recA := r, recC := b }
  | .mdrainSend =>
    let i := j.a.toNat % 256
    let e := (s.tile t).cents.get i {}
    req e.v (jobRec s t k j .ctInvalid (BitVec.ofNat 64 i))
    req (e.rfmt == 0) (fail .matrixFormat 1 j.a)
    let b ← if drainBias j.f then capture s t k j j.c else .ok 0
    if drainBias j.f then
      req (recFmt b == 0x08 && !recMx b) (fail .matrixFormat 3 j.c)
      req (recRank b == 1 && decide (64 ≤ recSize b 0)) (fail .matrixShape 3 j.c)
      checkPad s t k j 3 j.c b
      else .ok ()
    .ok { j with recC := b }
  | .msave =>
    match imageBreach s t k j true with
    | some p => .error (placeRec s t k j 1 j.a false true p)
    | none => .ok j
  | .mrest =>
    match imageBreach s t k j false with
    | some p => .error (placeRec s t k j 1 j.a true false p)
    | none =>
      match (List.range (jobMacros j).length).find? fun i => imageBad s t k ((imageBase j + 36864 * i : Nat) : Int) with
      | some _ => .error (fail .matrixShape 1 j.a)
      | none => .ok j
  | _ => .ok j

/-! ## Arithmetic -/

/-- A K-block of an operand: its integers, its scale or emax, and whether a NaN or an infinity stands in it (R127 to
R129). -/
structure MBlock where
  q : List Int
  ex : Int
  bad : Bool
  deriving DecidableEq, Repr, Inhabited

/-- emax of R128: the largest unbiased exponent of the finite nonzero elements, f fraction bits. -/
def blockMax (f : Nat) (xs : List FV) : Option Int :=
  xs.foldl (fun (a : Option Int) x =>
    match x with
    | .num _ m e => if m = 0 then a else some (match a with | some b => max b (e + f) | none => e + f)
    | _ => a) none

/-- The aligned integer of an element (R128). -/
def alignElem (w : Nat) (emax : Int) (x : FV) : Int :=
  match x with
  | .num neg m e =>
    let sh : Int := w - 2 + e - emax
    let v : Int := if 0 ≤ sh then (m * 2 ^ sh.toNat : Nat) else (m / 2 ^ (-sh).toNat : Nat)
    if neg then -v else v
  | _ => 0

/-- A floating K-block aligned (R128); `none0` stands for emax where no element is finite and nonzero. -/
def floatBlock (ff : FFmt) (w : Nat) (none0 : Int) (xs : List Nat) : MBlock :=
  let vs := xs.map ff.decode
  let bad := vs.any fun v => match v with | .num _ _ _ => false | _ => true
  match blockMax ff.fw vs with
  | some e => { q := vs.map (alignElem w e), ex := e, bad := bad }
  | none => { q := vs.map fun _ => 0, ex := none0, bad := bad }

/-- The mark of a column that R129 makes NaN: the one integer that R128 never gives (log 12). -/
def nanMark (w : Nat) : Int := -(2 ^ (w - 1) : Nat)

/-- The bits of the elements of block b of an operand row of a depth, element k at bit address `at' k`. -/
def rawBlock (s : State) (t : TileId) (k : CoreId) (r : Recd) (b depth : Nat) (at' : Nat → Int) : List Nat :=
  ((List.range 32).filter fun i => decide (32 * b + i < depth)).map fun i => s.bitsAt (s.padAt t k) (at' (32 * b + i)) (recW r)

/-- A block of a format from the bits of its elements; `none0` is emax where no element is finite and nonzero. -/
def blockFrom (c : Nat) (r : Recd) (none0 scale : Int) (xs : List Nat) : MBlock :=
  match fltFmt (fmtcFmt c) with
  | some ff => floatBlock ff (fmtcBits c) none0 xs
  | none => { q := xs.map (sextNat (recW r)), ex := scale, bad := false }

/-- The key of element (column n, depth k) of a macro. -/
def macKey (n k : Nat) : Nat := 1024 * n + k

/-- Block b of column n of a macro (R345). -/
def Macro.block (m : Macro) (n b : Nat) : MBlock :=
  let ks := (List.range 32).filterMap fun i => if 32 * b + i < m.k then some (32 * b + i) else none
  let q := ks.map fun k => (m.el.get (macKey n k) 0).toInt
  {
    q := q, ex := (m.bexp.get (64 * b + n) 0).toInt,
    bad := !fmtcMx m.fmtc && q.any fun v => v == nanMark (fmtcBits m.fmtc) }

/-- A block value added to an element, rounded once (R127, R128, R130). A block value of exactly zero is taken as +0, under `.na`
and `.nb` too, so that it turns an element of -0 into +0: R130 gives an exact integer zero no sign (DESIGN CHOICE, log 63). -/
def accBlock (c : Nat) (neg : Bool) (acc : Nat) (x y : MBlock) : Nat :=
  let p : Int := (List.zipWith (· * ·) x.q y.q).foldl (· + ·) 0
  let p := if neg then -p else p
  let e := x.ex + y.ex - (if fmtcMx c then 0 else 2 * ((fmtcBits c : Int) - 2))
  (acc48.round 0 false ((acc48.decode acc).add 0 (.num (decide (p < 0)) p.natAbs e)).1).1

/-- An element of a row of an MMA (R129, R130). -/
def mmaElem (c : Nat) (neg : Bool) (acc : Nat) (xs : List MBlock) (y : Nat → MBlock) : Acc :=
  let ys := (List.range xs.length).map y
  if (xs.any (·.bad)) || (ys.any (·.bad)) then BitVec.ofNat 48 acc48.nanBits
  else BitVec.ofNat 48 ((xs.zip ys).foldl (fun a p => accBlock c neg a p.1 p.2) acc)

/-- The A row m of an MMA as its blocks (R344). -/
def mmaRowBlocks (s : State) (t : TileId) (k : CoreId) (j : Job) (m : Nat) : List MBlock :=
  let r := j.recA
  let depth := recSize r 0
  let scales := if recMx r then s.scalesOf (s.padAt t k) r m else []
  (List.range ((depth + 31) / 32)).map fun b =>
    blockFrom (fmtcN j.f) r 0 (scales.getD b 0) (rawBlock s t k r b depth fun kk => bitAt r kk m)

/-- Row m of an MMA: the new elements of columns 0 to N - 1 (R346). -/
def mmaRow (s : State) (t : TileId) (k : CoreId) (j : Job) (m : Nat) : List Acc :=
  let x := s.core t k
  let mac := x.macro (macN j.f)
  let xs := mmaRowBlocks s t k j m
  let neg := j.f.md.getLsbD 2 != j.f.md.getLsbD 1
  (List.range mac.n).map fun n =>
    let acc := if j.f.md.getLsbD 3 then 0 else (x.accEl (mmaBank j.f) m n).toNat
    mmaElem (fmtcN j.f) neg acc xs fun b => mac.block n b

/-- A row of a bank written from column 0 on. -/
def putBankRow (t : TileId) (k : CoreId) (b m : Nat) (l : List Acc) (s : State) : State :=
  s.modCore t k fun x => (l.foldl (fun (p : Core × Nat) v => (p.1.setAcc b m p.2 v, p.2 + 1)) (x, 0)).1

/-- Row kk of the B operand as it is read: the bits of its elements (R345). -/
def plantRow (s : State) (t : TileId) (k : CoreId) (r : Recd) (kk : Nat) : List Acc :=
  (List.range (recSize r 0)).map fun n => BitVec.ofNat 48 (s.bitsAt (s.padAt t k) (bitAt r n kk) (recW r))

/-- A macro without the rows of block b, and without those past the depth of its operand once the last block is planted: they
hold zero (R345). -/
def Macro.cleared (m : Macro) (b depth : Nat) : Macro :=
  let last := decide (depth ≤ 32 * (b + 1))
  let keep (q : Nat) : Bool := q != b && !(last && decide (b < q))
  { m with el := ⟨m.el.rows.filter fun p => keep (p.1 % 1024 / 32)⟩, bexp := ⟨m.bexp.rows.filter fun p => keep (p.1 / 64)⟩ }

/-- Block b of the B operand planted, for every column, from the rows that the job has read (R345). The emax of a floating block
with no finite nonzero element is a free value: R128 gives it none (log 6). -/
def plantBlock (t : TileId) (k : CoreId) (j : Job) (b : Nat) (s : State) : State :=
  let r := j.recA
  let c := fmtcN j.f
  let width := recSize r 0
  let depth := recSize r 1
  let w := fmtcBits c
  let s := s.modCore t k fun x =>
    { x with
      macros := x.macros.set (macN j.f) { (x.macro (macN j.f)).cleared b depth with fmtc := c, k := depth, n := width }
      badMac := x.badMac.filter fun q => !(q.1 == macN j.f && q.2.2 == b) }
  (List.range width).foldl (fun s n =>
    let scale := if recMx r then (s.scalesOf (s.padAt t k) r n).getD b 0 else 0
    let (v, s) := s.fresh
    let depthHere := Nat.min 32 (depth - 32 * b)
    let blk := blockFrom c r v.toInt scale ((List.range depthHere).map fun i => (j.buf.getD (width * i + n) 0).toNat)
    s.modCore t k fun x =>
      let m := x.macro (macN j.f)
      let m := { m with bexp := m.bexp.set (64 * b + n) (BitVec.ofInt 8 blk.ex) }
      let m := ((List.range blk.q.length).foldl (fun (m : Macro) i =>
        let q := if blk.bad then nanMark w else blk.q.getD i 0
        { m with el := m.el.set (macKey n (32 * b + i)) (BitVec.ofInt 16 q) }) m)
      { x with macros := x.macros.set (macN j.f) m }) s

/-! ## Drains -/

/-- An activation on FP32 bits (R347). -/
def activate (act : Nat) (y : Nat) : Nat :=
  let v := fp32.decode y
  let below := match v with
    | .nan => false
    | .inf neg => neg
    | .num neg m _ => neg && m != 0
  let tanh (z : Nat) : Nat := (special tanhV (BitVec.ofNat 32 z)).1.toNat
  match act with
  | 1 => if below || decide (y = 0x80000000) then 0 else y
  | 2 => if below then (fp32.mulB 0 false y 0x3D800000).1 else y
  | 3 => tanh y
  | 4 =>
    let t := tanh (fp32.mulB 0 false y 0x3F000000).1
    (fp32.fmaB 0 false false false 0x3F000000 t 0x3F000000).1
  | _ => y

/-- An element through the epilogue to FP32 (R347): one rounding, then the activation. -/
def drainElem (f : EngF) (x : Acc) (scale : Word) (bias : Nat) : Nat :=
  let p := ((acc48.decode x.toNat).mul (fp32.decode scale.toNat)).1
  activate (drainAct f) (fp32.round 0 (drainSat f) (p.add 0 (fp32.decode bias)).1).1

/-- The bias of column n (R347). -/
def drainBiasAt (s : State) (t : TileId) (k : CoreId) (j : Job) (n : Nat) : Nat :=
  if drainBias j.f && j.recC != 0 then s.bitsAt (s.padAt t k) (bitAt j.recC n 0) 32 else 0

/-- The bytes that bank row m is drained to (R347). -/
def drainBytes (s : State) (t : TileId) (k : CoreId) (j : Job) (m : Nat) : List Nat :=
  (List.range (recSize j.recA 0)).flatMap fun n =>
    (List.range (recW j.recA / 8)).map fun (d : Nat) => s.jobMpa t k (bitAt j.recA n m / 8 + (d : Nat))

/-- Bank row m drained to the target (R347, R348). -/
def drainRow (t : TileId) (k : CoreId) (j : Job) (m : Nat) (s : State) : State :=
  let r := j.recA
  let fmt := recFmt r
  let x := s.core t k
  let outs := (List.range (recSize r 0)).map fun n =>
    let v := x.accEl (lowBank j.f) m n
    if fmt = 0x18 then v.toNat
    else (convert 0x08 fmt 0 (drainSat j.f) (drainElem j.f v j.b (drainBiasAt s t k j n))).1
  (outs.foldl (fun (p : State × Nat) v =>
    let a := bitAt r p.2 m
    (countWrite (s.jobMpa t k (a / 8)) (recW r / 8) (p.1.putBits (s.jobMpa t k) a (recW r) v), p.2 + 1)) (if s.bad.isEmpty then s else healBytes (drainBytes s t k j m) s, 0)).1

/-- Bank row m drained as the FP32 row of a firing (R349). -/
def drainSendRow (s : State) (t : TileId) (k : CoreId) (j : Job) (m : Nat) : Row :=
  let x := s.core t k
  mkRow fun n => BitVec.ofNat 32 (drainElem j.f (x.accEl (lowBank j.f) m n) j.b (drainBiasAt s t k j n))

/-! ## Save images -/

/-- A byte of a macro record (R351). -/
def macroByte (m : Macro) (i : Nat) : Byte :=
  if m.k = 0 then 0
  else if i < 4 then
    byteOf ((1 : BitVec 1) ++ BitVec.ofNat 3 m.fmtc ++ (0 : BitVec 1) ++ BitVec.ofNat 11 m.k ++ (0 : BitVec 9) ++
      BitVec.ofNat 7 m.n) i
  else if 64 ≤ i ∧ i < 2112 then
    if (i - 64) % 64 < m.n ∧ 32 * ((i - 64) / 64) < m.k then m.bexp.get (i - 64) 0 else 0
  else if 4096 ≤ i then
    let n := (i - 4096) / 512
    let w := fmtcBits m.fmtc
    let bit0 := 8 * ((i - 4096) % 512)
    let ks := (List.range 3).map fun d => bit0 / w + d
    let v := ks.foldl (fun (a : Nat) k =>
      let e := if k < m.k ∧ n < m.n then (m.el.get (macKey n k) 0).toNat % 2 ^ w else 0
      a + e * 2 ^ (w * (k - bit0 / w))) 0
    BitVec.ofNat 8 (v / 2 ^ (bit0 % w))
  else 0

/-- A macro restored from its record (R351). -/
def macroOf (byte : Nat → Nat) : Macro :=
  let w := leNat ((List.range 4).map fun i => BitVec.ofNat 8 (byte i))
  if w < 2 ^ 31 then { fmtc := 7, k := 0, n := 0 }
  else
    let c := w / 2 ^ 28 % 8
    let kk := w / 2 ^ 16 % 2 ^ 11
    let n := w % 128
    let b := fmtcBits c
    let el (i k : Nat) : BitVec 16 :=
      let p := b * k
      let v := byte (4096 + 512 * i + p / 8) + 256 * byte (4096 + 512 * i + p / 8 + 1)
      BitVec.ofInt 16 (sextNat b (v / 2 ^ (p % 8)))
    let cols := (List.range n).flatMap fun i => (List.range kk).map fun k => (macKey i k, el i k)
    let exps := (List.range ((kk + 31) / 32)).flatMap fun q =>
      (List.range n).map fun i => (64 * q + i, BitVec.ofNat 8 (byte (64 + 64 * q + i)))
    { fmtc := c, k := kk, n := n, el := ⟨cols⟩, bexp := ⟨exps⟩ }

/-- Bytes written into a job's memory. -/
def State.putJobBytes (s : State) (t : TileId) (k : CoreId) (a n : Nat) (f : Nat → Byte) : State :=
  countWrite (s.jobMpa t k a) n
    ((List.range n).foldl (fun s (i : Nat) => s.writeByte (s.jobMpa t k ((a + i : Nat) : Int)) (f i)) (s.heal (s.jobMpa t k a) n))

/-- The address of part i of an image, and its rows of 256 bytes: one goes by in each engine cycle (R337, R351). -/
def imagePlace (j : Job) (i : Nat) : Nat × Nat :=
  let ms := (jobMacros j).length
  if i < ms then (imageBase j + 36864 * i, 144) else (imageBase j + 36864 * ms + 24576 * (i - ms), 96)

/-- Row p of part i of MSAVE or MREST, the macros first (R351): a macro is restored with the last row of its record. -/
def imageRow (t : TileId) (k : CoreId) (j : Job) (i p : Nat) (s : State) : State :=
  let ms := jobMacros j
  let x := s.core t k
  let save := j.op == .msave
  let base := (imagePlace j i).1
  let a := base + 256 * p
  if i < ms.length then
    let n := ms.getD i 0
    if save then s.putJobBytes t k a 256 fun o => macroByte (x.macro n) (256 * p + o)
    else
      let s := countRead (s.jobMpa t k a) 256 s
      if p = 143 then
        let m := macroOf fun o => s.jobBytes t k ((base + o : Nat) : Int) 1
        s.modCore t k fun x => { x with macros := x.macros.set n m, badMac := x.badMac.filter fun q => q.1 != n }
      else s
  else
    let b := (jobBanks j).getD (i - ms.length) 0
    let off := 0x6000 * b + 256 * p
    if save then s.putJobBytes t k a 256 fun o => x.bankByte (off + o)
    else
      countRead (s.jobMpa t k a) 256
        ((List.range 256).foldl (fun s (o : Nat) =>
          let v := s.readByte (s.jobMpa t k ((a + o : Nat) : Int))
          s.modCore t k fun x => x.setBankByte (off + o) v) s)

end Sys2Proof.Machine
end

