-- ==== Sys2Proof/Machine/CopyGeom.lean ====
section
/-!
DEFINITION. The geometry of copy jobs: the checks a job makes when it starts, and where its elements lie (spec/16 R355,
R356, R364, R367, R369, R370, R374).
-/
namespace Sys2Proof.Machine

/-! ## Places -/

/-- What a byte address of a copy job comes to on the issuing tile: its MPA in the tile's HBM or in a scratchpad of the
tile; else the code of its fault with EXTRA and ADDR (R322, R355). -/
def localByte (s : State) (t : TileId) (k : CoreId) (j : Job) (fld : Nat) (h : Word) (a : Int) (rd wr : Bool) :
    Except FaultRec Nat :=
  let shape : FaultRec := jobRec s t k j .copyShape (geomExtra fld h) (some (false, vaOf a))
  if a < 0 ∨ 2 ^ 60 ≤ a.toNat then .error shape
  else
    match s.access t k a.toNat rd wr with
    | .bad code extra addr => .error (jobRec s t k j code extra (some addr))
    | .win _ _ => .error shape
    | .loc p =>
      match s.place p with
      | .hbm u _ => if u = t then .ok p else .error shape
      | .onDie u _ kind _ => if u = t ∧ kind = 0 then .ok p else .error shape
      | _ => .error shape

/-- Whether a byte address that a record touches is that of a scratchpad row outside the region that the record names of its
core, whichever way it names the row (R98, R114). -/
def outRegion (s : State) (t : TileId) (k : CoreId) (j : Job) (r : Recd) (a : Int) : Bool :=
  recRgnv r &&
    (match localByte s t k j 0 0 a false false with
    | .error _ => false
    | .ok p =>
      match s.place p with
      | .onDie u c 0 off => !(u = t && s.dieCore u c = k && inRegion (s.core t k) (recRegion r) off off)
      | _ => false)

/-- The fault of a byte address of a record, if it has one. -/
def byteFault (s : State) (t : TileId) (k : CoreId) (j : Job) (fld : Nat) (h : Word) (r : Recd) (rd wr : Bool) (a : Int) :
    Option FaultRec :=
  if outRegion s t k j r a then some (jobRec s t k j .shapeBounds (geomExtra fld h) (some (false, vaOf a)))
  else
    match localByte s t k j fld h a rd wr with
    | .error f => some f
    | .ok _ => none

/-- The first byte of a list that has no place, as its fault. -/
def bytesOk (bad : Int → Option FaultRec) (l : List Int) : Except FaultRec Unit :=
  match l.findSome? bad with
  | some f => .error f
  | none => .ok ()

/-- The elements of a record checked in stream order (R355, R437). -/
def elemsOk (r : Recd) (bad : Int → Option FaultRec) : Except FaultRec Unit :=
  match firstBad r (fun a => (bad a).isSome) (recCount r) 0 with
  | some a => match bad a with
    | some f => .error f
    | none => .ok ()
  | none => .ok ()

/-! ## Records -/

/-- Whether a record is dense (R355). -/
def dense (r : Recd) : Bool :=
  (List.range (recRank r)).all fun d =>
    recStride r d == ((List.range d).foldl (fun n e => n * recSize r e) 1 : Nat)

/-- The element bytes of a record. -/
def recBytes (r : Recd) : Nat := recCount r * recW r / 8

/-- Whether an MX record of a copy has its scales along dimension 0 in whole blocks (R355). -/
def mxCopyOk (r : Recd) : Bool := !recMx r || (recAxis r == 0 && recSize r 0 % 32 == 0)

/-- Bytes of the scale slots of an MX record that a copy moves (R355). -/
def slotBytes (r : Recd) : List Int :=
  if recMx r then
    (List.range (mxRows r)).flatMap fun row => (List.range (3 * recSize r 0 / 32)).map fun n => nibbleByte r row n
  else []

/-- The scale bytes of a source of CPYR in MXINT8 (R355). -/
def cpyrScales (r : Recd) : List Int :=
  if recFmt r = 0x10 then
    (List.range (8 * (recBytes r / 256))).map fun (i : Nat) => (recBase r : Int) + recOff r + (i : Nat)
  else []

/-- Chunks of a copy (R356): 4 KiB of the stream each. -/
def chunkCount (r : Recd) : Nat := (recCount r * recW r + 32767) / 32768

/-- The window that the byte address of a destination translates through. -/
def winOfVa (s : State) (t : TileId) (va : Nat) : Option Nat := if va < 0x400000 then none else (s.tile t).winAt va

/-- The window of a copy's destination: the one its BASE translates through (R355). -/
def copyWin (s : State) (t : TileId) (r : Recd) : Option Nat := winOfVa s t (recBase r)

/-- The fault of a row of a destination in window w, if it has one (R355): it translates through another window or to this tile, or
not at all. -/
def remoteRow (s : State) (t : TileId) (k : CoreId) (j : Job) (w a : Nat) : Option FaultRec :=
  let shape : FaultRec := jobRec s t k j .copyShape (geomExtra 2 j.b) (some (false, BitVec.ofNat 60 a))
  match s.translate t k a false true with
  | .win v _ => if v = w then none else some shape
  | .loc _ => some shape
  | .bad code extra addr => some (jobRec s t k j code extra (some addr))

/-- n rows of a destination in window w from address a on (R107, R355): every row of it lies in w, and w passes the checks of a
write. -/
def remoteOk (s : State) (t : TileId) (k : CoreId) (j : Job) (w a n : Nat) : Except FaultRec Unit :=
  match (List.range n).findSome? fun i => remoteRow s t k j w (a + 256 * i) with
  | some f => .error f
  | none =>
    let x := (s.tile t).wins.get w {}
    match winCheck s t w (x.tbase.toNat * 2 ^ 21 + (a - x.base)) (BitVec.ofNat 60 a) false false true
        (fun code extra => jobRec s t k j code extra) with
    | .error f => .error f
    | .ok _ => .ok ()

/-! ## The checks of a job -/

/-- The formats that a reduction takes, as RFMT (R364). -/
def rfmtOf (fmt : Nat) : Option Nat :=
  if fmt = 0x08 then some 0 else if fmt = 0x0A then some 1 else if fmt = 0x03 then some 2
  else if fmt = 0x10 then some 3 else none

/-- A condition that a record must meet, else COPY_SHAPE for want of format or size. -/
def shapeReq (s : State) (t : TileId) (k : CoreId) (j : Job) (b : Bool) (fld : Nat) (h : Word) : Except FaultRec Unit :=
  if b then .ok () else .error (jobRec s t k j .copyShape (geomExtra fld h))

/-- The checks of CPY (R355). -/
def cpyChecks (s : State) (t : TileId) (k : CoreId) (j : Job) (a b : Recd) : Except FaultRec Unit := do
  let req (x : Bool) (fld : Nat) (h : Word) := shapeReq s t k j x fld h
  req (recFmt a == recFmt b) 1 j.a
  match copyWin s t b with
  | some w =>
    req (dense a && !recMx a && recCount a == recCount b) 1 j.a
    req (dense b && !recMx b && recBase b % 256 == 0 && recCount b * recW b % 2048 == 0) 2 j.b
    elemsOk a (byteFault s t k j 1 j.a a true false)
    remoteOk s t k j w (recBase b) (recBytes b / 256)
  | none =>
    req ((recW a != 4 && recW a != 6) || recSize a 0 * recW a % 8 == 0) 1 j.a
    req (mxCopyOk a) 1 j.a
    req (recRank a == recRank b && ((List.range (recRank a)).all fun d => recSize a d == recSize b d) && mxCopyOk b) 2 j.b
    elemsOk a (byteFault s t k j 1 j.a a true false)
    bytesOk (byteFault s t k j 1 j.a a true false) (slotBytes a)
    elemsOk b (byteFault s t k j 2 j.b b false true)
    bytesOk (byteFault s t k j 2 j.b b false true) (slotBytes b)

/-- The checks of CPYD (R355). -/
def cpydChecks (s : State) (t : TileId) (k : CoreId) (j : Job) (a b : Recd) : Except FaultRec Unit := do
  shapeReq s t k j (recFmt a == 0x01 && dense a) 1 j.a
  shapeReq s t k j (mxCopyOk b) 2 j.b
  elemsOk a (byteFault s t k j 1 j.a a true false)
  elemsOk b (byteFault s t k j 2 j.b b false true)
  bytesOk (byteFault s t k j 2 j.b b false true) (slotBytes b)

/-- The checks of CPYR (R355, R364). -/
def cpyrChecks (s : State) (t : TileId) (k : CoreId) (j : Job) (a b : Recd) : Except FaultRec Unit := do
  let n := recCount a * recW a
  shapeReq s t k j (dense a && (rfmtOf (recFmt a)).isSome && n % 8192 == 0 && decide (chunksOf (n / 2048) ≤ 65535) &&
    recBase a % 256 == 0 && (recFmt a != 0x10 || recPitch a == 8)) 1 j.a
  shapeReq s t k j (dense b && recCount b * recW b == n && recBase b % 256 == 0) 2 j.b
  elemsOk a (byteFault s t k j 1 j.a a true false)
  bytesOk (byteFault s t k j 1 j.a a true false) (cpyrScales a)
  match copyWin s t b with
  | some w => remoteOk s t k j w (recBase b) (recBytes b / 256)
  | none => elemsOk b (byteFault s t k j 2 j.b b false true)

/-- Whether two MPAs lie in the HBM of one tile or in one scratchpad (R370). -/
def sameMem (s : State) (a b : Nat) : Bool :=
  match s.place a, s.place b with
  | .hbm t _, .hbm u _ => t = u
  | .onDie t c k _, .onDie u d l _ => t = u && c = d && k = l
  | _, _ => false

/-- The place of a byte that an element of a WMSET touches (R114, R322, R370). -/
def wmByte (s : State) (t : TileId) (k : CoreId) (j : Job) (r : Recd) (a : Int) : Except FaultRec Nat :=
  if outRegion s t k j r a then .error (jobRec s t k j .shapeBounds (geomExtra 1 j.a) (some (false, vaOf a)))
  else localByte s t k j 1 j.a a false false

/-- The lowest and the highest MPA that n elements of a WMSET from element i on touch, with those before them (lo, hi): all in one
memory, or the first that is not faults (R117, R370, R437). -/
def wmScan (s : State) (t : TileId) (k : CoreId) (j : Job) (r : Recd) : Nat → Nat → Option (Nat × Nat) → Except FaultRec (Nat × Nat)
  | 0, _, some p => .ok p
  | 0, _, none => .error (jobRec s t k j .copyShape (geomExtra 1 j.a))
  | n + 1, i, p => do
    let lo := streamBit r i / 8
    let hi := (streamBit r i + recW r - 1) / 8
    let a ← wmByte s t k j r lo
    let (l, h) := p.getD (a, a)
    let shape (v : Int) : FaultRec := jobRec s t k j .copyShape (geomExtra 1 j.a) (some (false, vaOf v))
    if !sameMem s l a then .error (shape lo)
    else
      let b ← wmByte s t k j r hi
      if !sameMem s l b then .error (shape hi)
      else wmScan s t k j r n (i + 1) (some (Nat.min l (Nat.min a b), Nat.max h (Nat.max a b)))

/-- The first and the last byte of the range of WMSET as MPAs (R117, R370). -/
def wmRange (s : State) (t : TileId) (k : CoreId) (j : Job) (r : Recd) : Except FaultRec (Nat × Nat) :=
  wmScan s t k j r (recCount r) 0 none

/-- The record of an invalid group at a job (R367). -/
def groupRec (s : State) (t : TileId) (k : CoreId) (j : Job) : FaultRec :=
  jobRec s t k j .groupInvalid (BitVec.ofNat 64 (j.b.toNat % 256))

/-- THE CHECKS OF A CHANNEL JOB (R355): its fault, or the job with the records it captured and its number of chunks. -/
def copyChecks (s : State) (t : TileId) (k : CoreId) (j : Job) : Except FaultRec Job := do
  let a ← capture s t k j j.a
  match j.op with
  | .cpy =>
    let b ← capture s t k j j.b
    cpyChecks s t k j a b
    .ok { j with recA := a, recB := b, total := chunkCount b, win := copyWin s t b }
  | .cpyd =>
    let b ← capture s t k j j.b
    cpydChecks s t k j a b
    .ok { j with recA := a, recB := b, total := recCount b }
  | .cpyr =>
    let b ← capture s t k j j.b
    cpyrChecks s t k j a b
    .ok { j with recA := a, recB := b, total := chunksOf (recBytes a / 256), win := copyWin s t b }
  | .cpym =>
    shapeReq s t k j (dense a && !recMx a && recBase a % 256 == 0 && recCount a * recW a % 2048 == 0) 1 j.a
    if !((s.tile t).groups.get (j.b.toNat % 256) {}).v then .error (groupRec s t k j)
    else
      elemsOk a (byteFault s t k j 1 j.a a true false)
      .ok { j with recA := a, total := chunkCount a }
  | _ =>
    let _ ← wmRange s t k j a
    .ok { j with recA := a }

/-! ## Watermarks -/

/-- The watermark after rows have been written: it passes every row written (R117). -/
def riseTo (wrote : List Nat) : Nat → Nat → Nat
  | 0, w => w
  | n + 1, w => if wrote.contains (w / 256) then riseTo wrote n (w + 256) else w

/-- Rows written by a channel noted in its watermark (R117). -/
def markRows (t : TileId) (c : Nat) (rows : List Nat) (s : State) : State :=
  let x := (s.tile t).chans.get c {}
  match x.wm with
  | none => s
  | some (w, hi, lo) =>
    let wrote := x.wrote ++ rows.filter fun r => decide (w ≤ 256 * r) && decide (256 * r < hi)
    let w' := riseTo wrote (wrote.length + 1) w
    let s := s.modTile t fun y =>
      { y with
        chans := y.chans.set c
          { x with wm := some (Nat.min w' hi, hi, lo), wrote := wrote.filter fun r => decide (w' ≤ 256 * r) } }
    if w' = w then s else s.dueH s.now t c .watermarkStallEnd

/-- Whether a channel may write rows in this order: none lies more than 64 rows above the watermark when it is written
(R117). -/
def markFits (wm : Option (Nat × Nat × Nat)) (wrote : List Nat) : List Nat → Bool
  | [] => true
  | r :: l =>
    match wm with
    | none => true
    | some (w, hi, lo) =>
      let inside := decide (w ≤ 256 * r) && decide (256 * r < hi)
      if inside && decide (w / 256 + 64 < r) then false
      else
        let wrote := if inside then wrote ++ [r] else wrote
        markFits (some (riseTo wrote (wrote.length + 1) w, hi, lo)) wrote l

/-- Rows of a list, each once, in order. -/
def rowsOf (l : List Nat) : List Nat :=
  l.foldl (fun a x => if a.contains (x / 256) then a else a ++ [x / 256]) []

end Sys2Proof.Machine
end

