-- ==== Sys2Proof/Machine/Carder.lean ====
section
/-!
DEFINITION. The carder: its block header, the Rice codes, the checksum and the checks of a block (spec/16 R360 to R363,
spec/23 R456).
-/
namespace Sys2Proof.Machine

/-- The header of a carder block (R360). -/
structure CHdr where
  fmt : Nat
  res1 : Nat
  kk : Nat
  nelem : Nat
  clen : Nat
  outlen : Nat
  chk : BitVec 16
  res2 : Nat
  deriving DecidableEq, Repr, Inhabited

/-- A header from its 16 bytes (R360). -/
def chdrOf (b : List Nat) : CHdr :=
  let at' (i : Nat) : Nat := b.getD i 0
  let le (i n : Nat) : Nat := (List.range n).foldr (fun d a => at' (i + d) + 256 * a) 0
  {
    fmt := at' 0, res1 := at' 1 / 8, kk := at' 1 % 8, nelem := le 2 2, clen := le 4 4, outlen := le 8 4,
    chk := BitVec.ofNat 16 (le 12 2), res2 := le 14 2 }

/-- Bytes of scales of a block of n elements of a format (R361). -/
def scaleLen (fmt n : Nat) : Nat := if isMx fmt then (3 * (n / 32) + 1) / 2 else 0

/-- Stream bit j of a code area (R361). -/
def codeBit (area : List Nat) (j : Nat) : Bool := area.getD (j / 8) 0 / 2 ^ (j % 8) % 2 == 1

/-- One-bits from position p on, at most n. -/
def onesFrom (area : List Nat) : Nat → Nat → Nat
  | 0, _ => 0
  | n + 1, p => if codeBit area p then 1 + onesFrom area n (p + 1) else 0

/-- n bits from position p on, least significant first. -/
def bitsFrom (area : List Nat) (p n : Nat) : Nat :=
  (List.range n).foldr (fun i a => (if codeBit area (p + i) then 1 else 0) + 2 * a) 0

/-- A code at position p (R361): its zigzag value and the position after it; none past the end of the area. -/
def riceCode (area : List Nat) (kk w p : Nat) : Option (Nat × Nat) :=
  let q := onesFrom area 15 p
  let e := if q = 15 then p + 15 + w else p + q + 1 + kk
  if 8 * area.length < e then none
  else if q = 15 then some (bitsFrom area (p + 15) w, e)
  else some (q * 2 ^ kk + bitsFrom area (p + q + 1) kk, e)

/-- The element of a zigzag value, in w bits (R361; log 14). -/
def unzigzag (w z : Nat) : Nat :=
  let v : Int := if z % 2 = 0 then ((z / 2 : Nat) : Int) else -((z / 2 : Nat) : Int) - 1
  (v % (2 ^ w : Nat)).toNat

/-- n codes from position p on, as elements in w bits. -/
def riceList (area : List Nat) (kk w : Nat) : Nat → Nat → Option (List Nat)
  | 0, _ => some []
  | n + 1, p =>
    match riceCode area kk w p with
    | none => none
    | some (z, e) => (riceList area kk w n e).map fun l => unzigzag w z :: l

/-- Elements of w bits packed into bytes (R123). -/
def packCodes (w : Nat) (l : List Nat) : List Nat :=
  let v := l.foldr (fun x a => x + 2 ^ w * a) 0
  (List.range (l.length * w / 8)).map fun i => v / 256 ^ i % 256

/-- Fletcher-16 as CHK has it (R361). -/
def fletcher (l : List Nat) : BitVec 16 :=
  let (a, b) := l.foldl (fun (p : Nat × Nat) x =>
    let s1 := (p.1 + x) % 255
    (s1, (p.2 + s1) % 255)) (0, 0)
  BitVec.ofNat 16 (256 * b + a)

/-- A block that has passed its checks: its elements, its scale bytes and its length in the source. -/
structure CBlock where
  elems : List Nat
  scales : List Nat
  len : Nat
  deriving DecidableEq, Repr, Inhabited

/-- A block that failed: the condition of CARDER_FORMAT, or 0 for the checksum; the checksum computed, where the block
was decoded, and CHK. -/
structure CFail where
  cond : Nat
  sum : Option (BitVec 16)
  chk : BitVec 16
  deriving DecidableEq, Repr, Inhabited

/-- A BLOCK DECODED AND CHECKED (R360 to R363): `left` bytes of the source are left, `room` elements of the destination
of format fmt and width w. Of several conditions the lowest is reported. -/
def cardBlock (byte : Nat → Nat) (left room fmt w : Nat) : Except CFail CBlock :=
  if left < 16 then .error { cond := 6, sum := none, chk := 0 }
  else
    let h := chdrOf ((List.range 16).map byte)
    let n := scaleLen fmt h.nelem
    let fail (c : Nat) (sum : Option (BitVec 16)) : Except CFail CBlock := .error { cond := c, sum := sum, chk := h.chk }
    if h.res1 ≠ 0 ∨ h.res2 ≠ 0 then fail 1 none
    else if h.fmt ≠ fmt ∨ !(fmt == 0 || isMx fmt) then fail 2 none
    else if h.nelem = 0 ∨ 4096 < h.nelem ∨ (isMx fmt ∧ h.nelem % 32 ≠ 0) then fail 3 none
    else if h.outlen ≠ h.nelem * w / 8 + n then fail 4 none
    else if left < 16 + h.clen then fail (if h.clen < n then 5 else 6) none
    else
      let area := (List.range (h.clen - n)).map fun i => byte (16 + n + i)
      match (if h.clen < n then none else riceList area h.kk w h.nelem 0) with
      | none => fail 5 none
      | some l =>
        let scales := (List.range n).map fun i => byte (16 + i)
        let sum := fletcher (packCodes w l ++ scales)
        if room < h.nelem then fail 7 (some sum)
        else if h.clen % 16 ≠ 0 then fail 8 (some sum)
        else if sum ≠ h.chk then fail 0 (some sum)
        else .ok { elems := l, scales := scales, len := 16 + h.clen }

end Sys2Proof.Machine
end

