-- ==== Sys2Proof/Machine/MatrixRun.lean ====
section
/-!
DEFINITION. How matrix jobs move (spec/15 R335 to R338): offers, starts, the work of one engine cycle, completion, and
the change of divisor (spec/09 R220).
-/
namespace Sys2Proof.Machine

/-! ## What a job accesses -/

/-- Rows of 256 bytes of the image that MSAVE or MREST has gone through (R337, R351). -/
def imageDone (j : Job) : Nat := (imagePlace j j.prog).1 / 256 - imageBase j / 256 + j.pos

/-- The next unit of its operands that a job reads or writes: a row of A, of B, of the bank, of the image. -/
def Job.unit (j : Job) : Nat :=
  match j.op with
  | .mma => if j.pos = 0 then j.prog else j.prog + 1
  | .mplant => 32 * j.prog + j.pos
  | .msave => imageDone j
  | .mrest => imageDone j
  | _ => j.prog

/-- The units of a job. -/
def Job.units (j : Job) : Nat :=
  match j.op with
  | .mma => recSize j.recA 1
  | .mplant => recSize j.recA 1
  | .mdrain => recSize j.recA 1
  | .mdrainSend => 64
  | .msave => imageSize j / 256
  | .mrest => imageSize j / 256
  | _ => 0

/-- The first and the last byte of the elements at the bit addresses given. -/
def cellSpans (r : Recd) (l : List Int) : List (Int × Int) := l.map fun a => (a / 8, (a + recW r - 1) / 8)

/-- Row n of an image. -/
def imageSpan (j : Job) (n : Nat) : Int × Int := (imageBase j + 256 * n, imageBase j + 256 * n + 255)

/-- What unit n of a job reads from memory, as spans of bytes (R344, R347, R351). -/
def Job.reads (j : Job) (n : Nat) : List (Int × Int) :=
  match j.op with
  | .mma =>
    let r := j.recA
    cellSpans r ((List.range (recSize r 0)).map fun kk => bitAt r kk n) ++
      (if recMx r then (List.range (3 * mxBlocks r)).map fun i => (nibbleByte r n i, nibbleByte r n i) else [])
  | .mplant =>
    let r := j.recA
    if recSize r 1 ≤ n then []
    else
      cellSpans r ((List.range (recSize r 0)).map fun i => bitAt r i n) ++
        (if recMx r then (List.range (recSize r 0)).map fun i => (nibbleByte r i 0, nibbleByte r i (3 * (n / 32) + 2))
          else [])
  | .mdrain => if j.recC = 0 then [] else cellSpans j.recC ((List.range (recSize j.recA 0)).map fun i => bitAt j.recC i 0)
  | .mdrainSend => if j.recC = 0 then [] else cellSpans j.recC ((List.range 64).map fun i => bitAt j.recC i 0)
  | .mrest => [imageSpan j n]
  | _ => []

/-- What unit n of a job writes to memory (R347, R351). -/
def Job.writes (j : Job) (n : Nat) : List (Int × Int) :=
  match j.op with
  | .mdrain => cellSpans j.recA ((List.range (recSize j.recA 0)).map fun i => bitAt j.recA i n)
  | .msave => [imageSpan j n]
  | _ => []

/-- The spans within which all that a job reads lies. -/
def Job.readSpan (j : Job) : List (Int × Int) :=
  match j.op with
  | .mma => recSpan j.recA :: if recMx j.recA then [scaleSpan j.recA] else []
  | .mplant => recSpan j.recA :: if recMx j.recA then [scaleSpan j.recA] else []
  | .mdrain => if j.recC = 0 then [] else [recSpan j.recC]
  | .mdrainSend => if j.recC = 0 then [] else [recSpan j.recC]
  | .mrest => [(imageBase j, imageBase j + imageSize j)]
  | _ => []

/-- The spans within which all that a job writes lies. -/
def Job.writeSpan (j : Job) : List (Int × Int) :=
  match j.op with
  | .mdrain => [recSpan j.recA]
  | .msave => [(imageBase j, imageBase j + imageSize j)]
  | _ => []

/-- Whether a span of a list shares a byte with one of another. -/
def spansMeet (l m : List (Int × Int)) : Bool := l.any fun p => m.any fun q => decide (p.1 ≤ q.2) && decide (q.1 ≤ p.2)

/-- Whether an earlier job has yet to read a byte of the spans given. -/
def Job.readsAhead (i : Job) (l : List (Int × Int)) : Bool :=
  spansMeet i.readSpan l && (List.range (i.units - i.unit)).any fun n => spansMeet (i.reads (i.unit + n)) l

/-- Whether an earlier job has yet to write a byte of the spans given. -/
def Job.writesAhead (i : Job) (l : List (Int × Int)) : Bool :=
  spansMeet i.writeSpan l && (List.range (i.units - i.unit)).any fun n => spansMeet (i.writes (i.unit + n)) l

/-- Whether the next unit of a job waits for an access of an earlier job of its queue to the same place: such accesses take
effect in job order (R176). -/
def placeOwed (before : List Job) (j : Job) : Bool :=
  if before.isEmpty then false
  else
    let r := j.reads j.unit
    let w := j.writes j.unit
    before.any fun i => i.writesAhead (r ++ w) || i.readsAhead w

/-! ## Banks -/

/-- The place of bank b in an image, where it has one. -/
def bankPart (j : Job) (b : Nat) : Option Nat := ((jobBanks j).findIdx? fun x => x == b).map fun n => (jobMacros j).length + n

/-- Whether the image job i has yet to go through row m of bank b. -/
def Job.imageOwes (i : Job) (b m : Nat) : Bool :=
  match bankPart i b with
  | some n => decide (i.prog < n) || (i.prog == n && decide (256 * i.pos < 384 * (m + 1)))
  | none => false

/-- Whether an earlier job has still to write row m of bank b (R336). -/
def Job.owes (i : Job) (b m : Nat) : Bool :=
  match i.op with
  | .mma => mmaBank i.f == b && decide (i.prog ≤ m) && decide (m < recSize i.recA 1)
  | .mzero => lowBank i.f == b && decide (4 * i.prog ≤ m)
  | .mrest => i.imageOwes b m
  | _ => false

/-- Whether an earlier job has still to read row m of bank b (R176). -/
def Job.wants (i : Job) (b m : Nat) : Bool :=
  match i.op with
  | .mdrain => lowBank i.f == b && decide (i.prog ≤ m) && decide (m < recSize i.recA 1)
  | .mdrainSend => lowBank i.f == b && decide (i.prog ≤ m)
  | .msave => i.imageOwes b m
  | _ => false

/-- Whether a row of a bank waits for an earlier job of the queue (R336). -/
def rowOwed (before : List Job) (b m : Nat) : Bool := before.any fun i => i.owes b m

/-- Whether a row of a bank waits to be read by an earlier job of the queue (R176). -/
def rowWanted (before : List Job) (b m : Nat) : Bool := before.any fun i => i.wants b m

/-- The rows of its bank that the next row of an image belongs to. -/
def imageRows (j : Job) : List Nat := [256 * j.pos / 384, (256 * j.pos + 255) / 384].eraseDups

/-! ## Operands -/

/-- The record of uncorrectable data at a job (R437, R443). -/
def jobBad (s : State) (t : TileId) (k : CoreId) (j : Job) (g : Nat) : FaultRec :=
  jobRec s t k j .dataUncorrectable (BitVec.ofNat 64 (s.storeCode g)) (some (true, BitVec.ofNat 60 g))

/-- Whether what the next unit of a job reads lies behind a watermark (R118). The rows of the image that MREST reads are taken as
no operand fetch, as R105 names them beside it; those that MPLANT reads are (the model's choice, log 58). -/
def operandStall (s : State) (t : TileId) (k : CoreId) (j : Job) : Bool :=
  ((s.tile t).chans.rows.any fun c => c.2.wm.isSome) && j.op != .mrest &&
    (j.reads j.unit).any fun a => (s.tile t).behindMark (s.padAt t k a.1) || (s.tile t).behindMark (s.padAt t k a.2)

/-- The first fault of the translation of a place in memory that the next unit of a job writes, or that MREST reads (R438). -/
def unitFault (s : State) (t : TileId) (k : CoreId) (j : Job) : Option FaultRec :=
  let wr := j.op != .mrest
  let l := if wr then j.writes j.unit else j.reads j.unit
  (l.findSome? fun a =>
    ((placeFault s t k none (!wr) wr a.1).map fun c => (a.1, c)).orElse fun _ =>
      (placeFault s t k none (!wr) wr a.2).map fun c => (a.2, c)).map fun p => placeRec s t k j 1 j.a (!wr) wr p

/-- The rows of the banks that the next unit of a job reads (R346, R347, R351). -/
def Job.bankReads (j : Job) : List (Nat × Nat) :=
  match j.op with
  | .mma => if j.pos = 0 ∧ j.f.md.getLsbD 3 = false then [(mmaBank j.f, j.prog)] else []
  | .mdrain => [(lowBank j.f, j.prog)]
  | .mdrainSend => [(lowBank j.f, j.prog)]
  | .msave =>
    if j.prog < (jobMacros j).length then []
    else (imageRows j).map fun m => ((jobBanks j).getD (j.prog - (jobMacros j).length) 0, m)
  | _ => []

/-- Whether the next unit of a job reads a column of a K-block found uncorrectable (R441). -/
def Job.macroBad (j : Job) (x : Core) : Bool :=
  match j.op with
  | .mma => x.badMac.any fun q => q.1 == macN j.f
  | .msave => (jobMacros j)[j.prog]?.any fun m => x.badMac.any fun q => q.1 == m
  | _ => false

/-- The first uncorrectable granule of memory that the next unit of a job reads, or writes in part only (R443). -/
def unitBad (s : State) (t : TileId) (k : CoreId) (j : Job) : Option Nat :=
  match j.op with
  | .mrest => s.badIn (s.jobMpa t k (imageSpan j j.unit).1) 256
  | _ =>
    ((j.reads j.unit).findSome? fun a => (s.badIn (s.padAt t k a.1) 1).orElse fun _ => s.badIn (s.padAt t k a.2) 1).orElse fun _ =>
      if s.bad.isEmpty || j.op != .mdrain then none else badWrite s (drainBytes s t k j j.unit)

/-- The fault of the next unit of a job (R438, R441, R443): a place that does not translate, or uncorrectable data that it reads, in
a macro, which has no address (log 57), in a bank or in memory. -/
def operandBad (s : State) (t : TileId) (k : CoreId) (j : Job) : Option FaultRec :=
  match unitFault s t k j with
  | some r => some r
  | none =>
    if j.macroBad (s.core t k) then some (jobRec s t k j .dataUncorrectable 3)
    else
      ((j.bankReads.findSome? fun b => s.badAccRow t k b.1 b.2 (BitVec.allOnes 64)).orElse fun _ => unitBad s t k j).map
        (jobBad s t k j)

/-- The scratchpad rows, by MPA, that the next unit of a job asks the banks for (R105). -/
def unitRows (s : State) (t : TileId) (k : CoreId) (j : Job) : List Nat :=
  let l := j.reads j.unit ++ j.writes j.unit
  let rows := (l.flatMap fun p => if p.2 - p.1 < 256 then [p.1 / 256, p.2 / 256] else []).eraseDups
  (rows.filter fun a => decide (0 ≤ a) && decide (a < 16384)).map fun a => s.padAt t k (256 * a)

/-- The requests of a job's next unit at the banks, made in rc e (R105). -/
def askUnit (t : TileId) (k : CoreId) (j : Job) (e : Nat) (s : State) : State :=
  askCore (.matrix j.start j.id) (e / 2) (unitRows s t k j) t k s

/-! ## One engine cycle -/

/-- Whether a job stands at a step at which it can be frozen (R85, R337). -/
def Job.atStep (j : Job) : Bool :=
  match j.op with
  | .mma => j.pos == 0 && j.prog % 8 == 0
  | .mplant => j.pos == 0 && j.prog % 2 == 0
  | _ => false

/-- Whether the engine cycles of a job are over (R337): for MDRAIN the later of M + 4 from its start and 4 from the one in which
it read its last bank row. -/
def Job.workDone (j : Job) : Bool :=
  match j.op with
  | .mplant => decide (recSize j.recA 1 ≤ 32 * j.prog)
  | .mma => decide (recSize j.recA 1 ≤ j.prog)
  | .mdrain => decide (recSize j.recA 1 ≤ j.prog) && decide (3 ≤ j.pos) && decide (recSize j.recA 1 + 4 ≤ j.ecs)
  | .mdrainSend => decide (64 ≤ j.prog) && decide (3 ≤ j.pos) && decide (68 ≤ j.ecs)
  | .mzero => decide (16 ≤ j.prog)
  | .msave => decide ((jobMacros j).length + (jobBanks j).length ≤ j.prog)
  | .mrest => decide ((jobMacros j).length + (jobBanks j).length ≤ j.prog)
  | .mbatt => decide (4 * (j.a.toNat % 256) ≤ j.pos)
  | _ => true

/-- Whether a job has done its work (R337, R348, R349): all its chunks are accepted where it sends. -/
def Job.finished (j : Job) : Bool := j.workDone && (j.op != .mdrainSend || (j.fired && decide (j.total ≤ j.bytes)))

/-- THE ENGINE CYCLE AT RC e OF A RUNNING JOB (R336, R337, R345 to R351): the job after it, what it changed, and its fault. A job
that holds at a row, that a bank conflict delays, or that stands at a step where it is to freeze stays as it is. An MMA reads row
m of its bank in the first cycle of the row and writes it in the last: what a window access writes there between the two is
overwritten (log 55). -/
def stepJob (t : TileId) (k : CoreId) (freeze : Bool) (e : Nat) (before : List Job) (j : Job) (s : State) :
    Job × State × Option FaultRec :=
  let hold : Job × State × Option FaultRec := (j, s, none)
  let real (s : State) : State := s.countAt t e 0x06 k
  let leave : Job := if j.atStep then { j with stepAt := e, undo := [] } else j
  let fetch (go : State → Job × State × Option FaultRec) : Job × State × Option FaultRec :=
    if placeOwed before j then hold
    else if operandStall s t k j then (j, s.countAt t e 0x09 k, none)
    else
      match operandBad s t k j with
      | some r => (j, s, some r)
      | none => go (askUnit t k j e s)
  if j.debt ≠ 0 then ({ j with debt := j.debt - 1 }, s, none)
  else if j.workDone || (freeze && j.atStep) then hold
  else
    match j.op with
    | .mma =>
      let d := fmtcD (fmtcN j.f)
      if j.pos = 0 then
        if rowOwed before (mmaBank j.f) j.prog then hold
        else fetch fun s => ({ leave with pos := 1, buf := mmaRow s t k j j.prog }, real s, none)
      else if j.pos + 1 < d then ({ j with pos := j.pos + 1 }, real s, none)
      else if rowWanted before (mmaBank j.f) j.prog then hold
      else
        let old := (List.range 64).map fun c => (s.core t k).accEl (mmaBank j.f) j.prog c
        ({ j with
            pos := 0, prog := j.prog + 1, buf := [],
            undo := if s.now ≤ j.stepAt then j.undo ++ [(j.prog, old)] else j.undo },
          real (putBankRow t k (mmaBank j.f) j.prog j.buf s), none)
    | .mplant =>
      fetch fun s =>
        let j := leave
        let j := if j.unit < j.units then { j with buf := j.buf ++ plantRow s t k j.recA j.unit } else j
        if j.pos + 1 < 32 then ({ j with pos := j.pos + 1 }, real s, none)
        else ({ j with pos := 0, prog := j.prog + 1, buf := [] }, real (plantBlock t k j j.prog s), none)
    | .mdrain =>
      if recSize j.recA 1 ≤ j.prog then ({ j with pos := j.pos + 1 }, s, none)
      else if rowOwed before (lowBank j.f) j.prog then hold
      else fetch fun s => ({ j with prog := j.prog + 1 }, drainRow t k j j.prog s, none)
    | .mdrainSend =>
      if 64 ≤ j.prog then ({ j with pos := j.pos + 1 }, s, none)
      else if rowOwed before (lowBank j.f) j.prog then hold
      else
        fetch fun s =>
          ({ j with prog := j.prog + 1, drained := j.drained ++ [drainSendRow s t k j j.prog] }, s, none)
    | .mzero =>
      let b := lowBank j.f
      if (List.range 4).any fun i => rowOwed before b (4 * j.prog + i) || rowWanted before b (4 * j.prog + i) then hold
      else
        ({ j with prog := j.prog + 1 },
          (List.range 4).foldl (fun s i => putBankRow t k b (4 * j.prog + i) (List.replicate 64 0) s) s, none)
    | .msave | .mrest =>
      let isMac := decide (j.prog < (jobMacros j).length)
      let b := (jobBanks j).getD (j.prog - (jobMacros j).length) 0
      if !isMac && ((imageRows j).any fun m => rowOwed before b m || (j.op == .mrest && rowWanted before b m)) then hold
      else
        fetch fun s =>
          let s := imageRow t k j j.prog j.pos (if isMac then real s else s)
          if j.pos + 1 < (imagePlace j j.prog).2 then ({ j with pos := j.pos + 1 }, s, none)
          else ({ j with pos := 0, prog := j.prog + 1 }, s, none)
    | .mbatt => ({ j with pos := j.pos + 1 }, s.countAt t e 0x07 k, none)
    | _ => hold

/-- The engine cycle at rc e of the running jobs of a queue, the latest first, so that each sees what stood before the cycle
(R336, R346). A job whose work is over with it has rc `e'` as its end. -/
def stepList (t : TileId) (k : CoreId) (freeze : Bool) (e e' : Nat) : List Job → List Job → State →
    List Job × State × List (Job × FaultRec)
  | _, [], s => ([], s, [])
  | before, j :: r, s =>
    let (r', s, fs) := stepList t k freeze e e' (before ++ [j]) r s
    if j.stat = .running then
      let (j', s, f) := stepJob t k freeze e before { j with ecs := j.ecs + 1 } s
      let j' := if j'.workDone && j'.fin.isNone && j'.debt == 0 then { j' with fin := some e' } else j'
      (j' :: r', s, (match f with | some x => [(j', x)] | none => []) ++ fs)
    else (j :: r', s, fs)

/-! ## The limiter's charges -/

/-- The charge of a job ended at an rc (R221). -/
def endCharge (t : TileId) (k : CoreId) (id now : Nat) (s : State) : State :=
  s.modTile t fun x =>
    { x with
      lim := { x.lim with
        charges := x.lim.charges.map fun c =>
          if c.core = k ∧ c.job = id ∧ c.ended.isNone then { c with ended := some now } else c } }

/-- A firing of drained rows sent once (R349), and again from where a fault has stopped it (R474). Its rows have no address in memory:
the record of a chunk whose circuit is not LIVE carries that of its first row at the peers (log 26). -/
def sendDrained (t : TileId) (k : CoreId) (q : QueueId) (j : Job) (s : State) : State :=
  if j.op == .mdrainSend && decide (64 ≤ j.prog) && !j.fired then
    let i := j.a.toNat % 256
    fire t k q j i (((s.tile t).cents.get i {}).raddr.toNat * 256) j.drained [] (fun _ => none) s
  else s

/-- A job whose macros are saved or restored drives none of them any more (R221, R337). -/
def macrosDone (j : Job) : Bool :=
  (j.op == .msave || j.op == .mrest) && j.stat == .running && decide ((jobMacros j).length ≤ j.prog)

/-- One engine cycle of a queue at rc e, with the charges that end with it; jobs that fault park. -/
def cycleQueue (t : TileId) (k : CoreId) (q : QueueId) (freeze : Bool) (s : State) (e : Nat) : State :=
  let e' := e + (s.core t k).meff
  let (l, s, fs) := stepList t k freeze e e' [] ((s.core t k).queue q) s
  let s := s.modCore t k fun x => x.setQueue q l
  let s := l.foldl (fun s j => if macrosDone j then endCharge t k j.id e' s else s) s
  fs.foldl (fun s f => parkJob t k q f.1 f.2 (endCharge t k f.1.id s.now s)) s

/-- A MATRIX STEP OF A QUEUE (R220, R336, R337): the four engine cycles from this boundary on. What they do to the banks stands
from the boundary, so that every other access to a bank falls between two steps (R95, R314); each job ends in its own cycle. -/
def stepQueue (t : TileId) (k : CoreId) (q : QueueId) (freeze : Bool) (s : State) : State :=
  let d := (s.core t k).meff
  let s := [0, 1, 2, 3].foldl (fun s i => cycleQueue t k q freeze s (s.now + i * d)) s
  let l := (s.core t k).queue q
  let s := l.foldl (fun s j => if j.stat = .running then sendDrained t k q j s else s) s
  l.foldl (fun s j =>
    match j.fin with
    | some n => if j.stat = .running ∧ s.now < n then s.dueK n t k .matrixJobComplete else s
    | none => s) s

/-! ## Offers -/

/-- Whether every macro of a job is free (R335). -/
def macrosFree (before : List Job) (names : List Nat) (j : Job) : Bool :=
  (jobMacros j).all fun m =>
    !names.contains m &&
      before.all fun i => !(jobMacros i).contains m || !(i.stat == .granted || i.stat == .running || i.stat == .frozen)

/-- Whether MSAVE of a handler still waits for the context's jobs to freeze (R352). -/
def saveWaits (x : Core) (q : QueueId) (j : Job) : Bool :=
  q == .handler && j.op == .msave && x.mxq.any fun i => i.stat == .running || i.stat == .granted

/-- The checks of a job, once: a job that was frozen keeps its records (R116, R352). -/
def checkOnce (s : State) (t : TileId) (k : CoreId) (j : Job) : Except FaultRec Job :=
  if j.begun then .ok j else matChecks s t k j

/-- Engine cycles of a core's matrix engine up to rc n: those under earlier divisors, and those since (R18, R220, R228). -/
def Core.ecNo (x : Core) (n : Nat) : Nat := x.engEc + (n / x.meff - x.engFrom / x.meff)

/-- The rc from which the pacing gap of a matrix queue lets a job request or start (R227, R228). -/
def Core.gapRc (x : Core) (q : QueueId) (now : Nat) : Nat :=
  let due := x.lastStart.get (QueueId.park q) 0 + x.gap.get (QueueId.code q) 0
  if !x.lastStart.keys.contains (QueueId.park q) || decide (due ≤ x.ecNo now) then now
  else (due - x.engEc + x.engFrom / x.meff) * x.meff

/-- Whether the gap of a matrix queue is met. -/
def Core.gapMet (x : Core) (q : QueueId) (now : Nat) : Bool := decide (x.gapRc q now ≤ now)

/-- Whether no earlier job of a queue with a pacing gap has yet to start: the gap counts from that start (R227). -/
def Core.paceFree (x : Core) (q : QueueId) (before : List Job) : Bool :=
  x.gap.get (QueueId.code q) 0 == 0 || before.all fun j => j.stat != .granted

/-- THE OFFERS OF A QUEUE (R335): from its head on, each job that meets the conditions of its place; a head of cost 0 is checked
as soon as its wait is satisfied (R116). The head's failed checks park it; a follower's end the run. -/
def offerList (s : State) (t : TileId) (k : CoreId) (q : QueueId) :
    List Job → List Job → Bool → List Nat → List Job × Option (Job × FaultRec)
  | before, [], _, _ => (before, none)
  | before, j :: r, head, names =>
    let stop : List Job × Option (Job × FaultRec) := (before ++ j :: r, none)
    let x := s.core t k
    let go (j : Job) : List Job × Option (Job × FaultRec) :=
      offerList s t k q (before ++ [j]) r false (names ++ jobMacros j)
    match j.stat with
    | .granted | .running | .sentAll => offerList s t k q (before ++ [j]) r head names
    | .parked | .frozen => stop
    | .offered => if jobCost j = 0 then stop else go j
    | .queued =>
      let ok :=
        if jobCost j = 0 then head && j.satisfied s.now
        else
          macrosFree before names j && !saveWaits x q j &&
            (if head then j.satisfied s.now && x.gapMet q s.now && x.paceFree q before
              else !j.f.we && x.gap.get (QueueId.code q) 0 == 0)
      if !ok then stop
      else
        match checkOnce s t k j with
        | .error f => if head then (before ++ { j with stat := .parked } :: r, some (j, f)) else stop
        | .ok j =>
          if jobCost j = 0 then (before ++ { j with stat := .offered, start := s.now + 1 } :: r, none)
          else go { j with stat := .offered, reqStep := s.now / 8, start := s.now }

/-- The head of a matrix queue: its first job that is neither granted nor, for cost 0, started (R335). -/
def matHead (l : List Job) : Option Job := l.find? fun j => j.stat != .granted && j.stat != .running

/-- A queue offers (R335): the head's wait goes to the semaphore file, the head and its followers are offered, and the
limiter and the engine are told. -/
def offerQueue (t : TileId) (k : CoreId) (q : QueueId) (s : State) : State :=
  let x := s.core t k
  let l := x.queue q
  let s := match matHead l with
    | some j => if j.stat = .queued then sendWait t k q j s else s
    | none => s
  let (l', f) := offerList s t k q [] (((s.core t k).queue q)) true []
  let s := s.modCore t k fun x => x.setQueue q l'
  let s := if l'.any fun j => j.stat == .offered && jobCost j != 0 then s.dueT s.now t .limiterStep else s
  let s := if l'.any fun j => j.stat == .offered && jobCost j == 0 then
      s.dueK (x.stepBoundary (s.now + 1)) t k .matrixJobStart
    else s
  let s := if x.gapMet q s.now || l'.isEmpty then s else s.dueK (x.gapRc q s.now) t k .matrixJobOffer
  match f with
  | some (j, r) => parkJob t k q j r s
  | none => s

/-- MATRIX_JOB_OFFER (R335, R352): the context's queue, unless it is held, and the handler's. -/
def execMatrixJobOffer (s : State) : Host.Outcome State Fault Refusal :=
  let t := s.cur.tile
  let k := s.cur.core
  let s := if (s.core t k).held then s else offerQueue t k .matrix s
  .next (offerQueue t k .handler s)

/-! ## Starts -/

/-- The charges of the jobs of a queue that start now, with the rc at which they began to drive (R221, R226). -/
def beginCharges (t : TileId) (k : CoreId) (ids : List Nat) (s : State) : State :=
  s.modTile t fun x =>
    { x with
      lim := { x.lim with
        charges := x.lim.charges.map fun c =>
          if c.core = k ∧ c.job ∈ ids then { c with began := some s.now } else c } }

/-- The next step boundary of a core's engine after rc n (R220). -/
def Core.nextBoundary (x : Core) (n : Nat) : Nat := x.stepBoundary (n + 1)

/-- The jobs of a queue that start at this boundary (R335): granted ones, and a head of cost 0 once the context's jobs have frozen
where it is the handler's MSAVE, and its firing, if it is one, may begin; with a pacing gap one of them, once the gap is met
(R227). -/
def startQueue (t : TileId) (k : CoreId) (q : QueueId) (s : State) : State :=
  let x := s.core t k
  let l := x.queue q
  let may (j : Job) : Bool :=
    (j.stat == .granted || (j.stat == .offered && jobCost j == 0 && !saveWaits x q j)) &&
      decide (j.start ≤ s.now) && !firingWaits s t j
  let starts (j : Job) : Bool :=
    may j && (x.gap.get (QueueId.code q) 0 == 0 || (x.gapMet q s.now && (l.find? may).any fun i => i.id == j.id))
  let s := l.foldl (fun s j => if starts j && j.toFire then takeEntry t j s else s) s
  if l.any starts then
    let begin' (j : Job) : Job :=
      { j with
        stat := .running, begun := true, start := s.now, ecs := if j.begun then j.ecs else 0,
        fin := if j.workDone then some s.now else none }
    let s := beginCharges t k ((l.filter starts).map (·.id)) s
    let s := s.modCore t k fun x =>
      let x := x.setQueue q (l.map fun j => if starts j then begin' j else j)
      { x with lastStart := x.lastStart.set (QueueId.park q) (x.ecNo s.now) }
    let s := if l.any fun j => starts j && j.workDone then s.dueK s.now t k .matrixJobComplete else s
    s.dueK s.now t k .matrixJobOffer
  else s

/-- Whether a queue has a job that runs or is to start. -/
def queueLive (l : List Job) : Bool :=
  l.any fun j => j.stat == .running || j.stat == .granted || (j.stat == .offered && jobCost j == 0)

/-- The next step boundary of a core's engine due, while a queue has a job that runs or is to start. -/
def nextStep (t : TileId) (k : CoreId) (s : State) : State :=
  let x := s.core t k
  if queueLive x.mxq || queueLive x.hxq then s.dueK (x.nextBoundary s.now) t k .matrixJobStart else s

/-- MATRIX_JOB_START (R335, R336, R220): at a step boundary of the engine the jobs that are to freeze freeze and the jobs whose
boundary this is start; then, as index 1 at the end of the rc, every running job has its matrix step. -/
def execMatrixJobStart (s : State) : Host.Outcome State Fault Refusal :=
  let t := s.cur.tile
  let k := s.cur.core
  let x := s.core t k
  if s.now < x.engFrom ∨ s.now % (4 * x.meff) ≠ 0 then .next (nextStep t k s)
  else if s.cur.ix = 1 then
    if s.now < x.engAt then .next (nextStep t k s)
    else
      let s := stepQueue t k .handler false (stepQueue t k .matrix x.held s)
      .next (nextStep t k (s.modCore t k fun x => { x with engAt := s.now + 4 * x.meff }))
  else
    let s := if x.held && x.mxq.any fun j => j.stat == .running || j.stat == .granted then
        s.dueK s.now t k .engineFreeze
      else s
    let s := if x.held then s else startQueue t k .matrix s
    .next ((startQueue t k .handler s).dueU s.now t k 1 .matrixJobStart)

/-! ## Completion -/

/-- Whether a job's last cycle is over by rc n, no bank conflict adding to it (R105, R337). -/
def Core.jobOver (x : Core) (n : Nat) (j : Job) : Bool :=
  j.stat == .running && j.finished && (match j.fin with
    | some e => decide (e ≤ n)
    | none => false) && j.debt == 0 && !x.bankq.any fun r => r.job == some j.id

/-- The jobs of a queue that have done their work leave it, in order, with their signals (R119, R334); one whose signal meets an
uncorrectable semaphore parks there (R444). -/
def completeQueue (t : TileId) (k : CoreId) (q : QueueId) (s : State) : State :=
  let x := s.core t k
  let l := x.queue q
  let bad (j : Job) : Option FaultRec := signalBad s t k j
  let s := s.modCore t k fun y => y.setQueue q (l.filter fun j => !x.jobOver s.now j || (bad j).isSome)
  (l.filter (x.jobOver s.now)).foldl (fun s j =>
    let s := endCharge t k j.id s.now s
    match bad j with
    | some r => parkJob t k q j r s
    | none => jobSignal t k j none s) s

/-- The jobs of a queue that a bank conflict keeps past their last cycle look again once it has cost what it costs: within the
matrix step under way, or with what is left of it in the next one (R18, R105). -/
def delayQueue (t : TileId) (k : CoreId) (q : QueueId) (s : State) : State :=
  let x := s.core t k
  let past (j : Job) : Bool :=
    j.stat == .running && (match j.fin with
      | some e => decide (e ≤ s.now)
      | none => false) && (j.debt != 0 || x.bankq.any fun r => r.job == some j.id)
  let later (j : Job) : Nat := s.now + Nat.max 1 j.debt * x.meff
  let wait (j : Job) : Job :=
    if later j ≤ x.engAt then { j with fin := some (later j), debt := 0 }
    else { j with fin := none, debt := j.debt - (x.engAt - s.now) / x.meff }
  let s := s.modCore t k fun y => y.setQueue q ((y.queue q).map fun j => if past j then wait j else j)
  ((x.queue q).filter past).foldl (fun s j =>
    if later j ≤ x.engAt then s.dueK (later j) t k .matrixJobComplete else s) s

/-- MATRIX_JOB_COMPLETE (R334, R337, R348). -/
def execMatrixJobComplete (s : State) : Host.Outcome State Fault Refusal :=
  let t := s.cur.tile
  let k := s.cur.core
  let s := delayQueue t k .handler (delayQueue t k .matrix s)
  let s := completeQueue t k .handler (completeQueue t k .matrix s)
  let s := (s.dueK s.now t k .matrixJobOffer).dueT s.now t .limiterStep
  .next (queueDone t k s)

/-! ## Divisors -/

/-- The throttle level of a tile's string (R219). -/
def State.levelOf (s : State) (t : TileId) : Nat := (s.str (stringOf t)).level

/-- MATRIX_DIVISOR_CHANGE (R220, R228, R432): the new effective divisor, and the engine's first boundary under it; the cycles
before it keep their count, and a gap that is still to be met is looked at afresh. -/
def execMatrixDivisorChange (s : State) : Host.Outcome State Fault Refusal :=
  let t := s.cur.tile
  let k := s.cur.core
  let x := s.core t k
  let d := Nat.max x.mdivNew (2 + s.levelOf t)
  if d = x.meff then .next (s.modCore t k fun x => { x with mdiv := x.mdivNew })
  else
    let from' := alignUp s.now (4 * d)
    let s := s.modCore t k fun x =>
      { x with mdiv := x.mdivNew, meff := d, engFrom := from', engEc := x.ecNo s.now, engCut := s.now, engOld := x.meff }
    let s := if queueLive x.mxq || queueLive x.hxq then s.dueK from' t k .matrixJobStart else s
    .next (if x.mxq.isEmpty && x.hxq.isEmpty then s else s.dueK s.now t k .matrixJobOffer)

end Sys2Proof.Machine
end

