-- ==== Sys2Proof/Machine/Limiter.lean ====
section
/-!
DEFINITION. The current-slew limiter of a tile and the governor of a string (spec/09 R216 to R226, spec/21 R432), and
the freezing of a core's engines (spec/03 R85, spec/15 R352).
-/
namespace Sys2Proof.Machine

/-! ## The limiter -/

/-- A request of a matrix queue: its core, its queue and its job (R221). -/
abbrev Want := CoreId × QueueId × Job

/-- The requests of a tile in the order of R223 but for their request step: by core, the context queue first. -/
def wantsOf (x : Tile) : List Want :=
  x.coreList.flatMap fun k =>
    [QueueId.matrix, QueueId.handler].flatMap fun q =>
      (((x.core k).queue q).filter fun j => j.stat == .offered && jobCost j != 0).map fun j => (k, q, j)

/-- A request put in its place by request step, after those of the same step. -/
def putWant (w : Want) : List Want → List Want
  | [] => [w]
  | v :: r => if w.2.2.reqStep < v.2.2.reqStep then w :: v :: r else v :: putWant w r

/-- The requests of a tile in the order of R223. -/
def wants (x : Tile) : List Want := (wantsOf x).foldl (fun l w => putWant w l) []

/-- The charged real jobs and the governor batts that run (R222, R225). -/
def Limiter.real (l : Limiter) : Nat := l.charges.foldl (fun n c => n + c.cost) 0 + l.gbatt.length

/-- Whether a macro of a core is idle: it runs no job, holds no frozen job and no governor batt, and its core is not gated
(R218). -/
def macroIdle (x : Tile) (k : CoreId) (m : Nat) : Bool :=
  let c := x.core k
  !c.gated && !x.lim.gbatt.contains (k, m) &&
    (c.mxq ++ c.hxq).all fun j =>
      !(j.stat == .granted || j.stat == .running || j.stat == .frozen) || !(jobMacros j).contains m

/-- Whether the limiter step under way may run a batt on a macro (R218, R225): it is idle, and no job charged in the step has
driven it. -/
def Tile.spare (x : Tile) (k : CoreId) (m : Nat) : Bool :=
  macroIdle x k m && !x.lim.charges.any fun r => r.core == k && r.macs.contains m

/-- The macros of a core on which the limiter step under way may run a batt. -/
def idleCount (x : Tile) (k : CoreId) : Nat := ((List.range 4).filter (x.spare k)).length

/-- f fill batts placed on the idle macros, in core order: how many run on each core (R225). -/
def placeFill (x : Tile) : List CoreId → Nat → List (CoreId × Nat)
  | [], _ => []
  | k :: r, f =>
    let n := Nat.min f (idleCount x k)
    (k, n) :: placeFill x r (f - n)

/-- RAMPSTAT (R226). -/
def Limiter.word (l : Limiter) (pend : Nat) : Word :=
  BitVec.ofBool l.quiet ++ BitVec.ofNat 3 l.idx ++ BitVec.ofNat 7 l.short ++ BitVec.ofNat 7 (Nat.min pend 64) ++
    BitVec.ofNat 7 (Config.rampTab l.idx) ++ BitVec.ofNat 7 l.active

/-- Whether A was below 4 in each of the last 16 steps (R222). -/
def quietIn (hist : List Nat) : Bool := hist.all fun a => decide (a < 4)

/-- The multiples of d from rc a on and before rc b. -/
def multiplesIn (d a b : Nat) : Nat := (b + d - 1) / d - (a + d - 1) / d

/-- Engine cycles of a core in limiter step p: those under the present divisor, and those before the change to it; none fall
between the two (R220). -/
def ecsIn (x : Core) (p : Nat) : Nat :=
  multiplesIn x.meff (Nat.max (8 * p) x.engFrom) (Nat.max (8 * p + 8) x.engFrom) +
    multiplesIn x.engOld (8 * p) (Nat.max (8 * p) (Nat.min (8 * p + 8) x.engCut))

/-- The macros of a tile on which the limiter step under way may run a batt (R218, R225), in ascending core and macro order. -/
def idleMacros (x : Tile) : List (CoreId × Nat) :=
  x.coreList.flatMap fun k => ((List.range 4).filter (x.spare k)).map fun m => (k, m)

/-- The governor batts asked for, granted after every real request of the step unless one of these has not fitted (R218, R223,
R224). -/
def Limiter.grantBatts (l : Limiter) (idle : List (CoreId × Nat)) : Limiter :=
  let n := if l.blocked then 0 else Nat.min (Nat.min l.gwant idle.length) (Config.rampTab l.idx - l.real)
  { l with gbatt := l.gbatt ++ idle.take n, gwant := l.gwant - n }

/-- THE END OF A LIMITER STEP (R222 to R226): its governor batts are placed, and its fill batts; A, the counts, RAMPSTAT; then the
step under way now begins. What the batts placed here drive in the step is counted here, as it depends on the grants up to the
step's last rc (R54; log 13). -/
def limRoll (t : TileId) (s : State) : State :=
  let x := s.tile t
  let old := x.lim
  let k := s.now / 8
  if k ≤ old.step then s
  else
    let l := old.grantBatts (idleMacros x)
    let x := { x with lim := l }
    let s := s.modTile t fun _ => x
    let p := l.step
    let drives (c : CoreId) : Bool := decide (0 < ecsIn (x.core c) p)
    let f := l.active - l.rampdn - l.real
    let fills := placeFill x x.coreList f
    let n := fills.foldl (fun a r => a + r.2) 0
    let batts := (l.charges.filter fun c => c.batt && drives c.core && (match c.began with
      | some b => decide (b < 8 * p + 8)
      | none => false)).length
    let runs := (l.gbatt.filter fun g => drives g.1).length + (fills.filter fun r => drives r.1).foldl (fun a r => a + r.2) 0
    let late := (wantsOf x).filter fun w => decide (w.2.2.reqStep ≤ p)
    let a := l.real + n
    let l := { l with
      active := a, short := f - n, battcnt := l.battcnt + BitVec.ofNat 32 (runs + batts) }
    let s := fills.foldl (fun s r => s.count t 0x07 (some r.1) (r.2 * ecsIn (x.core r.1) p)) s
    let s := (l.gbatt.drop old.gbatt.length).foldl (fun s g => s.count t 0x07 (some g.1) (ecsIn (x.core g.1) p)) s
    let s := (fills.filter fun r => r.2 != 0).foldl (fun s r => stir t r.1 s) s
    let s := l.gbatt.foldl (fun s g => stir t g.1 s) s
    let s := late.foldl (fun s w => s.count t 0x10 (some w.1) 1) s
    let hist := (List.replicate (Nat.min 16 (k - p - 1)) 0 ++ a :: l.hist).take 16
    let quiet := quietIn hist
    let l := { l with
      report := l.word (late.length + l.gwant), hist := hist, quiet := quiet, active := if k = p + 1 then a else 0,
      idx := if quiet then l.idx else Nat.min 7 (l.idx + 1), gtaken := l.gend,
      gbatt := l.gbatt.filter fun g => !l.gend.contains g, gend := [],
      charges := l.charges.filter (fun c => match c.ended with
        | some e => decide (8 * k < e)
        | none => true), step := k, blocked := false }
    s.modTile t fun x => { x with lim := l }

/-- A request granted in step k (R221, R335): it is charged, and starts at its engine's next step boundary. -/
def grantWant (t : TileId) (w : Want) (s : State) : State :=
  let (k, q, j) := w
  let from' := Nat.max s.now j.start
  let s := modJob t k q j.id (fun j => { j with stat := .granted, start := from' }) s
  let s := s.modTile t fun x =>
    { x with
      lim := { x.lim with
        charges := x.lim.charges ++ [{ core := k, job := j.id, cost := jobCost j, macs := jobMacros j, batt := j.op == .mbatt }] } }
  (s.dueK ((s.core t k).stepBoundary from') t k .matrixJobStart).dueK s.now t k .matrixJobOffer

/-- Whether a request names one of the macros listed. -/
def Want.names (w : Want) (l : List (CoreId × Nat)) : Bool := (jobMacros w.2.2).any fun m => l.contains (w.1, m)

/-- THE GRANTS OF A STEP (R223, R224), in order, until one does not fit. A request for a macro of a governor batt ends
the batt with the step, and takes its charge over in the next. -/
def grantList (t : TileId) : List Want → State → State
  | [], s => s
  | w :: r, s =>
    let l := (s.tile t).lim
    if w.names l.gbatt then
      let ends := ((jobMacros w.2.2).map fun m => (w.1, m)).filter fun g => l.gbatt.contains g && !l.gend.contains g
      grantList t r (s.modTile t fun x => { x with lim := { x.lim with gend := x.lim.gend ++ ends } })
    else if w.names l.gtaken || decide (l.real + jobCost w.2.2 ≤ Config.rampTab l.idx) then
      grantList t r (grantWant t w s)
    else s.modTile t fun x => { x with lim := { x.lim with blocked := true } }

/-- Whether the limiter has something to do in its next step. -/
def limLive (x : Tile) : Bool :=
  let l := x.lim
  !(wantsOf x).isEmpty || !l.charges.isEmpty || !l.gbatt.isEmpty || l.gwant != 0 || l.active != 0 || !l.quiet ||
    l.report != l.word 0

/-- The digit cycles of the governor batts that run on in the step that begins now, each in its rc (R54). -/
def battCycles (t : TileId) (s : State) : State :=
  (s.tile t).lim.gbatt.foldl (fun s g =>
    let x := s.core t g.1
    ((List.range 8).filter fun i => decide ((s.now + i) % x.meff = 0 ∧ x.engFrom ≤ s.now + i)).foldl (fun s i =>
      s.countAt t (s.now + i) 0x07 g.1) s) s

/-- The queues of a tile whose head has been offered and not granted offer again in a new step: a follower whose checks have failed
makes them afresh (R335). -/
def offerAgain (t : TileId) (s : State) : State :=
  (s.tile t).coreList.foldl (fun s k =>
    let x := s.core t k
    let open' (l : List Job) : Bool := (l.any fun j => j.stat == .offered) && l.any fun j => j.stat == .queued
    if open' x.mxq || open' x.hxq then s.dueK s.now t k .matrixJobOffer else s) s

/-- LIMITER_STEP (R221 to R226, R335): the step before ends, and a new one begins as index 1; then the grants of this rc, those of
takeovers first. -/
def execLimiterStep (s : State) : Host.Outcome State Fault Refusal :=
  let t := s.cur.tile
  let roll := s.cur.ix == 1
  let s := limRoll t s
  if roll then .next (offerAgain t (battCycles t s))
  else
    let s := s.modTile t fun x =>
      { x with
        lim := { x.lim with charges := x.lim.charges.filter fun c => match c.ended with
          | some e => decide (8 * x.lim.step < e)
          | none => true } }
    let x := s.tile t
    let ws := wants x
    let s := if x.lim.quiet && (!ws.isEmpty || x.lim.gwant != 0) then
        s.modTile t fun x => { x with lim := { x.lim with idx := 0 } }
      else s
    let took := ws.filter fun w => w.names x.lim.gtaken && !w.names x.lim.gbatt
    let s := took.foldl (fun s w => grantWant t w s) s
    let s := if x.lim.blocked then s
      else grantList t (ws.filter fun w => !(w.names x.lim.gtaken && !w.names x.lim.gbatt)) s
    let next := 8 * (s.now / 8 + 1)
    .next (if limLive (s.tile t) then (s.dueH next t 1 .limiterStep).dueT next t .limiterStep else s)

/-! ## The governor -/

/-- A sample as the field IMB holds it (R216). -/
def imbSat (v : Int) : Int := if v < -32768 then -32768 else if 32767 < v then 32767 else v

/-- Whether the last n samples of a tile meet a test; false until there are so many. -/
def lastAll (x : Tile) (n : Nat) (p : Int → Bool) : Bool := decide (n ≤ x.imbs.length) && (x.imbs.take n).all p

/-- The governor batts that a low tile asks for (R218), d the effective divisor of its core 0 (log 13). -/
def battsFor (imb : Int) (d : Nat) : Nat := (((-imb - 60) * d + 47) / 48).toNat

/-- A sample published at a tile (R216), and what the governor does with the tile's batts (R218). -/
def sampleTile (t : TileId) (v : Int) (s : State) : State :=
  let v := imbSat v
  let s := limRoll t s
  let s := s.modTile t fun x => { x with strimb := BitVec.ofInt 32 v, imbs := (v :: x.imbs).take 16 }
  let x := s.tile t
  if lastAll x 3 fun i => decide (i < -120) then
    let n := battsFor v (x.core 0).meff
    (s.modTile t fun x => { x with lim := { x.lim with gwant := n } }).dueT s.now t .limiterStep
  else if -60 ≤ v then
    let s := s.modTile t fun x => { x with lim := { x.lim with gwant := 0, gbatt := [], gend := [] } }
    x.lim.gbatt.foldl (fun s g => stir t g.1 s) s
  else s

/-- Whether a tile's |I| is above 60 A. -/
def over60 (i : Int) : Bool := decide (240 < i.natAbs)

/-- The escalation condition of R219. -/
def escalates (s : State) (l : List TileId) : Bool :=
  l.any fun t => s.tileHalted t || lastAll (s.tile t) 3 over60

/-- The tile of largest |I| in the last sample, the lowest position first (R422, R432). -/
def worstTile (s : State) : List TileId → Option TileId
  | [] => none
  | t :: r =>
    match worstTile s r with
    | some u =>
      some (if ((s.tile t).imbs.headD 0).natAbs < ((s.tile u).imbs.headD 0).natAbs then u else t)
    | none => some t

/-- The record of STRING_IMBALANCE (R422). -/
def imbalanceRec (s : State) (n : StringId) (t : TileId) : FaultRec :=
  let v : BitVec 16 := (s.tile t).strimb.truncate 16
  {
    code := .stringImbalance, kind := .async, task := (s.tile t).taskid, tile := some (s.ltileOf t, t),
    extra := (0 : BitVec 40) ++ s.posBits t s.tileHalted ++ (0 : BitVec 2) ++ BitVec.ofNat 2 (s.str n).level ++ v }

/-- The tile that the imbalance rule of R432 bypasses at a sample, if it bypasses one: in the 16th sample after the record, where
some tile that is not halted has been above 60 A in all of them, the tile of largest |I|. -/
def imbalanced (s : State) (n : StringId) : Option TileId :=
  let l := s.positions n
  let y := s.str n
  if y.raised && y.since == 16 && (l.any fun t => !s.tileHalted t && lastAll (s.tile t) 16 over60) then worstTile s l else none

/-- The throttle level of a string after a sample (R219), and the rule of R432 in the 16 samples after the record. -/
def throttle (n : StringId) (s : State) : State :=
  let l := s.positions n
  let y := s.str n
  let cond := escalates s l
  let calm := !cond && l.all fun t => decide (((s.tile t).imbs.headD 0).natAbs ≤ 120)
  let y := { y with held := y.held + 1, calm := if calm then y.calm + 1 else 0, since := y.since + 1 }
  let put (y : Str) : State := s.modStr n fun _ => y
  if cond && decide (y.level < 2) && decide (3 ≤ y.held) then
    retime n (put { y with level := y.level + 1, held := 0, calm := 0, raised := false })
  else if cond && y.level == 2 && y.held == 3 && !y.raised then
    match worstTile s l with
    | some t => deliver (imbalanceRec s n t) (put { y with raised := true, since := 0 })
    | none => put y
  else if y.level != 0 && decide (16 ≤ y.calm) then
    retime n (put { y with level := y.level - 1, held := 0, calm := 0, raised := false })
  else
    match imbalanced (put y) n with
    | some t => (put y).dueT s.now t (.tileBypass 0)
    | none => put y

/-- Four open sample values (log 6). -/
def freeSamples (s : State) : List Int × State :=
  (List.range 4).foldl (fun (p : List Int × State) _ =>
    let (v, s) := p.2.fresh
    (p.1 ++ [(v.truncate 16).toInt], s)) ([], s)

/-- GOVERNOR_SAMPLE (R216, R218, R219, R432) of a string; the next one is due 3,200 rc later. -/
def execGovernorSample (imb : List Int) (s : State) : Host.Outcome State Fault Refusal :=
  let n : StringId := fin 8 s.cur.ix
  let s := (List.range 4).foldl (fun s j =>
    let t : TileId := fin 32 (4 * n.val + j)
    if (s.tile t).inService then sampleTile t (imb.getD j 0) s else s) s
  let s := throttle n s
  let (v, s) := freeSamples s
  .next (s.dueN (3200 * (s.now / 3200 + 1)) n.val (.governorSample v))

/-! ## Freezing -/

/-- The rows of a macro that a frozen MPLANT has not reached are undefined (R345). -/
def unplant (t : TileId) (k : CoreId) (j : Job) (s : State) : State :=
  let r := j.recA
  let m := macN j.f
  (List.range ((recSize r 1 + 31) / 32 - j.prog)).foldl (fun s i =>
    let b := j.prog + i
    (List.range (recSize r 0)).foldl (fun s n =>
      let (v, s) := s.fresh
      let c := s.freeCtr
      s.modCore t k fun x =>
        let y := x.macro m
        let y := { y with
          fmtc := fmtcN j.f, k := recSize r 1, n := recSize r 0, bexp := y.bexp.set (64 * b + n) (v.truncate 8) }
        let y := (List.range 32).foldl (fun (y : Macro) d =>
          if 32 * b + d < recSize r 1 then
            { y with el := y.el.set (macKey n (32 * b + d)) (Config.unplanted (32 * c + d)) }
          else y) y
        { x with macros := x.macros.set m y }) s) s

/-- Whether a running job leaves an interruptible step in an engine cycle from rc n on of the matrix step under way. -/
def Job.leaves (j : Job) (n : Nat) : Bool := j.stat == .running && decide (n ≤ j.stepAt) && !j.workDone

/-- A job put back to the interruptible step that it leaves in an engine cycle still to come of the matrix step under way: the
bank rows that it writes in those cycles keep what they held, and its digit cycles are not counted (R85, R352). -/
def backToStep (t : TileId) (k : CoreId) (j : Job) (s : State) : State :=
  let d := (s.core t k).meff
  let s := j.undo.foldl (fun s r => putBankRow t k (mmaBank j.f) r.1 r.2 s) s
  let s := s.modTile t fun x =>
    { x with evtLater := (List.range 4).foldl (fun l i => l.erase (j.stepAt + i * d, 0x06, k)) x.evtLater }
  let s := s.modCore t k fun x => { x with bankq := x.bankq.filter fun r => !(r.job == some j.id && decide (j.stepAt / 2 ≤ r.since)) }
  modJob t k .matrix j.id (fun j =>
    { j with
      prog := if j.op = .mma then j.prog / 8 * 8 else j.prog, pos := 0, buf := [], undo := [],
      ecs := j.ecs - ((s.core t k).engAt - j.stepAt) / d }) s

/-- The context's matrix jobs held (R85, R352): those at an interruptible step freeze there, at a step boundary or within a matrix
step, and their charges end; those that have not started wait again. -/
def freezeMatrix (t : TileId) (k : CoreId) (s : State) : State :=
  let whole := decide ((s.core t k).engAt ≤ s.now)
  let early (j : Job) : Bool := !whole && j.leaves s.now
  let late := ((s.core t k).mxq.filter early).map (·.id)
  let s := ((s.core t k).mxq.filter early).foldl (fun s j => backToStep t k j s) s
  let l := (s.core t k).mxq
  let stops (j : Job) : Bool := late.contains j.id || (j.stat == .running && whole && j.atStep && !j.workDone)
  let back (j : Job) : Bool := j.stat == .granted || j.stat == .offered
  let s := (l.filter fun j => stops j && j.op == .mplant).foldl (fun s j => unplant t k j s) s
  let s := (l.filter fun j => stops j || back j).foldl (fun s j => endCharge t k j.id (if late.contains j.id then j.stepAt else s.now) s) s
  s.modCore t k fun x =>
    { x with
      mxq := x.mxq.map fun j =>
        if stops j then { j with stat := .frozen } else if back j then { j with stat := .queued } else j }

end Sys2Proof.Machine
end

