-- ==== Sys2Proof/Machine/Reduce.lean ====
section
/-!
DEFINITION. The reduction unit of a home: the checks of an arriving access (spec/04 R110), the fate of a contribution
chunk (spec/08 R198), the order in which chunks are applied and rounds complete (R199), and the combination of elements
(R197, R201).
-/
namespace Sys2Proof.Machine

/-! ## The check of an arriving access -/

/-- Whether an inbound entry admits a source or a multicast group (R109, R110). The STILE of this module is a logical
number of the home's task (R90). -/
def inbMatches (s : State) (t : TileId) (e : Inb) (md : BitVec 10) (tile : TileId) (group : Option Byte) : Bool :=
  match group with
  | some g => e.grp && e.gid == g
  | none =>
    !e.grp && e.smod == md &&
      (if md = s.hub.modid then s.physTile t e.stile.toNat == some tile else e.stile.toNat == tile.val)

/-- The inbound range of an entry as a physical MPA (R90). -/
def inbBase (s : State) (t : TileId) (e : Inb) : Option Nat := s.physMpa t (e.mbase.toNat * 2 ^ 21)

/-- Whether a valid inbound entry permits an access of n bytes (R110). -/
def inbAllows (s : State) (t : TileId) (md : BitVec 10) (tile : TileId) (group : Option Byte) (mpa n : Nat)
    (wr rd : Bool) : Bool :=
  (List.range 32).any fun i =>
    let e := (s.tile t).inbs.get i {}
    e.v && (!wr || e.wr) && (!rd || e.rd) && inbMatches s t e md tile group &&
      (match inbBase s t e with
        | some b => decide (b ≤ mpa) && decide (mpa + n ≤ b + e.size.toNat * 2 ^ 21)
        | none => false)

/-- Whether an MPA names a tile's own HBM or on-die space by its tile field (R110). -/
def ownMpa (t : TileId) (mpa : Nat) : Bool :=
  (decide (mpa < 0x020000000000) && decide (mpa / 2 ^ 36 = t.val)) ||
    (decide (0x800000000000 ≤ mpa) && decide (mpa < 0x900000000000) && decide (mpa / 2 ^ 39 % 32 = t.val))

/-- The NEGCODE of an access that its home refuses, 0 where it is performed (R94, R110, R444); each row is judged by its address
(log 16, log 23). -/
def refusal (s : State) (t : TileId) (md : BitVec 10) (tile : TileId) (group : Option Byte) (mpa n : Nat)
    (wr rd : Bool) : BitVec 16 :=
  if !ownMpa t mpa || !inbAllows s t md tile group mpa n wr rd then 0x531
  else
    match s.place mpa, s.place (mpa + (n - 1) / 256 * 256) with
    | .hole, _ => 0x202
    | _, .hole => 0x202
    | .onDie u c kind _, _ =>
      if kind = 5 ∨ (3 ≤ kind ∧ wr) then 0x212
      else if kind = 2 ∧ (s.core u (s.dieCore u c)).stopped then 0x210
      else if (if rd then s.badIn mpa n else s.badPart mpa n).isSome then 0x710 else 0
    | _, _ => if (if rd then s.badIn mpa n else s.badPart mpa n).isSome then 0x710 else 0

/-! ## Combining -/

/-- The order key of a value that is no NaN, with −0 below +0 (R197). -/
def fpKey (f : FFmt) (x : Nat) : Int := if f.signBit ≤ x then -((x - f.signBit : Nat) : Int) - 1 else x

/-- The operator of R194 on two elements of a floating format (R197). -/
def fpCombine (f : FFmt) (rop : Nat) (a b : Nat) : Nat :=
  let nan (x : Nat) : Bool := match f.decode x with
    | .nan => true
    | _ => false
  if rop = 0 then (f.addB 0 false a b).1
  else if nan a || nan b then f.nanBits
  else if rop = 1 then (if fpKey f a < fpKey f b then b else a)
  else if fpKey f b < fpKey f a then b else a

/-- The operator of R194 on two 32-bit integers (R197). -/
def intCombine (rop : Nat) (a b : Word) : Word :=
  if rop = 0 then a + b
  else if rop = 1 then (if a.slt b then b else a)
  else if b.slt a then b else a

/-- Row b combined into row a in FP32, BF16 or INT32 (R197). -/
def rowCombine (rfmt rop : Nat) (a b : Row) : Row :=
  mkRow fun i =>
    let x := lane a i
    let y := lane b i
    match rfmt with
    | 0 => BitVec.ofNat 32 (fpCombine fp32 rop x.toNat y.toNat)
    | 1 =>
      BitVec.ofNat 32 (fpCombine bf16 rop (x.toNat % 2 ^ 16) (y.toNat % 2 ^ 16) +
        2 ^ 16 * fpCombine bf16 rop (x.toNat / 2 ^ 16) (y.toNat / 2 ^ 16))
    | _ => intCombine rop x y

/-- x · 2^e rounded to a multiple of 2^u, to nearest even, as that multiple (R201). -/
def rneAt (x : Int) (e u : Int) : Int :=
  let m := (roundTo 0 (decide (x < 0)) x.natAbs e u).1
  if x < 0 then -(m : Int) else m

/-- The scale of a block sum: the least from u on at which every element fits, or 127 (R201). -/
def sumScale (xs : List Int) (e : Int) : Nat → Int → Int
  | 0, u => u
  | n + 1, u =>
    if u < 127 ∧ xs.any (fun x => decide (rneAt x e u < -128) || decide (127 < rneAt x e u)) then sumScale xs e n (u + 1)
    else u

/-- A BLOCK SUM (R201): elements m at scale s and n at scale t; the new elements and scale. -/
def blockSum (m : List Int) (s : Int) (n : List Int) (t : Int) : List Int × Int :=
  let e := min s t
  let xs := List.zipWith (fun a b => a * 2 ^ (s - e).toNat + b * 2 ^ (t - e).toNat) m n
  let u := sumScale xs e 256 (max s t)
  (xs.map fun x => max (-128) (min 127 (rneAt x e u)), u)

/-- The signed bytes of block b of a row. -/
def blockBytes (r : Row) (b : Nat) : List Int := (List.range 32).map fun i => (byteOf r (32 * b + i)).toInt

/-- A row and its eight scale bytes combined into another (R201). -/
def rowSum (a : Row) (sa : Nat → Int) (b : Row) (sb : Nat → Int) : Row × List Int :=
  let l := (List.range 8).map fun i => blockSum (blockBytes a i) (sa i) (blockBytes b i) (sb i)
  (BitVec.ofNat 2048 (leNat (l.flatMap fun p => p.1.map fun v => BitVec.ofInt 8 v)), l.map Prod.snd)

/-! ## Fates -/

/-- The fate of a contribution chunk (R198); a refusal carries the case of R456. -/
inductive Fate where
  | refused (case : Nat)
  | discarded
  | held
  | accepted
  deriving DecidableEq, Repr, Inhabited

/-- THE FATE OF A CONTRIBUTION CHUNK (R198): the first case that matches. -/
def fateOf (s : State) (t : TileId) (c : Staged) : Fate :=
  let x := s.tile t
  let j := x.rjobs.get c.job.toNat {}
  let e := x.slots.get c.slot {}
  let md := match c.origin with
    | some r => r.md
    | none => s.hub.modid
  let from' : TileId := match c.origin with
    | some r => r.tile
    | none => t
  let srcOk := e.smod == md &&
    (if md = s.hub.modid then s.physTile t e.stile.toNat == some from' else e.stile.toNat == from'.val)
  let d := (c.round - j.round).toInt
  if !j.v then .refused 1
  else if !e.v || e.job != c.job || !srcOk then .refused 2
  else if c.rop != j.rop || c.rfmt != j.rfmt then .refused 3
  else if refusal s t md from' none c.mpa.toNat (256 * c.rows.length) true false != 0 then .refused 6
  else if d < 0 then .discarded
  else if 1 < d then .refused 4
  else if d = 1 then .held
  else if c.cseq < e.nextc then .discarded
  else if e.nextc < c.cseq ∨ c.nchunk ≤ c.cseq ∨ (e.nchunk ≠ 0 ∧ c.nchunk ≠ e.nchunk) then .refused 5
  else .accepted

/-! ## Applying -/

/-- The slot list of a job: its valid entries in ascending order (R195). -/
def Tile.slotList (x : Tile) (job : BitVec 4) : List Nat :=
  (List.range 64).filter fun i => (x.slots.get i {}).v && (x.slots.get i {}).job == job

/-- Accepted chunks of a slot that are not applied yet. -/
def Tile.unapplied (x : Tile) (job : BitVec 4) (slot : Nat) : Nat :=
  (x.staged.filter fun c => c.accepted && c.job == job && c.slot == slot).length

/-- Chunks of a slot that are applied in this round. -/
def Tile.appliedOf (x : Tile) (job : BitVec 4) (slot : Nat) : Nat := (x.slots.get slot {}).nextc - x.unapplied job slot

/-- Whether a chunk may be applied now (R199). -/
def mayApply (x : Tile) (c : Staged) : Bool :=
  c.accepted && decide (c.cseq ≤ x.appliedOf c.job c.slot) &&
    ((x.slotList c.job).filter fun p => decide (p < c.slot)).all fun p =>
      decide (c.cseq < x.appliedOf c.job p) ||
        ((x.slots.get p {}).nchunk != 0 && decide ((x.slots.get p {}).nchunk ≤ c.cseq))

/-- The first chunk to apply: by chunk index, then by slot (R199). -/
def nextApply (x : Tile) : Option Staged :=
  x.staged.foldl (fun (a : Option Staged) c =>
    if !mayApply x c then a
    else
      match a with
      | none => some c
      | some b => if c.cseq < b.cseq ∨ (c.cseq = b.cseq ∧ c.slot < b.slot) then some c else some b) none

/-- The MPA of the scale bytes of a buffer row of an MXINT8 job (R194, R201). Where BASE is no place of the task's tiles the spec names
none: the model takes MPA 0 onward; and none for a row below BASE, which takes those of the row at BASE (DESIGN CHOICE, log 56). -/
def scaleMpa (s : State) (t : TileId) (j : RJob) (mpa : Nat) : Nat :=
  match s.physMpa t (j.base.toNat * 256) with
  | some b => b + j.scoff.toNat + (mpa - b) / 256 * 8
  | none => 0

/-- Scale byte b of the scale words that a chunk carries for row i (R196). -/
def chunkScale (c : Staged) (i b : Nat) : Int := (byteOf (c.scales.getD (2 * i + b / 4) 0) (b % 4)).toInt

/-- Row i of a chunk applied (R199, R201), by the inbound path (R105). -/
def applyRow (t : TileId) (c : Staged) (j : RJob) (first : Bool) (i : Nat) (s : State) : State :=
  let a := c.mpa.toNat + 256 * i
  let s := askRows (asUnit .inbound) [a] s
  let r := c.rows.getD i 0
  if c.rfmt ≠ 3 then
    if first then performRow a r s
    else performRow a (rowCombine c.rfmt.toNat c.rop.toNat (s.readRow a) r) (countRead a 256 s)
  else
    let m := scaleMpa s t j a
    let (row, scales) :=
      if first then (r, (List.range 8).map (chunkScale c i))
      else rowSum (s.readRow a) (fun b => (s.readByte (m + b)).toInt) r (chunkScale c i)
    (performRow a row (if first then s else countRead a 256 s)).writeBytes m (scales.map fun v => BitVec.ofInt 8 v)

/-- A chunk applied (R199): it leaves the staging. -/
def applyChunk (t : TileId) (c : Staged) (s : State) : State :=
  let x := s.tile t
  let j := x.rjobs.get c.job.toNat {}
  let first := (x.slotList c.job).head? == some c.slot
  let s := (List.range c.rows.length).foldl (fun s i => applyRow t c j first i s) s
  s.modTile t fun x => { x with staged := x.staged.erase c }

/-- Whether the round of a job is complete (R199). -/
def roundDone (x : Tile) (job : BitVec 4) : Bool :=
  (x.rjobs.get job.toNat {}).v && !(x.slotList job).isEmpty &&
    (x.slotList job).all fun p =>
      (x.slots.get p {}).nchunk != 0 && (x.slots.get p {}).nextc == (x.slots.get p {}).nchunk &&
        x.unapplied job p == 0

/-- THE END OF THE UNIT CYCLE under way made due, at which the reduction unit applies what has become applicable in it, or that of
the next one where it has done so (R199). The spec gives the unit's cycle no length: the model takes 2 rc (log 56). -/
def dueApply (t : TileId) (s : State) : State :=
  let c := s.now / 2
  s.dueT (2 * (if (s.tile t).unitDone = some c then c + 1 else c) + 1) t .chunkApply

/-- A round completes (R199): ROUND advances, the slots' counters clear, SEM is signalled; the chunks held for the next
round are decided again in the unit cycle after. -/
def endRound (t : TileId) (job : BitVec 4) (s : State) : State :=
  let j := (s.tile t).rjobs.get job.toNat {}
  let s := s.modTile t fun x =>
    let slots := (x.slotList job).foldl (fun (y : Tbl TSlot) p =>
      y.set p { y.get p {} with nextc := 0, nchunk := 0 }) x.slots
    { x with rjobs := x.rjobs.set job.toNat { j with round := j.round + 1 }, slots := slots }
  let s := if j.se then land t (s.now + 1) j.sem 0 .incr s else s
  s.dueH (alignUp (s.now + 1) 2) t 1 .chunkApply

/-- An accepted chunk noted in its slot (R198). -/
def noteAccepted (t : TileId) (c : Staged) (s : State) : State :=
  s.modTile t fun x =>
    { x with slots := x.slots.set c.slot { x.slots.get c.slot {} with nextc := c.cseq + 1, nchunk := c.nchunk } }

/-- The record of a refused contribution (R456, R470). -/
def reduceRec (s : State) (t : TileId) (k : CoreId) (mpa : Nat) (h : Nat) (job : BitVec 4) (seq : Word)
    (cseq slot case : Nat) (hw : Bool) : FaultRec :=
  {
    code := .reduceMismatch, kind := .async, task := (s.tile t).taskid, tile := some (s.ltileOf t, t),
    core := some (k, .e), addr := some (true, BitVec.ofNat 60 mpa),
    fab := some { handle := BitVec.ofNat 6 h, job := job, mseq := seq },
    extra := BitVec.ofNat 64 (cseq % 2 ^ 16 + 2 ^ 16 * (slot % 64) + 2 ^ 22 * case), handlerWork := hw }

end Sys2Proof.Machine
end

