-- ==== Sys2Proof/Machine/CopyRun.lean ====
section
/-!
DEFINITION. How the jobs of the BTE channels and of the send unit run: starts, chunks, carder blocks and completions
(spec/16 R353 to R364, R367, R369, R374; spec/23 R472 to R476).
-/
namespace Sys2Proof.Machine

/-! ## Jobs that run -/

/-- Whether a channel or send-unit job has had all its chunks accepted (R357, R369, R374, R474). -/
def Job.allSent (j : Job) : Bool := (if j.op = .ctready then j.fired else j.total != 0) && decide (j.total ≤ j.bytes)

/-- Whether it has had them acknowledged too. -/
def Job.done (j : Job) : Bool := j.stat == .running && j.op != .mdrainSend && j.allSent && j.unacked == 0

/-- A job looked at after an acknowledgement or a chunk: it completes, or it can freeze (R85, R357). -/
def jobCheck (t : TileId) (k : CoreId) (q : QueueId) (id : Nat) (s : State) : State :=
  match findJob s t k q id with
  | some j =>
    if j.done || ((j.lost.isSome || j.cutNow) && j.stat == .running) then s.dueU s.now t k (QueueId.park q) .copyJobComplete
    else if (s.core t k).stopped then s.dueK s.now t k .engineFreeze else s
  | none => s

/-- n messages or chunks of a job acknowledged. -/
def jobAck (t : TileId) (k : CoreId) (q : QueueId) (id n : Nat) (s : State) : State :=
  jobCheck t k q id (modJob t k q id (fun j => { j with unacked := j.unacked - n }) s)

/-- The chunk or block that a channel is at withdrawn. -/
def dropChunk (t : TileId) (c : ChanId) (s : State) : State :=
  let mine (u : TileId) (ix : Nat) (i : Instr) : Bool :=
    u == t && decide (ix % 8 = c.val) && (i == .copyChunk || i == .carderBlock)
  let s := s.undue fun a => match a with
    | .instr u _ ix i => mine u ix i
    | _ => false
  { s with pool := s.pool.filter fun e => !mine e.1 e.2.2.1 e.2.2.2 }

/-- A channel released: it may start another job (R353, R473). -/
def releaseChan (t : TileId) (q : QueueId) (s : State) : State :=
  match q with
  | .chan c =>
    let s := dropChunk t c s
    (s.modTile t fun x => { x with chans := x.chans.set c.val { x.chans.get c.val {} with run := none } }).dueH s.now t
      c.val .channelJobStart
  | .send => s
  | _ => s

/-- A fault of a job that holds a channel: its queue parks and the channel goes on (R473). -/
def failJob (t : TileId) (k : CoreId) (q : QueueId) (j : Job) (r : FaultRec) (s : State) : State :=
  releaseChan t q (parkJob t k q { j with card := none } r s)

/-- A job that starts, with the rc of its start kept for its queue's gap (R227). -/
def runJob (t : TileId) (k : CoreId) (q : QueueId) (j : Job) (s : State) : State :=
  (modJob t k q j.id (fun _ => { j with stat := .running, begun := true }) s).modCore t k fun x =>
    { x with lastStart := x.lastStart.set (QueueId.park q) s.now }

/-- The head of a queue that may start: its checks are made and its gap is met, and its core has not stopped for pre-emption
(R85, R353). -/
def readyHead (s : State) (t : TileId) (k : CoreId) (q : QueueId) : Option Job :=
  match ((s.core t k).queue q).head? with
  | some j => if j.stat = .offered ∧ gapMet (s.core t k) q s.now ∧ !(s.core t k).stopped then some j else none
  | none => none

/-- The head of a queue: its wait is sent to the semaphore file (R334); once it is satisfied, it makes its checks and captures its
records, whatever else it waits for (R116), and parks if they fail; its gap is awaited (R227). -/
def headCheck (t : TileId) (k : CoreId) (q : QueueId) (check : State → Job → Except FaultRec Job) (again : State → Nat → State)
    (s : State) : State :=
  match ((s.core t k).queue q).head? with
  | some j =>
    if j.stat = .queued then
      let s := sendWait t k q j s
      if j.satisfied s.now && !(s.core t k).stopped then
        match (if j.begun then .ok j else check s j) with
        | .error r => parkJob t k q j r s
        | .ok j =>
          let s := modJob t k q j.id (fun _ => { j with stat := .offered, begun := true }) s
          if gapMet (s.core t k) q s.now then s else again s (gapFrom (s.core t k) q)
      else s
    else if j.stat = .offered ∧ gapMet (s.core t k) q s.now = false then again s (gapFrom (s.core t k) q)
    else s
  | none => s

/-! ## Rates -/

/-- Elements of chunk i of a local copy: the first, and the one after the last (R356). -/
def chunkElems (r : Recd) (i : Nat) : Nat × Nat :=
  let w := recW r
  (Nat.min (recCount r) ((32768 * i + w - 1) / w), Nat.min (recCount r) ((32768 * (i + 1) + w - 1) / w))

/-- The bytes of the chunk that a copy is at (R356). -/
def Job.chunkBytes (j : Job) : Nat :=
  if j.op = .cpy then
    let (e0, e1) := chunkElems j.recB j.prog
    ((e1 - e0) * recW j.recB + 7) / 8
  else Nat.min 4096 (recBytes j.recA - 4096 * j.prog)

/-- The rc that a channel takes to read or to write n bytes: at most 256 in 2 rc (R356). -/
def chunkTime (n : Nat) : Nat := 2 * ((n + 255) / 256)

/-- Whether the chunks of a copy are written by its channel (R356). -/
def Job.writesHere (j : Job) : Bool := j.win.isNone && j.op != .cpym

/-- The next chunk of a channel's job, n rc from now at the earliest (R356); nothing bounds its time from then on (log 4). -/
def chunkAfter (t : TileId) (c n : Nat) (s : State) : State := s.dueH (s.now + n) t (c + 8) .copyChunk

/-! ## Channels -/

/-- The cores in the order in which a channel serves them (R353). -/
def rrCores (last : CoreId) : List CoreId := (List.range 16).map fun i => fin 16 (last.val + 1 + i)

/-- The cores whose heads may start on a channel, in that order. -/
def chanReady (s : State) (t : TileId) (c : ChanId) : Option (CoreId × Job) :=
  (rrCores ((s.tile t).chans.get c.val {}).last).findSome? fun k =>
    (readyHead s t k (.chan c)).map fun j => (k, j)

/-- WMSET performed as it starts (R117, R370). -/
def setMark (t : TileId) (c k : Nat) (lo hi : Nat) (s : State) : State :=
  let x := (s.tile t).chans.get c {}
  (s.modTile t fun y =>
    { y with
      chans := y.chans.set c
        { x with wm := some (lo / 256 * 256, hi / 256 * 256 + 256, lo / 256 * 256), wrote := [], last := fin 16 k } }).dueH
    s.now t c .watermarkStallEnd

/-- A channel job leaves its queue and signals (R119, R357). -/
def popJob (t : TileId) (k : CoreId) (q : QueueId) (j : Job) (bytes : Option Nat) (s : State) : State :=
  queueDone t k
    (jobSignal t k j bytes (s.modCore t k fun x => x.setQueue q ((x.queue q).filter fun i => i.id != j.id)))

/-- A job that has done its work and leaves its queue with its signal, or parks where that meets an uncorrectable semaphore (R444). -/
def endJob (t : TileId) (k : CoreId) (q : QueueId) (j : Job) (bytes : Option Nat) (s : State) : State :=
  match signalBad s t k j with
  | some r => parkJob t k q j r s
  | none => popJob t k q j bytes s

/-- CHANNEL_JOB_START (R116, R353): the heads of the channel's queues are checked, and a free channel starts the next of them, round
robin. -/
def execChannelJobStart (s : State) : Host.Outcome State Fault Refusal :=
  let t := s.cur.tile
  let c : ChanId := fin 8 s.cur.ix
  let q : QueueId := .chan c
  let s := (s.tile t).coreList.foldl (fun s k =>
    headCheck t k q (fun s j => copyChecks s t k j) (fun s n => s.dueH n t c.val .channelJobStart) s) s
  if ((s.tile t).chans.get c.val {}).run.isSome then .next s
  else
    match chanReady s t c with
    | none => .next s
    | some (k, j) =>
      let s := s.modTile t fun x => { x with chans := x.chans.set c.val { x.chans.get c.val {} with last := k } }
      let again (s : State) : State := s.dueH s.now t c.val .channelJobStart
      if j.op = .wmset then
        match wmRange s t k j j.recA with
        | .error r => .next (again (parkJob t k q j r s))
        | .ok (lo, hi) => .next (again (endJob t k q j none (runJob t k q j (setMark t c.val k.val lo hi s))))
      else
        let s := runJob t k q j s
        let s := s.modTile t fun x => { x with chans := x.chans.set c.val { x.chans.get c.val {} with run := some k } }
        if j.allSent then .next (jobCheck t k q j.id s)
        else if j.op = .cpyd then .next (s.enable t 0 (c.val + 8) .carderBlock)
        else
          let n := chunkTime j.chunkBytes
          .next (chunkAfter t c.val (if j.writesHere then 2 * n else n) s)

/-- The running job of a channel. -/
def chanJob (s : State) (t : TileId) (c : ChanId) : Option (CoreId × Job) :=
  match ((s.tile t).chans.get c.val {}).run with
  | none => none
  | some k =>
    match ((s.core t k).queue (.chan c)).head? with
    | some j => if j.stat = .running then some (k, j) else none
    | none => none

/-! ## Chunks -/

/-- The bytes of the elements e0 to e1 − 1 of a record, as MPAs. -/
def elemBytes (s : State) (t : TileId) (k : CoreId) (r : Recd) (e0 e1 : Nat) : List Nat :=
  (List.range (e1 - e0)).flatMap fun i =>
    let a := streamBit r (e0 + i)
    (List.range (((a % 8).toNat + recW r + 7) / 8)).map fun (d : Nat) => s.jobMpa t k (a / 8 + (d : Nat))

/-- The MPAs of scale nibbles of the 32-element groups g0 to g1 − 1 of an MX record whose MXAX is 0 (R124). -/
def groupBytes (s : State) (t : TileId) (k : CoreId) (r : Recd) (g0 g1 : Nat) : List Nat :=
  if recMx r then
    (List.range (3 * (g1 - g0))).map fun i =>
      let n := 3 * g0 + i
      let per := 3 * (recSize r 0 / 32)
      s.jobMpa t k (nibbleByte r (n / per) (n % per))
  else []

/-- A nibble of group stream position n of a record's scale plane, with its byte's other half (R355, R361). -/
def putNibble (t : TileId) (k : CoreId) (r : Recd) (n v : Nat) (s : State) : State :=
  let per := 3 * (recSize r 0 / 32)
  let m := s.jobMpa t k (nibbleByte r (n / per) (n % per))
  let b := (s.readByte m).toNat
  let b := if n % per % 2 = 0 then b / 16 * 16 + v % 16 else b % 16 + 16 * (v % 16)
  countWrite m 1 (s.writeByte m (BitVec.ofNat 8 b))

/-- The nibble of group stream position n. -/
def getNibble (s : State) (t : TileId) (k : CoreId) (r : Recd) (n : Nat) : Nat :=
  let per := 3 * (recSize r 0 / 32)
  s.nibble (s.jobMpa t k) r (n / per) (n % per)

/-- The rows of those listed that elements from e1 on, or groups from g1 on, have yet to write; a dense record reaches none but
the row of its next element. -/
def rowsLater (s : State) (t : TileId) (k : CoreId) (r : Recd) (e1 g1 : Nat) : List Nat :=
  let n := recCount r
  rowsOf (elemBytes s t k r e1 (if dense r then Nat.min n (e1 + 1) else n) ++ groupBytes s t k r g1 (n / 32))

/-- Rows written by elements e0 to e1 − 1 and groups g0 to g1 − 1 that nothing later in the job writes (R117, R363). -/
def rowsDone (s : State) (t : TileId) (k : CoreId) (r : Recd) (e0 e1 g0 g1 : Nat) : List Nat :=
  let later := rowsLater s t k r e1 g1
  (rowsOf (elemBytes s t k r e0 e1 ++ groupBytes s t k r g0 g1)).filter fun x => !later.contains x

/-- Chunk i of a local CPY: every source byte is read before a destination byte is written (R356, R359); the scale
nibbles go with the last chunk, as they stand, an unused one of a delta slot too (R355; log 25). -/
def copyLocal (t : TileId) (c : ChanId) (k : CoreId) (j : Job) (s : State) : Except FaultRec State :=
  let a := j.recA
  let b := j.recB
  let (e0, e1) := chunkElems b j.prog
  let (g0, g1) := if recMx b && decide (j.prog + 1 = j.total) then (0, recCount b / 32) else (0, 0)
  let src := elemBytes s t k a e0 e1 ++ groupBytes s t k a g0 g1
  let dst := elemBytes s t k b e0 e1 ++ groupBytes s t k b g0 g1
  match badRead s src, badWrite s dst with
  | some g, _ => .error (jobBad s t k j g)
  | _, some g => .error (jobBad s t k j g)
  | none, none =>
    let vals := (List.range (e1 - e0)).map fun i => s.bitsAt (s.jobMpa t k) (streamBit a (e0 + i)) (recW a)
    let nibs := (List.range (3 * (g1 - g0))).map fun i => getNibble s t k a i
    let s := askRows (asUnit (.channel c.val)) ((rowsOf dst).map (256 * ·))
      (askRows (asUnit (.channel c.val)) ((rowsOf src).map (256 * ·)) s)
    let s := src.foldl (fun s m => countRead m 1 s) s
    let s := healBytes dst s
    let s := (vals.foldl (fun (p : State × Nat) v =>
      (p.1.putBits (s.jobMpa t k) (streamBit b p.2) (recW b) v, p.2 + 1)) (s, e0)).1
    let s := (nibs.foldl (fun (p : State × Nat) v => (putNibble t k b p.2 v p.1, p.2 + 1)) (s, 0)).1
    let s := (elemBytes s t k b e0 e1).foldl (fun s m => countWrite m 1 s) s
    .ok (if ((s.tile t).chans.get c.val {}).wm.isSome then
        let g0 := if recMx b then (if g1 = 0 then 0 else g0) else 0
        markRows t c.val (rowsDone s t k b e0 e1 g0 (if recMx b then g1 else recCount b / 32)) s
      else s)

/-- The number of rows of the chunk that a copy of a dense source is at (R356). -/
def Job.rowCount (j : Job) : Nat := Nat.min 16 (recBytes j.recA / 256 - 16 * j.prog)

/-- Its rows. -/
def chunkRows (s : State) (t : TileId) (k : CoreId) (j : Job) : List Row :=
  (List.range j.rowCount).map fun (i : Nat) =>
    BitVec.ofNat 2048 (s.jobBytes t k ((recBase j.recA + 4096 * j.prog + 256 * i : Nat) : Int) 256)

/-- The addresses of the scale bytes of those rows, for MXINT8 (R196, R355). -/
def Job.scaleBytes (j : Job) : List Int :=
  if j.op = .cpyr ∧ recFmt j.recA = 0x10 then
    (List.range (8 * j.rowCount)).map fun (i : Nat) => (recBase j.recA : Int) + recOff j.recA + ((128 * j.prog + i : Nat) : Int)
  else []

/-- Their scale words. -/
def chunkScales (s : State) (t : TileId) (k : CoreId) (j : Job) : List Word :=
  let l := j.scaleBytes.map fun a => (s.readByte (s.jobMpa t k a)).toNat
  (List.range (l.length / 4)).map fun i => BitVec.ofNat 32 (leNat (((l.drop (4 * i)).take 4).map (BitVec.ofNat 8)))

/-- n bytes from address a on, cut at the rows of 256 bytes: each piece as its address and its length. -/
def rowParts (a n : Nat) : List (Nat × Nat) :=
  if n = 0 then []
  else
    let m := Nat.min n (256 - a % 256)
    (a, m) :: (List.range ((n - m + 255) / 256)).map fun i => (a + m + 256 * i, Nat.min 256 (n - m - 256 * i))

/-- The first fault of elements e0 to e1 − 1 of a record, by a fault of their bytes. -/
def elemFault (bad : Int → Option FaultRec) (r : Recd) (e0 e1 : Nat) : Option FaultRec :=
  (List.range (e1 - e0)).findSome? fun i =>
    let a := streamBit r (e0 + i)
    (bad (a / 8)).orElse fun _ => bad ((a + recW r - 1) / 8)

/-- The fault of a byte of a local source or destination of a job that runs (R322, R438). -/
def placeBreach (s : State) (t : TileId) (k : CoreId) (j : Job) (dst : Bool) (a : Int) : Option FaultRec :=
  match localByte s t k j (if dst then 2 else 1) (if dst then j.b else j.a) a (!dst) dst with
  | .error f => some f
  | .ok _ => none

/-- THE FAULT OF THE CHUNK THAT A COPY IS AT (R438): a place of it that no longer translates, whatever it did when the job
started. -/
def chunkFault (s : State) (t : TileId) (k : CoreId) (j : Job) : Option FaultRec :=
  let src := placeBreach s t k j false
  let dst := placeBreach s t k j true
  let rows (a : Nat) (bad : Int → Option FaultRec) : Option FaultRec :=
    (rowParts a (256 * j.rowCount)).findSome? fun p => bad ((p.1 : Nat) : Int)
  if j.op = .cpy ∧ j.win.isNone then
    let (e0, e1) := chunkElems j.recB j.prog
    let last := decide (j.prog + 1 = j.total)
    (elemFault src j.recA e0 e1).orElse fun _ =>
      (if last then (slotBytes j.recA).findSome? src else none).orElse fun _ =>
        (elemFault dst j.recB e0 e1).orElse fun _ => if last then (slotBytes j.recB).findSome? dst else none
  else
    (rows (recBase j.recA + 4096 * j.prog) src).orElse fun _ =>
      (j.scaleBytes.findSome? src).orElse fun _ =>
        match j.win with
        | some w =>
          match remoteOk s t k j w (recBase j.recB + 4096 * j.prog) j.rowCount with
          | .error f => some f
          | .ok _ => none
        | none => if j.op = .cpyr then rows (recBase j.recB + 4096 * j.prog) dst else none

/-- The MPA that a message through window w carries for a virtual address (R90, R106). -/
def remoteMpa (s : State) (t : TileId) (w va : Nat) : Nat :=
  let x := (s.tile t).wins.get w {}
  (s.winMpa t x (x.tbase.toNat * 2 ^ 21 + (va - x.base))).getD 0

/-- A CHUNK message of rows (R153, R154). -/
def chunkMsg (mpa : Nat) (g : Bool) (rows : List Row) : Msg :=
  { blankMsg with mpa := BitVec.ofNat 48 mpa, g := g, nrow := BitVec.ofNat 4 (rows.length - 1), pay := rows }

/-- A local contribution at the reduction unit, admitted as an arriving one (R198, R364). -/
def reduceLocal (t : TileId) (k : CoreId) (q : QueueId) (j : Job) (c : Staged) (s : State) : State :=
  match fateOf s t c with
  | .refused n =>
    jobAck t k q j.id 1 (deliver (reduceRec s t k c.mpa.toNat 0 c.job 0 c.cseq c.slot n j.handler) s)
  | .discarded => jobAck t k q j.id 1 s
  | .held => s.modTile t fun x => { x with staged := x.staged ++ [c] }
  | .accepted =>
    let s := noteAccepted t c s
    dueApply t (s.modTile t fun x => { x with staged := x.staged ++ [{ c with accepted := true }] })

/-- A chunk of CPYR: a contribution to its home, over a circuit or through the memory port (R196, R364). -/
def contribute (t : TileId) (k : CoreId) (q : QueueId) (j : Job) (s : State) : State :=
  let rows := chunkRows s t k j
  let scales := chunkScales s t k j
  let job := copyJob j.f
  let rop := copyRop j.f
  let rfmt := (rfmtOf (recFmt j.recA)).getD 0
  let va := recBase j.recB + 4096 * j.prog
  let next := modJob t k q j.id (fun j => { j with prog := j.prog + 1 })
  match j.win with
  | some w =>
    let m := contribMsg (remoteMpa s t w va) job (contribHead j.prog (copySlot j.f) rop rfmt j.total j.c) rows scales
    admitJob t k q j ((s.tile t).wins.get w {}).handle.toNat m none none (BitVec.ofNat 60 va) (next s)
  | none =>
    let c : Staged := {
      src := none, seq := 0, slot := copySlot j.f, cseq := j.prog, round := j.c, nchunk := j.total,
      rop := BitVec.ofNat 4 rop, rfmt := BitVec.ofNat 4 rfmt, job := job,
      mpa := BitVec.ofNat 48 (s.jobMpa t k (va : Int)), rows := rows, scales := scales, accepted := false, core := k,
      jobRef := some (q, j.id) }
    let s := modJob t k q j.id (fun j => { j with bytes := j.bytes + 1, unacked := j.unacked + 1 }) (next s)
    reduceLocal t k q j c s

/-- A chunk handed to the sending unit by CPY through a window, or by CPYM (R359, R367). -/
def sendChunk (t : TileId) (k : CoreId) (q : QueueId) (j : Job) (s : State) : Except FaultRec State :=
  let rows := chunkRows s t k j
  let next := modJob t k q j.id (fun j => { j with prog := j.prog + 1 })
  if j.op = .cpym then
    let gid := j.b.toNat % 256
    let g := (s.tile t).groups.get gid {}
    if !g.v then .error (groupRec s t k j)
    else
      let off := (j.c.toNat * 256 + 4096 * j.prog) % 2 ^ 48
      let m := { chunkMsg off (copyG j.f) rows with tag := BitVec.ofNat 8 gid, gen := g.gen }
      .ok (admitJob t k q j g.handle.toNat m none (some gid)
        (BitVec.ofNat 60 (recBase j.recA + 4096 * j.prog)) (next s))
  else
    let w := j.win.getD 0
    let va := recBase j.recB + 4096 * j.prog
    .ok (admitJob t k q j ((s.tile t).wins.get w {}).handle.toNat
      (chunkMsg (remoteMpa s t w va) (copyG j.f) rows) none none (BitVec.ofNat 60 va) (next s))

/-- The bank cycles that a channel has stalled, to be waited out: n rc, 0 once it has (R105). -/
def stalled (t : TileId) (c : ChanId) (s : State) : Nat × State :=
  let x := (s.tile t).chans.get c.val {}
  (2 * x.debt, if x.debt = 0 then s else s.modTile t fun y => { y with chans := y.chans.set c.val { x with debt := 0 } })

/-- COPY_CHUNK (R356): the next chunk of a channel's job, whole; a channel whose core stops freezes instead (R358), and
one too far above its watermark stalls (R117). As index 8 and above the channel has had the time that the chunk takes (R356). -/
def execCopyChunk (s : State) : Host.Outcome State Fault Refusal :=
  let t := s.cur.tile
  let c : ChanId := fin 8 s.cur.ix
  let q : QueueId := .chan c
  match chanJob s t c with
  | none => .next s
  | some (k, j) =>
    if j.op = .cpyd ∨ j.total ≤ j.prog then .next s
    else if 8 ≤ s.cur.ix then
      let (n, s) := stalled t c s
      .next (if n = 0 then s.enable t 0 c.val .copyChunk else chunkAfter t c.val n s)
    else if (s.core t k).stopped then .next (s.dueK s.now t k .engineFreeze)
    else
      match chunkFault s t k j with
      | some r => .next (failJob t k q j r s)
      | none =>
      let again (s : State) : State :=
        match findJob s t k q j.id with
        | some j => if j.stat = .running ∧ j.prog < j.total then chunkAfter t c.val (chunkTime j.chunkBytes) s else s
        | none => s
      if j.op = .cpy ∧ j.win.isNone then
        let (e0, e1) := chunkElems j.recB j.prog
        let groups := if j.prog + 1 = j.total then groupBytes s t k j.recB 0 (recCount j.recB / 32) else []
        let x := (s.tile t).chans.get c.val {}
        if x.wm.isSome && !markFits x.wm x.wrote (rowsOf (elemBytes s t k j.recB e0 e1 ++ groups)) then .next s
        else
          match copyLocal t c k j s with
          | .error r => .next (failJob t k q j r s)
          | .ok s =>
            let s := modJob t k q j.id (fun j => { j with prog := j.prog + 1, bytes := j.prog + 1 }) s
            .next (again (jobCheck t k q j.id s))
      else
        let parts := (rowParts (recBase j.recA + 4096 * j.prog) (256 * j.rowCount)).map fun p => (s.jobMpa t k ((p.1 : Nat) : Int), p.2)
        let scales := j.scaleBytes.map (s.jobMpa t k)
        match (parts.findSome? fun p => s.badIn p.1 p.2).orElse fun _ => badRead s scales with
        | some g => .next (failJob t k q j (jobBad s t k j g) s)
        | none =>
          let s := askRows (asUnit (.channel c.val)) (parts.map Prod.fst ++ (rowsOf scales).map (256 * ·)) s
          let s := scales.foldl (fun s m => countRead m 1 s) (parts.foldl (fun s p => countRead p.1 p.2 s) s)
          if j.op = .cpyr then
            let local' := j.win.isNone
            let s := contribute t k q j s
            .next (if local' then again (jobCheck t k q j.id s) else s)
          else
            match sendChunk t k q j s with
            | .error r => .next (failJob t k q j r s)
            | .ok s => .next s

/-! ## The carder -/

/-- The record of a block that failed, by its number, its place in the source and its bytes (R456): a checksum that was never
computed is an open value, the same for the same bytes (R475; log 6). -/
def cardRec (s : State) (t : TileId) (k : CoreId) (j : Job) (blk pos : Nat) (bytes : List Nat) (f : CFail) : FaultRec :=
  jobRec s t k j (if f.cond = 0 then .carderChecksum else .carderFormat)
    ((0 : BitVec 12) ++ BitVec.ofNat 4 f.cond ++ BitVec.ofNat 16 blk ++ f.chk ++ f.sum.getD (Config.carderSum bytes))
    (some (false, BitVec.ofNat 60 (recBase j.recA + pos)))

/-- What the carder holds of element i, in a block from element e0 on: its bits, and in bits [47:36], for the first of a
32-element group, the group's three scale nibbles (R361, R362). -/
def heldElems (r : Recd) (b : CBlock) : List Acc :=
  (List.range b.elems.length).map fun i =>
    let nib (n : Nat) : Nat := b.scales.getD ((3 * (i / 32) + n) / 2) 0 / 16 ^ ((3 * (i / 32) + n) % 2) % 16
    let scale := if recMx r && i % 32 == 0 then nib 0 + 16 * nib 1 + 256 * nib 2 else 0
    BitVec.ofNat 48 (b.elems.getD i 0 + 2 ^ 36 * scale)

/-- The bytes that a held element of a job's destination goes to, its group's scale bytes with its first one. -/
def heldBytes (s : State) (t : TileId) (k : CoreId) (r : Recd) (i : Nat) : List Nat :=
  elemBytes s t k r i (i + 1) ++ if i % 32 = 0 then groupBytes s t k r (i / 32) (i / 32 + 1) else []

/-- What of one held element lies in a row written there (R360, R361, R362). -/
def putHeld (t : TileId) (k : CoreId) (r : Recd) (row i : Nat) (v : Acc) (s : State) : State :=
  let here (m : Nat) : Bool := decide (m / 256 = row)
  let put (s : State) (m : Nat) (b : Byte) : State := if here m then countWrite m 1 (s.writeByte m b) else s
  let a := streamBit r i
  let u := s.putBits (s.jobMpa t k) a (recW r) v.toNat
  let s := (elemBytes s t k r i (i + 1)).foldl (fun s m => put s m (u.readByte m)) s
  if recMx r ∧ i % 32 = 0 then
    (List.range 3).foldl (fun s n =>
      let per := 3 * (recSize r 0 / 32)
      let g := 3 * (i / 32) + n
      if here (s.jobMpa t k (nibbleByte r (g / per) (g % per))) then putNibble t k r g (v.toNat / 2 ^ (36 + 4 * n)) s else s) s
  else s

/-- The elements that the carder holds verified of a job, from this one on. -/
def Job.heldFrom (j : Job) : Nat := j.prog - j.buf.length

/-- The bytes of those elements. -/
def bufBytes (s : State) (t : TileId) (k : CoreId) (j : Job) : List Nat :=
  (List.range j.buf.length).flatMap fun i => heldBytes s t k j.recB (j.heldFrom + i)

/-- ONE ROW OF THE DESTINATION WRITTEN with what the carder holds of it (R362), and the watermark raised past it (R117). -/
def writeHeldRow (t : TileId) (c : ChanId) (k : CoreId) (j : Job) (row : Nat) (s : State) : State :=
  let dst := (bufBytes s t k j).filter fun m => decide (m / 256 = row)
  let s := healBytes dst (askRows (asUnit (.channel c.val)) [256 * row] s)
  let s := (j.buf.foldl (fun (p : State × Nat) v => (putHeld t k j.recB row p.2 v p.1, p.2 + 1)) (s, j.heldFrom)).1
  if ((s.tile t).chans.get c.val {}).wm.isSome then markRows t c.val [row] s else s

/-- What the carder goes on holding: the elements from the first that reaches a row which later ones complete. -/
def Job.keepHeld (j : Job) (s : State) (t : TileId) (k : CoreId) : Job :=
  let later := rowsLater s t k j.recB j.prog (j.prog / 32)
  let waits (i : Nat) : Bool := (heldBytes s t k j.recB (j.heldFrom + i)).any fun m => later.contains (m / 256)
  { j with buf := j.buf.drop (((List.range j.buf.length).find? waits).getD j.buf.length) }

/-- The rows of the destination that the carder still holds bytes of. -/
def heldRows (s : State) (t : TileId) (k : CoreId) (j : Job) : List Nat :=
  let later := rowsLater s t k j.recB j.prog (j.prog / 32)
  (rowsOf (bufBytes s t k j)).filter later.contains

/-- What the carder holds of a job that freezes, written (R358, R362). -/
def flushBlocks (t : TileId) (c : ChanId) (k : CoreId) (j : Job) (s : State) : Job × State :=
  ({ j with buf := [], card := none }, (heldRows s t k j).foldl (fun s r => writeHeldRow t c k j r s) s)

/-- The source read up to stream position `upto` (R362). -/
def cardRead (t : TileId) (c : ChanId) (k : CoreId) (j : Job) (d : Card) (upto : Nat) (s : State) : Card × State :=
  let p := d.org + d.inb.length
  let parts := (rowParts (recBase j.recA + p) (upto - p)).map fun q => (s.jobMpa t k ((q.1 : Nat) : Int), q.2)
  let new := (List.range (upto - p)).map fun (i : Nat) => s.jobBytes t k ((recBase j.recA + p + i : Nat) : Int) 1
  ({ d with inb := d.inb ++ new },
    parts.foldl (fun s q => countRead q.1 q.2 s) (askRows (asUnit (.channel c.val)) (parts.map Prod.fst) s))

/-- Byte i of the block that the carder is at. -/
def Card.byte (d : Card) (i : Nat) : Nat := d.inb.getD (d.pos - d.org + i) 0

/-- A field of n bytes of its header. -/
def Card.field (d : Card) (i n : Nat) : Nat := (List.range n).foldr (fun o a => d.byte (i + o) + 256 * a) 0

/-- THE HEADER OF A BLOCK (R360, R362): the source is read as far as two rows ahead of it, and the block is decoded one cycle of 2 rc
later and one more for every 16 elements; a header that R363 refuses has none. -/
def cardHeader (t : TileId) (c : ChanId) (k : CoreId) (j : Job) (d : Card) (s : State) : Card × State :=
  let ahead := (recBase j.recA + d.pos) / 256 * 256 + 768 - recBase j.recA
  let (d, s) := cardRead t c k j d (Nat.min (recBytes j.recA) ahead) s
  let n := if recBytes j.recA < d.pos + 16 then 0 else d.field 2 2
  ({ d with dec := some (s.now + 2 + 2 * ((if 4096 < n then 0 else n + 15) / 16)) }, s)

/-- THE END OF A BLOCK'S DECODING (R361, R362, R363): the rest of its bytes is read, and it waits two cycles of 2 rc for its checksum;
a place that does not translate and uncorrectable data of its bytes come before what the carder finds (R438, R475). -/
def cardDecode (t : TileId) (c : ChanId) (k : CoreId) (j : Job) (d : Card) (s : State) : Card × State :=
  let left := recBytes j.recA - d.pos
  let len := Nat.min left (if left < 16 then 16 else 16 + d.field 4 4)
  let (d, s) := cardRead t c k j d (d.pos + len) s
  let at' (i : Nat) : Int := ((recBase j.recA + d.pos + i : Nat) : Int)
  let due := s.now + 4
  let fail (r : FaultRec) : Card := { d with dec := none, stop := true, wait := d.wait ++ [{ due := due, fail := some r }] }
  let d' :=
    match (rowParts (recBase j.recA + d.pos) len).findSome? fun p => placeBreach s t k j false ((p.1 : Nat) : Int) with
    | some r => fail r
    | none =>
      match (if s.bad.isEmpty then none else badRead s ((List.range len).map fun i => s.jobMpa t k (at' i))) with
      | some g => fail (jobBad s t k j g)
      | none =>
        match cardBlock d.byte left (j.total - d.e) (recFmt j.recB) (recW j.recB) with
        | .error f => fail (cardRec s t k j d.blk d.pos ((List.range len).map d.byte) f)
        | .ok b =>
          { d with
            dec := none, org := d.pos + b.len, inb := d.inb.drop (d.pos + b.len - d.org), pos := d.pos + b.len,
            e := d.e + b.elems.length, blk := d.blk + 1,
            wait := d.wait ++ [{ due := due, elems := heldElems j.recB b, len := b.len }] }
  (d', s)

/-- A FAILING BLOCK (R363, R475): the rows that hold bytes of the blocks before it are written, and then the job faults. -/
def cardFail (t : TileId) (c : ChanId) (k : CoreId) (j : Job) (d : Card) (r : FaultRec) (s : State) : State :=
  let rows := heldRows s t k j
  if rows.isEmpty then failJob t k (.chan c) { j with buf := [] } r s
  else
    modJob t k (.chan c) j.id (fun _ =>
      { j with card := some { d with out := rows, writeAt := s.now + 2, fail := some r, wait := [], dec := none, stop := true } }) s

/-- A BLOCK WHOSE CHECKSUM IS DUE (R362, R363): once it has matched, the rows that the block completes are to be written, one in each
cycle of 2 rc; a block whose rows lie too far above the watermark waits, and the channel with it (R117). -/
def cardVerify (t : TileId) (c : ChanId) (k : CoreId) (j : Job) (d : Card) (b : CBlk) (s : State) : Option State :=
  match b.fail with
  | some r => some (cardFail t c k j d r s)
  | none =>
    let dst := j.recB
    let e1 := j.prog + b.elems.length
    let slots := if recMx dst then
        (List.range (3 * (e1 / 32 - j.prog / 32))).map fun i =>
          let n := 3 * (j.prog / 32) + i
          nibbleByte dst (n / (3 * (recSize dst 0 / 32))) (n % (3 * (recSize dst 0 / 32)))
      else []
    let bad := placeBreach s t k j true
    match (elemFault bad dst j.prog e1).orElse fun _ => slots.findSome? bad with
    | some r => some (cardFail t c k j d r s)
    | none =>
      let rows := rowsDone s t k dst j.prog e1 (j.prog / 32) (e1 / 32)
      let held := { j with buf := j.buf ++ b.elems, prog := e1, pos := j.pos + b.len, blk := j.blk + 1 }
      let x := (s.tile t).chans.get c.val {}
      match badWrite s ((bufBytes s t k held).filter fun m => rows.contains (m / 256)) with
      | some g => some (cardFail t c k j d (jobBad s t k j g) s)
      | none =>
        if x.wm.isSome && !markFits x.wm x.wrote rows then none
        else
          some (modJob t k (.chan c) j.id (fun _ =>
            { held with card := some { d with wait := d.wait.drop 1, out := rows, writeAt := s.now + 2 } }) s)

/-- A ROW WRITTEN by the carder, and what follows the last of a block's: the end of the job, or its fault (R362, R363). -/
def cardWrite (t : TileId) (c : ChanId) (k : CoreId) (j : Job) (d : Card) (row : Nat) (l : List Nat) (s : State) : State :=
  let q : QueueId := .chan c
  let s := writeHeldRow t c k j row s
  if !l.isEmpty then modJob t k q j.id (fun _ => { j with card := some { d with out := l, writeAt := s.now + 2 } }) s
  else
    match d.fail with
    | some r => failJob t k q { j with buf := [] } r s
    | none =>
      let j := j.keepHeld s t k
      if j.total ≤ j.prog then
        jobCheck t k q j.id (modJob t k q j.id (fun _ => { j with card := none, bytes := j.prog }) s)
      else modJob t k q j.id (fun _ => { j with card := some { d with out := [] } }) s

/-- What the carder does next in this rc with a job, if it does something (R362): a row is written, a block's checksum matched, a block
decoded, or the next header read, unless two blocks are held unwritten or the core has stopped (R358). -/
def cardStep (t : TileId) (c : ChanId) (k : CoreId) (j : Job) (d : Card) (s : State) : Option State :=
  let q : QueueId := .chan c
  let stopped := (s.core t k).stopped
  let set (p : Card × State) : State := modJob t k q j.id (fun j => { j with card := some p.1 }) p.2
  let later : Option State :=
    match d.dec with
    | some n => if n ≤ s.now then some (set (cardDecode t c k j d s)) else none
    | none =>
      if d.stop || stopped || decide (j.total ≤ d.e) || decide (2 ≤ d.wait.length + if d.out.isEmpty then 0 else 1) then none
      else some (set (cardHeader t c k j d s))
  match d.out, d.wait with
  | row :: l, _ => if d.writeAt ≤ s.now then some (cardWrite t c k j d row l s) else later
  | [], b :: _ => if b.due ≤ s.now && !stopped then (cardVerify t c k j d b s).or later else later
  | [], [] => later

/-- The running CPYD of a channel with its carder. -/
def chanCard (s : State) (t : TileId) (c : ChanId) : Option (CoreId × Job × Card) :=
  (chanJob s t c).bind fun p => p.2.card.map fun d => (p.1, p.2, d)

/-- All that the carder does in this rc. -/
def cardRun (t : TileId) (c : ChanId) : Nat → State → State
  | 0, s => s
  | n + 1, s =>
    match chanCard s t c with
    | none => s
    | some (k, j, d) =>
      match cardStep t c k j d s with
      | some u => cardRun t c n u
      | none => s

/-- The carder n rc later with all that it is at. -/
def Card.delay (d : Card) (n : Nat) : Card :=
  { d with
    dec := d.dec.map (· + n), writeAt := d.writeAt + n, wait := d.wait.map fun b => { b with due := b.due + n } }

/-- The bank cycles that the channel of a job has stalled make the carder later (R105). -/
def cardStalls (t : TileId) (c : ChanId) (s : State) : State :=
  let (n, s) := stalled t c s
  match chanJob s t c with
  | some (k, j) =>
    if n = 0 then s else modJob t k (.chan c) j.id (fun j => { j with card := j.card.map fun d => d.delay n }) s
  | none => s

/-- The carder at work in this rc, and the times at which it goes on made due. -/
def cardGo (t : TileId) (c : ChanId) (s : State) : State :=
  let s := cardRun t c 8 (cardStalls t c s)
  match chanCard s t c with
  | none => s
  | some (k, _, d) =>
    let times := (if d.out.isEmpty then [] else [d.writeAt]) ++ d.dec.toList ++ d.wait.map (·.due)
    let s := (times.filter fun n => decide (s.now < n)).foldl (fun s n => s.dueH n t c.val .carderBlock) s
    if (s.core t k).stopped then s.dueK s.now t k .engineFreeze else s

/-- CARDER_BLOCK (R360 to R363): the carder goes on with a channel's CPYD. As index 8 and above the row of the next header has reached
it, from which rc its cycles count (R396, R475). -/
def execCarderBlock (s : State) : Host.Outcome State Fault Refusal :=
  let t := s.cur.tile
  let c : ChanId := fin 8 s.cur.ix
  let q : QueueId := .chan c
  match chanJob s t c with
  | none => .next s
  | some (k, j) =>
    if j.op ≠ .cpyd then .next s
    else if 8 ≤ s.cur.ix then
      if j.card.isSome then .next s
      else if (s.core t k).stopped then .next (s.dueK s.now t k .engineFreeze)
      else
        .next (cardGo t c (modJob t k q j.id (fun j =>
          { j with card := some { org := j.pos, pos := j.pos, e := j.prog, blk := j.blk } }) s))
    else .next (cardGo t c s)

/-! ## Completion -/

/-- The record of a CPYM whose acknowledgement masks were not all zero (R467). -/
def partialRec (s : State) (t : TileId) (k : CoreId) (j : Job) (i : Word × BitVec 16 × Nat × Byte) : FaultRec :=
  let gid := j.b.toNat % 256
  let h := ((s.tile t).groups.get gid {}).handle
  {
    code := .mcastPartial, kind := .async, task := (s.tile t).taskid, tile := some (s.ltileOf t, t),
    core := some (k, .e), addr := some (true, BitVec.ofNat 60 i.2.2.1),
    fab := some { handle := h, port := (s.circ t h.toNat).port, mseq := i.1 },
    extra := (0 : BitVec 20) ++ i.2.2.2 ++ BitVec.ofNat 8 gid ++ (i.2.1.truncate 12 : BitVec 12) ++ j.mask,
    handlerWork := j.handler }

/-- The bytes a copy has delivered (R189, R357). -/
def Job.delivered (j : Job) : Option Nat :=
  match j.op with
  | .cpy => some (recBytes j.recB)
  | .cpyd => some (recBytes j.recB)
  | .cpyr => some (recBytes j.recA)
  | .cpym => some (recBytes j.recA)
  | _ => none

/-- The record of a job that a torn-down circuit has robbed of a chunk (R448, R456): FAULTED is what it finds. -/
def lostRec (s : State) (t : TileId) (k : CoreId) (j : Job) (l : Nat × Va) : FaultRec :=
  jobRec s t k j .circuitNotLive 5 (some (false, l.2)) (fabOf l.1)

/-- A running job that has lost a chunk, or whose next chunk holds uncorrectable data, with its fault (R443, R448). -/
def Job.robbed (j : Job) (s : State) (t : TileId) (k : CoreId) : Option FaultRec :=
  if j.stat != .running then none
  else
    match j.lost with
    | some l => some (lostRec s t k j l)
    | none => if j.cutNow then j.cut.map fun c => jobBad s t k j c.1 else none

/-- COPY_JOB_COMPLETE (R119, R357, R374, R467) of a queue's head; a job that has lost a chunk, or meets uncorrectable data in a
firing's, ends with a fault and resumes at its first chunk not accepted (R448, R473, R474). -/
def execCopyJobComplete (s : State) : Host.Outcome State Fault Refusal :=
  let t := s.cur.tile
  let k := s.cur.core
  let q := queueOf s.cur.ix
  match ((s.core t k).queue q).findSome? fun j => (j.robbed s t k).map fun r => (j, r) with
  | some (j, r) => .next (failJob t k q j.again r s)
  | none =>
  match ((s.core t k).queue q).head? with
  | none => .next s
  | some j =>
    if !j.done then .next s
    else
      let s := releaseChan t q (endJob t k q j j.delivered s)
      let s := match j.maskInfo with
        | some i => if (signalBad s t k j).isSome then s else deliver (partialRec s t k j i) s
        | none => s
      let s := kickQueue t k q s
      .next (s.dueT s.now t .tilePartEnd)

/-! ## The send unit -/

/-- The MPA of SEND's destination on the physical tile u that its circuit reaches (R90, R369). -/
def sendMpa (s : State) (t : TileId) (h : Nat) (c : Word) : Nat :=
  match (s.circ t h).ends with
  | e :: _ =>
    let u := e.tile.toNat
    if c.getLsbD 31 then
      let k := (c.extractLsb' 27 4).toNat
      onDieMpa u (if e.md = s.hub.modid then (s.tile (fin 32 u)).coreField k else k) 0 (256 * (c.toNat % 2 ^ 14))
    else u * 2 ^ 36 + 256 * (c.toNat % 2 ^ 28)
  | [] => 0

/-- The checks of SEND (R369). -/
def sendChecks (s : State) (t : TileId) (k : CoreId) (j : Job) : Except FaultRec Job :=
  let n := j.b.toNat % 32
  let h := j.f.md.toNat % 64
  if n = 0 ∨ 16 < n ∨ 16384 < j.a.toNat % 2 ^ 14 + n then .error (jobRec s t k j .reservedOperand)
  else if (s.circ t h).mcast then .error (jobRec s t k j .handleKind 0 none (fabOf h))
  else .ok j

/-- A SEND that starts, and its message (R369). -/
def startSend (t : TileId) (k : CoreId) (j : Job) (s : State) : Except FaultRec State :=
  let n := j.b.toNat % 32
  let r := j.a.toNat % 2 ^ 14
  let h := j.f.md.toNat % 64
  match s.badIn (s.padMpa t k (256 * r)) (256 * n) with
  | some g => .error (jobBad s t k j g)
  | none =>
    let places := (List.range n).map fun i => s.padMpa t k (256 * (r + i))
    let rows := places.map s.readRow
    let j := { j with total := 1, prog := 1 }
    .ok (admitJob t k .send j h (chunkMsg (sendMpa s t h j.c) (j.f.md.getLsbD 12) rows) none none
      (BitVec.ofNat 60 (256 * r)) (runJob t k .send j s))

/-- Two scale words of each row of a firing in MXINT8: the spec names no source for them (log 6). -/
def freeScales : Nat → State → List Word × State
  | 0, s => ([], s)
  | n + 1, s =>
    let (v, s) := s.fresh
    let (l, s) := freeScales n s
    (v.truncate 32 :: v.extractLsb' 32 32 :: l, s)

/-- The addresses of the rows of collective entry i (R374). -/
def readyRows (s : State) (t : TileId) (i : Nat) : List Int :=
  let e := (s.tile t).cents.get i {}
  (List.range e.nrows).map fun (n : Nat) => ((e.laddr.toNat * 256 + 256 * n : Nat) : Int)

/-- The fault of a row at LADDR (R322, R374): the code of its translation; a place that is not local is none that the tile's lease
or scratchpads give, LEASE_VIOLATION (log 26). -/
def readyFault (s : State) (t : TileId) (k : CoreId) (j : Job) (a : Int) : Option FaultRec :=
  match localByte s t k j 1 j.a a true false with
  | .error f =>
    some (if f.code = .copyShape then jobRec s t k j .leaseViolation (permBits true false) (some (false, vaOf a)) else f)
  | .ok _ => none

/-- The checks of CTREADY (R374). -/
def readyChecks (s : State) (t : TileId) (k : CoreId) (j : Job) : Except FaultRec Job :=
  let i := j.a.toNat % 256
  if !((s.tile t).cents.get i {}).v then .error (jobRec s t k j .ctInvalid (BitVec.ofNat 64 i))
  else
    match (readyRows s t i).findSome? (readyFault s t k j) with
    | some f => .error f
    | none => .ok j

/-- A CTREADY that starts, with its checks as they come out then, and its firing (R203, R374): a chunk with uncorrectable data faults the
job once it is the next to be sent (R443). -/
def startReady (t : TileId) (k : CoreId) (j : Job) (s : State) : Except FaultRec State := do
  let j ← readyChecks s t k j
  let i := j.a.toNat % 256
  let ms := (readyRows s t i).map fun a => s.jobMpa t k a
  let rows := ms.map fun m => s.readRow m
  let bad (c : Nat) : Option Nat := ((ms.drop (16 * c)).take 16).findSome? fun m => s.badIn m 256
  let s := ms.foldl (fun s m => countRead m 256 s) s
  let e := (s.tile t).cents.get i {}
  let (scales, s) := if e.rfmt = 3 then freeScales e.nrows s else ([], s)
  .ok (fire t k .send j i (e.laddr.toNat * 256) rows scales bad (runJob t k .send j s))

/-- SEND_JOB_START (R116, R353, R369, R374): the head of a core's send queue is checked, and starts; a firing waits while RDY of its
entry is 1. -/
def execSendJobStart (s : State) : Host.Outcome State Fault Refusal :=
  let t := s.cur.tile
  let k := s.cur.core
  let check (s : State) (j : Job) : Except FaultRec Job :=
    if j.op = .ctready then readyChecks s t k j else sendChecks s t k j
  let s := headCheck t k .send check (fun s n => s.dueK n t k .sendJobStart) s
  match readyHead s t k .send with
  | none => .next s
  | some j =>
    if firingWaits s t j then .next s
    else if j.allSent then .next (jobCheck t k .send j.id (runJob t k .send j s))
    else
      match (if j.op = .ctready then startReady t k j s else startSend t k j s) with
      | .error r => .next (parkJob t k .send j r s)
      | .ok s => .next s

/-- FIRING_COMPLETE (R203): every peer has applied every chunk of an entry's firing. -/
def execFiringComplete (s : State) : Host.Outcome State Fault Refusal :=
  let t := s.cur.tile
  let i := s.cur.ix
  let e := (s.tile t).cents.get i {}
  if e.rdy && e.left == 0 then
    let s := s.modTile t fun x => { x with cents := x.cents.set i { e with rdy := false, owner := none } }
    let s := if e.se then land t (s.now + 1) e.sem 0 .incr s else s
    .next ((s.tile t).coreList.foldl (fun s k => kickQueue t k .send (kickQueue t k .matrix s)) s)
  else .next s

/-! ## Watermarks and recovery -/

/-- WATERMARK_STALL_END (R118): the M clusters that stand behind a watermark look again. -/
def execWatermarkStallEnd (s : State) : Host.Outcome State Fault Refusal :=
  let t := s.cur.tile
  .next ((s.tile t).coreList.foldl (fun s k =>
    let y := (s.core t k).m
    let waits := match y.req with
      | some (.watermark _) => true
      | _ => false
    if (y.stall = 7 ∨ waits = true) ∧ !y.held then scheduleIssue t k .m 1 s else s) s)

/-- HUB_RECOVERY (R472, R475): a parked job whose circuit was not LIVE is retried in the first fabric step in which it is; a
circuit that has become IDLE or FAULTED ends the task; a copy parked at a carder block is retried. -/
def execHubRecovery (s : State) : Host.Outcome State Fault Refusal :=
  let t := s.cur.tile
  let k := s.cur.core
  let n := s.cur.ix
  match ((s.core t k).queue (queueOf n)).find? fun j => j.stat == .parked && j.hub.isSome with
  | none => .next s
  | some j =>
    if j.hub = some 64 then .next (unpark t k n s)
    else if j.hub = some 65 then .next (endByFault (s.tile t).taskid .circuitNotLive s)
    else match (s.circ t (j.hub.getD 0)).state with
    | .live => .next (unpark t k n s)
    | .idle | .faulted => .next (endByFault (s.tile t).taskid .circuitNotLive s)
    | _ => .next (s.dueU (stepAfter s.now) t k n .hubRecovery)

/-! ## Freezing -/

/-- The channel jobs of a stopped core frozen at their chunk boundaries, once their messages are acknowledged (R358). -/
def freezeChans (t : TileId) (k : CoreId) (s : State) : State :=
  (fins 8).foldl (fun s c =>
    match chanJob s t c with
    | some (k', j) =>
      let still := if j.op = .cpyd then j.card.all fun d => d.out.isEmpty else j.bytes == j.prog
      if k' = k ∧ j.unacked = 0 ∧ still ∧ j.prog < j.total then
        let (j, s) := if j.op = .cpyd then flushBlocks t c k j s else (j, s)
        releaseChan t (.chan c) (modJob t k (.chan c) j.id (fun _ => { j with stat := .frozen }) s)
      else s
    | none => s) s

/-- ENGINE_FREEZE (R85, R352, R358): while the core is held, its context's matrix jobs freeze at their interruptible
steps, and the handler's MSAVE may then be offered; once it has stopped, so do its copies. -/
def execEngineFreeze (s : State) : Host.Outcome State Fault Refusal :=
  let t := s.cur.tile
  let k := s.cur.core
  if (s.core t k).held then
    let s := freezeMatrix t k s
    let s := if (s.core t k).stopped then freezeChans t k s else s
    let s := s.dueK s.now t k .matrixJobOffer
    .next (s.dueT s.now t .tilePartEnd)
  else .next s

end Sys2Proof.Machine
end

