-- ==== Sys2Proof/Machine/Flit.lean ====
section
/-!
DEFINITION. Flits as they stand on the lines: the trailer and its CRC, the message descriptor, the flits of a message, what a
receiving port finds wrong with a run of them, and the control flit (spec/06 R152 to R156; spec/22 R437).
-/
namespace Sys2Proof.Machine

/-! ## CRC-16 -/

/-- One bit of the CRC with polynomial 0x1021. -/
def crcBit (c : BitVec 16) : BitVec 16 := if c.msb then c <<< 1 ^^^ 0x1021 else c <<< 1

/-- One byte of the CRC. -/
def crcByte (c : BitVec 16) (b : Byte) : BitVec 16 :=
  (List.range 8).foldl (fun c _ => crcBit c) (c ^^^ b.setWidth 16 <<< 8)

/-- The CRC c taken over further bytes, in ascending order. The two branches say the same: the test makes an evaluation go byte
by byte. -/
def crcOver : BitVec 16 → List Byte → BitVec 16
  | c, [] => c
  | c, b :: r => if crcByte c b = 0 then crcOver 0 r else crcOver (crcByte c b) r

/-- CRC-16 with initial value 0xFFFF over bytes in ascending order (R152). -/
def crc16 (l : List Byte) : BitVec 16 := crcOver 0xFFFF l

/-! ## A flit -/

/-- A flit: its 64 payload bytes, byte 0 lowest, and the fields of its trailer (R152). -/
structure Flit where
  pay : BitVec 512
  ty : BitVec 4
  pos : BitVec 6
  last : Bool
  side : Word
  deriving DecidableEq, Repr, Inhabited

/-- Trailer bits [63:16] (R152). -/
def Flit.top (f : Flit) : BitVec 48 := f.ty ++ f.pos ++ BitVec.ofBool f.last ++ (0 : BitVec 5) ++ f.side

/-- The CRC of a payload and of trailer bits [63:16] (R152). -/
def flitCrc (top : BitVec 48) (pay : BitVec 512) : BitVec 16 :=
  crc16 ((List.range 64).map (fun i => pay.extractLsb' (8 * i) 8) ++ (List.range 6).map fun i => top.extractLsb' (8 * i) 8)

/-- The 72 bytes of a flit, byte 0 lowest (R152). -/
def Flit.word (f : Flit) : BitVec 576 := f.top ++ flitCrc f.top f.pay ++ f.pay

/-- A flit as it is read from its 72 bytes, and whether its CRC is good (R152). -/
def readFlit (w : BitVec 576) : Flit × Bool :=
  let top : BitVec 48 := w.extractLsb' 528 48
  let pay : BitVec 512 := w.extractLsb' 0 512
  ({ pay := pay, ty := top.extractLsb' 44 4, pos := top.extractLsb' 38 6, last := top.getLsbD 37, side := top.extractLsb' 0 32 },
    flitCrc top pay == w.extractLsb' 512 16)

/-! ## A message -/

/-- The TYPE of a kind of message (R153). -/
def MsgType.code : MsgType → BitVec 4
  | .row => 1
  | .short => 2
  | .reply => 3
  | .chunk => 4

/-- The descriptor of a message (R154). -/
def descriptor (m : Msg) : BitVec 128 :=
  m.seq ++ m.mpa ++ m.tag ++ m.gen ++ m.job ++ BitVec.ofBool m.g ++ m.op ++ m.nrow ++ (0 : BitVec 20)

/-- A message of one flit: the descriptor in payload bytes 0 to 15, then its first 12 words (R153, log 45), and its side
word. -/
def oneFlit (ty : MsgType) (m : Msg) : Flit :=
  { pay := ((m.pay.getD 0 0).extractLsb' 0 384 : BitVec 384) ++ descriptor m, ty := ty.code, pos := 0, last := true,
    side := m.side.getD 0 0 }

/-- Flit i of a message of whole rows: a quarter of a row, and in SIDE the descriptor's word i of flits 0 to 3, or side word
i - 4 (R152, R196). -/
def rowFlit (ty : MsgType) (m : Msg) (i : Nat) : Flit :=
  {
    pay := (m.pay.getD (i / 4) 0).extractLsb' (512 * (i % 4)) 512, ty := ty.code, pos := BitVec.ofNat 6 i,
    last := i + 1 == 4 * m.pay.length,
    side := if i < 4 then (descriptor m).extractLsb' (32 * i) 32 else m.side.getD (i - 4) 0 }

/-- The flits of a message, first flit first (R153). -/
def msgFlits (ty : MsgType) (m : Msg) : List Flit :=
  if ty = .short ∨ (ty = .reply ∧ m.side.getD 0 0 = 0) then [oneFlit ty m]
  else (List.range (4 * m.pay.length)).map (rowFlit ty m)

/-- What arrives of the flits of a message from place i on: those not lost, with the bits turned over on the way. -/
def arriving (errs : List (Nat × Option (BitVec 576))) : Nat → List Flit → List (BitVec 576)
  | _, [] => []
  | i, f :: r =>
    match errs.find? fun e => e.1 == i with
    | none => f.word :: arriving errs (i + 1) r
    | some (_, some e) => (f.word ^^^ e) :: arriving errs (i + 1) r
    | some (_, none) => arriving errs (i + 1) r

/-- Whether POS runs 0, 1, 2, … up to the LAST flit (R153). -/
def posRun : Nat → List Flit → Bool
  | _, [] => false
  | i, f :: r => f.pos.toNat == i && (if f.last then r.isEmpty else posRun (i + 1) r)

/-- What a receiving port finds wrong with the run of flits of a message, by the code of R437: 1 a CRC, 2 a TYPE that is
reserved or CONTROL, 3 the run of POS; 0 for a good run. The lowest that holds is reported (log 45). -/
def runFault (l : List (BitVec 576)) : Nat :=
  let fs := l.map readFlit
  if fs.any fun p => !p.2 then 1
  else if fs.any fun p => decide (4 < p.1.ty.toNat) then 2
  else if posRun 0 (fs.map (·.1)) then 0 else 3

/-- What the receiving port finds wrong with a message: its run of flits, or a reserved OP (R153, R154, R437). -/
def msgFault (ty : MsgType) (m : Msg) : Nat :=
  let n := runFault (arriving m.errs 0 (msgFlits ty m))
  if n = 0 ∧ 4 ≤ m.op.toNat then 2 else n

/-! ## Control flits -/

/-- A control flit (R156): CTYPE, LEAF, HANDLE, and the words from byte 4 on. -/
structure Ctl where
  ctype : BitVec 4
  leaf : CoreId
  handle : HandleId
  ack : Word := 0
  allow : Word := 0
  nseq : Word := 0
  ncode : BitVec 16 := 0
  deriving DecidableEq, Repr, Inhabited

/-- The payload of a control flit (R156). -/
def Ctl.pay (c : Ctl) : BitVec 512 :=
  (0 : BitVec 368) ++ c.ncode ++ c.nseq ++ c.allow ++ c.ack ++
    (c.ctype ++ BitVec.ofNat 4 c.leaf.val ++ BitVec.ofNat 6 c.handle.val ++ (0 : BitVec 18) : BitVec 32)

/-- The 72 bytes of a control flit (R156), which gives its trailer's TYPE and POS alone: LAST is 1 and SIDE 0 (DESIGN CHOICE,
log 45). -/
def Ctl.word (c : Ctl) : BitVec 576 :=
  { pay := c.pay, ty := 8, pos := 0, last := true, side := 0 : Flit }.word

/-- A control flit as an end of L9 reads it: none where its TYPE is not CONTROL or its CRC fails, which is ignored (R153,
R449). -/
def readCtl (w : BitVec 576) : Option Ctl :=
  let (f, good) := readFlit w
  if good && f.ty == 8 then
    let d : Word := f.pay.extractLsb' 0 32
    some {
      ctype := d.extractLsb' 28 4, leaf := ⟨(d.extractLsb' 24 4).toNat, by omega⟩,
      handle := ⟨(d.extractLsb' 18 6).toNat, by omega⟩, ack := f.pay.extractLsb' 32 32, allow := f.pay.extractLsb' 64 32,
      nseq := f.pay.extractLsb' 96 32, ncode := f.pay.extractLsb' 128 16 }
  else none

/-- The step that the arrival of a control flit of an end is, by CTYPE (R156): status, refusal, keepalive, and, from a
source, the commit to a leaf; a reserved CTYPE is none. -/
def Ctl.step (src : Source) (c : Ctl) : Option Instr :=
  match c.ctype.toNat with
  | 1 => some (.statusFlit c.leaf c.ack c.allow)
  | 2 => some (.negativeResponse c.leaf c.ack c.allow c.nseq c.ncode)
  | 3 => some (.commit src c.ack)
  | 4 => some (.keepalive c.leaf c.ack c.allow c.nseq)
  | _ => none

end Sys2Proof.Machine
end

