-- ==== Sys2Proof/Machine/VArith.lean ====
section
/-!
DEFINITION. The arithmetic words of the V cluster (spec/12 R286 to R300), and how a V result is placed, pushed and
flagged (R287, R288, R135).
-/
namespace Sys2Proof.Machine

/-! ## Subfields and destinations -/

/-- KM of R239. -/
def vKm (f : RR) : Nat := f.f.toNat / 2 ^ 20 % 8
/-- RND of R239. -/
def vRnd (f : RR) : Nat := f.f.toNat / 2 ^ 18 % 4
/-- SAT of R239. -/
def vSat (f : RR) : Bool := f.f.getLsbD 17

/-- The active lanes of a word (R287). -/
def State.lanes (s : State) (f : RR) : BitVec 64 := s.cc.mask (vKm f)

/-- Entries of sq that no M store has performed: those unclaimed, and those a pending store holds (R75, R288). -/
def Core.sqCount (x : Core) : Nat := x.sq.length + (x.pend.filter fun p => p.sq && p.data.isSome).length

/-- A row that enters sq in rc t: for the oldest store that waits for one, which may then be performed, else in the
queue (R75). The M cluster's words after that store follow the push, and so do those after the store that will take the row
(R171). -/
def pushSq (t : Nat) (r : Row) (s : State) : State :=
  let rec give : List PendStore → Option (List PendStore)
    | [] => none
    | p :: l =>
      match p.data with
      | none => some ({ p with data := some r, ready := t } :: l)
      | some _ => (give l).map fun l => p :: l
  let k := s.cc.knows s.ct.jobCtr .v
  match give s.cc.pend with
  | some l =>
    let s := s.modCc fun x => { x.modClu .m (fun y => y.learn k) with pend := l }
    if t < unknown then s.dueK t s.cur.tile s.cur.core .memoryPortApply else s
  | none => s.modCc fun x => { x with sq := x.sq ++ [(t, r)], sk := x.sk ++ [k] }

/-- The bits of the lanes of a mask. -/
def laneBits (m : BitVec 64) : Row := mkRow fun i => if m.getLsbD i then 0xFFFFFFFF else 0

/-- A vector register all of whose bits a word writes is good again; a write of some of them leaves its error (R443, log 57). -/
def Core.goodV (x : Core) (n : Nat) (bits : Row) : Core :=
  if bits = BitVec.allOnes 2048 then { x with vc := x.vc.clean n } else x

/-- A V result placed by D and W, delivered n engine cycles after issue (R287, R288, R289): `new` where a bit of `bits` is
set, and the contents of D, or zero for sq and for no register, elsewhere. A push into an sq that holds 16 entries waits at its
delivery. -/
def vplace (n : Nat) (d : BitVec 7) (w : Bool) (bits new : Row) (fl : Fl) (s : State) : Eff :=
  let t := s.deliverAt .v n
  let t := if d = 0x44 ∧ 16 ≤ s.cc.sqCount then t + unknown else t
  let s := s.modCc fun x => x.raise s.now t fl.bits
  let old := if d.toNat < 32 then s.cc.vreg d.toNat else 0
  let r := (old &&& ~~~bits) ||| (new &&& bits)
  if d = 0x7F then .done (s.modCc fun x => (x.pushV r).owe .v [] true t)
  else if d = 0x44 then .done ((pushSq t r s).modCc fun x => (x.pushV r).owe .v [] true t)
  else
    .done (s.modCc fun x =>
      ((if w then ((x.keep .v d.toNat bits s.now t).setV d.toNat r).goodV d.toNat bits else x).pushV r).owe .v (if w then [d.toNat] else [])
        true t)

/-- A V result placed by D and W, its lanes taken where the mask is set (R287). -/
def vput (n : Nat) (d : BitVec 7) (w : Bool) (m : BitVec 64) (new : Row) (fl : Fl) (s : State) : Eff :=
  vplace n d w (laneBits m) new fl s

/-- Lane results with the flags of the active lanes. -/
def flagLanes (m : BitVec 64) (g : Nat → Word × Fl) : Row × Fl :=
  let l := (List.range 64).map fun i => if m.getLsbD i then g i else (0, {})
  (BitVec.ofNat 2048 (packN (l.map Prod.fst)), l.foldl (fun a x => a.or x.2) {})

/-- A lane-wise V word: its sources, then its lanes with flags (R286, R287). -/
def vword (p : Pace) (h : Hdr) (f : RR) (ps : List Pos) (g : List Row → Nat → Word × Fl) (s : State) :
    Host.Outcome State Fault Refusal :=
  word .v h (fun s =>
    vsrcs (vdstOk f.d) [vKm f] (ps.zip [f.a, f.b, f.c]) (fun l => paced p (fun s =>
      let m := s.lanes f
      let (r, fl) := flagLanes m (g l)
      vput p.ec f.d f.w m r fl s)) s) s

/-- A lane-wise V word without flags. -/
def vpure (p : Pace) (h : Hdr) (f : RR) (ps : List Pos) (g : List Row → Nat → Word) (s : State) :
    Host.Outcome State Fault Refusal :=
  vword p h f ps (fun l i => (g l i, {})) s

/-- A word of FP32 lanes from numbers of bits. -/
def fl32 (x : Nat × Fl) : Word × Fl := (BitVec.ofNat 32 x.1, x.2)

/-- A mask result: its test in active lanes, written unless it is k0 or W = 0 or D is 0x7F, and pushed as lanes of
ones, n engine cycles after issue (R292). -/
def vmaskPut (n : Nat) (d : BitVec 7) (w : Bool) (m : BitVec 64) (test : Nat → Bool) (s : State) : Eff :=
  let bits : BitVec 64 := BitVec.ofNat 64 ((List.range 64).foldl (fun n i =>
    if m.getLsbD i && test i then n + 2 ^ i else n) 0)
  let t := s.deliverAt .v n
  let put := w && d != 0x7F && d != 0
  .done (s.modCc fun x =>
    ((if put then (x.keep .v (128 + d.toNat) (BitVec.ofNat 2048 (2 ^ 64 - 1)) s.now t).setMask d.toNat bits
      else x).pushV
      (mkRow fun i => if bits.getLsbD i then 0xFFFFFFFF else 0)).owe .v (if put then [128 + d.toNat] else []) true t)

/-- Whether D names a mask or no mask (R292). -/
def maskDst (d : BitVec 7) : Bool := idxOk d || d == 0x7F

/-! ## FP32 -/

/-- VFADD (R290). -/
def execVfadd (h : Hdr) (f : RR) (s : State) : Host.Outcome State Fault Refusal :=
  vword { ec := 4 } h f [.fp32, .fp32] (fun l i =>
    fl32 (fp32.addB (vRnd f) (vSat f) (lane (rarg l 0) i).toNat (lane (rarg l 1) i).toNat)) s

/-- VFSUB (R290). -/
def execVfsub (h : Hdr) (f : RR) (s : State) : Host.Outcome State Fault Refusal :=
  vword { ec := 4 } h f [.fp32, .fp32] (fun l i =>
    fl32 (fp32.subB (vRnd f) (vSat f) (lane (rarg l 0) i).toNat (lane (rarg l 1) i).toNat)) s

/-- VFMUL (R290). -/
def execVfmul (h : Hdr) (f : RR) (s : State) : Host.Outcome State Fault Refusal :=
  vword { ec := 4 } h f [.fp32, .fp32] (fun l i =>
    fl32 (fp32.mulB (vRnd f) (vSat f) (lane (rarg l 0) i).toNat (lane (rarg l 1) i).toNat)) s

/-- VFMA (R290): FN[0] negates the product, FN[1] the addend. -/
def execVfma (h : Hdr) (f : RR) (s : State) : Host.Outcome State Fault Refusal :=
  vword { ec := 4 } h f [.fp32, .fp32, .fp32] (fun l i =>
    fl32 (fp32.fmaB (vRnd f) (vSat f) (f.f.getLsbD 0) (f.f.getLsbD 1) (lane (rarg l 0) i).toNat (lane (rarg l 1) i).toNat
      (lane (rarg l 2) i).toNat)) s

/-- Whether encoding a comes before b in FP32 order, with -0 below +0 (R291). -/
def fpBelow (a b : Word) : Bool :=
  let va := fp32.decode a.toNat
  let vb := fp32.decode b.toNat
  va.lt vb || (!vb.lt va && a.getLsbD 31 && !b.getLsbD 31)

/-- VFMIN and VFMAX on a lane (R291). -/
def fpPick (takeMax num : Bool) (a b : Word) : Word :=
  let na := (fp32.decode a.toNat).isNan
  let nb := (fp32.decode b.toNat).isNan
  if na && nb then 0x7FC00000
  else if na then (if num then b else 0x7FC00000)
  else if nb then (if num then a else 0x7FC00000)
  else if takeMax then (if fpBelow a b then b else a) else (if fpBelow b a then b else a)

/-- VFMIN (R291). -/
def execVfmin (h : Hdr) (f : RR) (s : State) : Host.Outcome State Fault Refusal :=
  vpure { ec := 2 } h f [.fp32, .fp32] (fun l i => fpPick false (f.f.getLsbD 0) (lane (rarg l 0) i) (lane (rarg l 1) i)) s

/-- VFMAX (R291). -/
def execVfmax (h : Hdr) (f : RR) (s : State) : Host.Outcome State Fault Refusal :=
  vpure { ec := 2 } h f [.fp32, .fp32] (fun l i => fpPick true (f.f.getLsbD 0) (lane (rarg l 0) i) (lane (rarg l 1) i)) s

/-- The condition of VFCMP on a lane (R292). -/
def fpCond (code : Nat) (a b : Word) : Bool :=
  let va := fp32.decode a.toNat
  let vb := fp32.decode b.toNat
  let uno := va.isNan || vb.isNan
  match code with
  | 0 => !uno && !va.lt vb && !vb.lt va
  | 1 => uno || va.lt vb || vb.lt va
  | 2 => !uno && va.lt vb
  | 3 => !uno && !vb.lt va
  | 4 => !uno && vb.lt va
  | 5 => !uno && !va.lt vb
  | 6 => !uno
  | _ => uno

/-- VFCMP (R292). -/
def execVfcmp (h : Hdr) (f : RR) (s : State) : Host.Outcome State Fault Refusal :=
  word .v h (fun s =>
    vsrcs (maskDst f.d) [vKm f] [(.fp32, f.a), (.fp32, f.b)] (fun l s =>
      vmaskPut 2 f.d f.w (s.lanes f) (fun i => fpCond (f.f.toNat % 8) (lane (rarg l 0) i) (lane (rarg l 1) i)) s) s) s

/-- One level of the tree of R138: lanes i below d with lanes i + d. -/
def treeLevel {α : Type} (op : Word → Word → α → Word × α) (d : Nat) :
    List (Word × Bool) → α → List (Word × Bool) × α := fun t a =>
  (List.range d).foldl (fun (p : List (Word × Bool) × α) i =>
    let (x, ax) := t.getD i (0, false)
    let (y, ay) := t.getD (i + d) (0, false)
    if ax && ay then
      let (v, b) := op x y p.2
      (p.1 ++ [(v, true)], b)
    else (p.1 ++ [(if ay then y else x, ax || ay)], p.2)) ([], a)

/-- The tree of R138 over the active lanes; `empty` where none is active. Where one lane alone is active no operation takes
place, and its value is returned as it stands, a NaN that is not canonical too (R122 and R138 do not say which; log 41). -/
def treeFold {α : Type} (op : Word → Word → α → Word × α) (empty : Word) (m : BitVec 64) (r : Row) (a : α) : Word × α :=
  let t0 := (List.range 64).map fun i => (lane r i, m.getLsbD i)
  let (t, a) := [32, 16, 8, 4, 2, 1].foldl (fun p d => treeLevel op d p.1 p.2) (t0, a)
  match t with
  | (v, true) :: _ => (v, a)
  | _ => (empty, a)

/-- VFSUM (R294): every lane of D takes the result. -/
def execVfsum (h : Hdr) (f : RR) (s : State) : Host.Outcome State Fault Refusal :=
  word .v h (fun s =>
    vsrcs (vdstOk f.d) [vKm f] [(.fp32, f.a)] (fun l => paced { ec := 12, group := 0, every := 4 } (fun s =>
      let (v, fl) := treeFold (fun x y (a : Fl) =>
        let (b, fl) := fp32.addB (vRnd f) false x.toNat y.toNat
        (BitVec.ofNat 32 b, a.or fl)) 0 (s.lanes f) (rarg l 0) {}
      vput 12 f.d f.w (BitVec.allOnes 64) (splat v) fl s)) s) s

/-- VFRCP (R293). -/
def execVfrcp (h : Hdr) (f : RR) (s : State) : Host.Outcome State Fault Refusal :=
  vword { ec := 12, group := 1, every := 4 } h f [.fp32] (fun l i => special rcpV (lane (rarg l 0) i)) s

/-- VFRSQ (R293). -/
def execVfrsq (h : Hdr) (f : RR) (s : State) : Host.Outcome State Fault Refusal :=
  vword { ec := 12, group := 1, every := 4 } h f [.fp32] (fun l i => special rsqV (lane (rarg l 0) i)) s

/-- VFEXP2 (R293). -/
def execVfexp2 (h : Hdr) (f : RR) (s : State) : Host.Outcome State Fault Refusal :=
  vword { ec := 12, group := 1, every := 4 } h f [.fp32] (fun l i => special exp2V (lane (rarg l 0) i)) s

/-- VFLOG2 (R293). -/
def execVflog2 (h : Hdr) (f : RR) (s : State) : Host.Outcome State Fault Refusal :=
  vword { ec := 12, group := 1, every := 4 } h f [.fp32] (fun l i => special log2V (lane (rarg l 0) i)) s

/-- VFTANH (R293). -/
def execVftanh (h : Hdr) (f : RR) (s : State) : Host.Outcome State Fault Refusal :=
  vword { ec := 12, group := 1, every := 4 } h f [.fp32] (fun l i => special tanhV (lane (rarg l 0) i)) s

/-! ## Packed 16-bit -/

/-- Half j of a lane (R120). -/
def half (w : Word) (j : Nat) : Nat := w.toNat / 2 ^ (16 * j) % 2 ^ 16

/-- The format that FN[0] selects (R295). -/
def half16 (f : RR) : FFmt := if f.f.getLsbD 0 then bf16 else fp16

/-- How a packed position is read. -/
def halfPos (f : RR) : Pos := if f.f.getLsbD 0 then .bf16 else .fp16

/-- Both halves of a lane (R295). -/
def halves (g : Nat → Nat × Fl) : Word × Fl :=
  let (a, fa) := g 0
  let (b, fb) := g 1
  (BitVec.ofNat 32 (a + 2 ^ 16 * b), fa.or fb)

/-- VHADD (R295). -/
def execVhadd (h : Hdr) (f : RR) (s : State) : Host.Outcome State Fault Refusal :=
  vword { ec := 4 } h f [(halfPos f), (halfPos f)] (fun l i => halves fun j =>
    (half16 f).addB (vRnd f) (vSat f) (half (lane (rarg l 0) i) j) (half (lane (rarg l 1) i) j)) s

/-- VHMUL (R295). -/
def execVhmul (h : Hdr) (f : RR) (s : State) : Host.Outcome State Fault Refusal :=
  vword { ec := 4 } h f [(halfPos f), (halfPos f)] (fun l i => halves fun j =>
    (half16 f).mulB (vRnd f) (vSat f) (half (lane (rarg l 0) i) j) (half (lane (rarg l 1) i) j)) s

/-- VHFMA (R295). -/
def execVhfma (h : Hdr) (f : RR) (s : State) : Host.Outcome State Fault Refusal :=
  vword { ec := 4 } h f [(halfPos f), (halfPos f), (halfPos f)] (fun l i => halves fun j =>
    (half16 f).fmaB (vRnd f) (vSat f) false false (half (lane (rarg l 0) i) j) (half (lane (rarg l 1) i) j)
      (half (lane (rarg l 2) i) j)) s

/-- The packed dot product of a lane: both products and C summed exactly, rounded once (R296). -/
def dot2 (f : RR) (a b c : Word) : Word × Fl :=
  let g := (half16 f)
  let (p, v) := (g.decode (half a 0)).mul (g.decode (half b 0))
  let (q, u) := (g.decode (half a 1)).mul (g.decode (half b 1))
  let r := fp32.decode c.toNat
  let (x, w) := p.add (vRnd f) q
  let (y, z) := x.add (vRnd f) r
  let opposed := w || (p.add (vRnd f) r).2 || (q.add (vRnd f) r).2
  fl32 (fp32.roundNv (vRnd f) (vSat f) (y, v || u || opposed || z))

/-- VHDOT2 (R296). -/
def execVhdot2 (h : Hdr) (f : RR) (s : State) : Host.Outcome State Fault Refusal :=
  vword { ec := 5 } h f [(halfPos f), (halfPos f), .fp32] (fun l i =>
    dot2 f (lane (rarg l 0) i) (lane (rarg l 1) i) (lane (rarg l 2) i)) s

/-! ## Integers -/

/-- A two-source integer V word (R297). -/
def vint2 (p : Pace) (h : Hdr) (f : RR) (op : Word → Word → Word) (s : State) : Host.Outcome State Fault Refusal :=
  vpure p h f [.int, .int] (fun l i => op (lane (rarg l 0) i) (lane (rarg l 1) i)) s

/-- The product's high word (R297). -/
def vMulh (u : Bool) (a b : Word) : Word :=
  let x : BitVec 64 := if u then a.setWidth 64 else a.signExtend 64
  let y : BitVec 64 := if u then b.setWidth 64 else b.signExtend 64
  (x * y).extractLsb' 32 32

/-- An integer saturated to 32 bits, signed or unsigned (R297). -/
def sat32 (u : Bool) (v : Int) : Word :=
  if u then (if v < 0 then 0 else if 0xFFFFFFFF < v then 0xFFFFFFFF else BitVec.ofInt 32 v)
  else if v < -0x80000000 then 0x80000000 else if 0x7FFFFFFF < v then 0x7FFFFFFF else BitVec.ofInt 32 v

/-- A word as an integer, signed or unsigned. -/
def intOf (u : Bool) (w : Word) : Int := if u then w.toNat else w.toInt

/-- VADD (R297). -/
def execVadd (h : Hdr) (f : RR) (s : State) : Host.Outcome State Fault Refusal := vint2 { ec := 1 } h f (fun a b => a + b) s
/-- VSUB (R297). -/
def execVsub (h : Hdr) (f : RR) (s : State) : Host.Outcome State Fault Refusal := vint2 { ec := 1 } h f (fun a b => a - b) s
/-- VMUL (R297). -/
def execVmul (h : Hdr) (f : RR) (s : State) : Host.Outcome State Fault Refusal := vint2 { ec := 3 } h f (fun a b => a * b) s
/-- VMULH (R297). -/
def execVmulh (h : Hdr) (f : RR) (s : State) : Host.Outcome State Fault Refusal :=
  vint2 { ec := 3 } h f (fun a b => vMulh (f.f.getLsbD 0) a b) s
/-- VMIN (R297). -/
def execVmin (h : Hdr) (f : RR) (s : State) : Host.Outcome State Fault Refusal :=
  vint2 { ec := 1 } h f (fun a b => if (if f.f.getLsbD 0 then a.ult b else a.slt b) then a else b) s
/-- VMAX (R297). -/
def execVmax (h : Hdr) (f : RR) (s : State) : Host.Outcome State Fault Refusal :=
  vint2 { ec := 1 } h f (fun a b => if (if f.f.getLsbD 0 then a.ult b else a.slt b) then b else a) s
/-- VAND (R297). -/
def execVand (h : Hdr) (f : RR) (s : State) : Host.Outcome State Fault Refusal := vint2 { ec := 1 } h f (fun a b => a &&& b) s
/-- VOR (R297). -/
def execVor (h : Hdr) (f : RR) (s : State) : Host.Outcome State Fault Refusal := vint2 { ec := 1 } h f (fun a b => a ||| b) s
/-- VXOR (R297). -/
def execVxor (h : Hdr) (f : RR) (s : State) : Host.Outcome State Fault Refusal := vint2 { ec := 1 } h f (fun a b => a ^^^ b) s
/-- VSHL (R297). -/
def execVshl (h : Hdr) (f : RR) (s : State) : Host.Outcome State Fault Refusal :=
  vint2 { ec := 1 } h f (fun a b => a <<< (b.toNat % 32)) s
/-- VSHR (R297). -/
def execVshr (h : Hdr) (f : RR) (s : State) : Host.Outcome State Fault Refusal :=
  vint2 { ec := 1 } h f (fun a b => a >>> (b.toNat % 32)) s
/-- VSAR (R297). -/
def execVsar (h : Hdr) (f : RR) (s : State) : Host.Outcome State Fault Refusal :=
  vint2 { ec := 1 } h f (fun a b => a.sshiftRight (b.toNat % 32)) s
/-- VADDS (R297). -/
def execVadds (h : Hdr) (f : RR) (s : State) : Host.Outcome State Fault Refusal :=
  vint2 { ec := 1 } h f (fun a b => sat32 (f.f.getLsbD 0) (intOf (f.f.getLsbD 0) a + intOf (f.f.getLsbD 0) b)) s
/-- VSUBS (R297). -/
def execVsubs (h : Hdr) (f : RR) (s : State) : Host.Outcome State Fault Refusal :=
  vint2 { ec := 1 } h f (fun a b => sat32 (f.f.getLsbD 0) (intOf (f.f.getLsbD 0) a - intOf (f.f.getLsbD 0) b)) s

/-- VICMP (R298). -/
def execVicmp (h : Hdr) (f : RR) (s : State) : Host.Outcome State Fault Refusal :=
  word .v h (fun s =>
    vsrcs (maskDst f.d && decide (f.f.toNat % 16 ≤ 10)) [vKm f] [(.int, f.a), (.int, f.b)] (fun l s =>
      vmaskPut 1 f.d f.w (s.lanes f) (fun i => condHolds (f.f.toNat % 16) (lane (rarg l 0) i) (lane (rarg l 1) i)) s) s) s

/-- The operation of VIRED by FN[2:0], and its empty value (R299). -/
def redOp (n : Nat) : (Word → Word → Word) × Word :=
  match n with
  | 0 => (fun a b => a + b, 0)
  | 1 => (fun a b => if a.slt b then a else b, 0x7FFFFFFF)
  | 2 => (fun a b => if a.slt b then b else a, 0x80000000)
  | 3 => (fun a b => if a.ult b then a else b, 0xFFFFFFFF)
  | 4 => (fun a b => if a.ult b then b else a, 0)
  | 5 => (fun a b => a &&& b, 0xFFFFFFFF)
  | 6 => (fun a b => a ||| b, 0)
  | _ => (fun a b => a ^^^ b, 0)

/-- VIRED (R299). -/
def execVired (h : Hdr) (f : RR) (s : State) : Host.Outcome State Fault Refusal :=
  word .v h (fun s =>
    vsrcs (vdstOk f.d) [vKm f] [(.int, f.a)] (fun l => paced { ec := 6, group := 2, every := 2 } (fun s =>
      let (op, empty) := redOp (f.f.toNat % 8)
      let (v, _) := treeFold (fun x y (a : Unit) => (op x y, a)) empty (s.lanes f) (rarg l 0) ()
      vput 6 f.d f.w (BitVec.allOnes 64) (splat v) {} s)) s) s

end Sys2Proof.Machine
end

