-- ==== Sys2Proof/Machine/MMem.lean ====
section
/-!
DEFINITION. The memory words of the M cluster: loads, stores, multicast stores, atomics, fences, watermark waits,
windows and regions (spec/14 R318 to R332).
-/
namespace Sys2Proof.Machine

/-! ## Shared operations -/

/-- The precise record of the M word that issues now. -/
def State.mNow (s : State) (code : FaultCode) (extra : DWord) : FaultRec := s.recNow code extra

/-- The address of an access: a row's or a word's (R96). -/
def alignAddr (isRow : Bool) (a : Nat) : Nat := if isRow then a / 256 * 256 else a / 4 * 4

/-- The record of a translation fault. -/
def State.trFault (s : State) (code : FaultCode) (extra : DWord) (addr : Bool × Va) : FaultRec :=
  { s.recNow code extra with addr := some addr }

/-- The record of uncorrectable data (R437). -/
def State.badData (s : State) (g : Nat) : FaultRec :=
  s.trFault .dataUncorrectable (BitVec.ofNat 64 (s.storeCode g)) (true, BitVec.ofNat 60 g)

/-- Whether a load or an atomic meets an earlier store of its core to the same row that still waits (R76), or an earlier atomic
that waits and is an acquire (R172). -/
def pendBlocks (x : Core) (win : Option Nat) (h : Nat) (mpa : Nat) : Bool :=
  x.pend.any fun p =>
    (p.amo.any fun a => a.acq) || decide (p.mpa / 256 = mpa / 256) && p.group.isNone &&
      (match win with
        | some _ => p.win.isSome && decide (p.handle = h)
        | none => p.win.isNone)

/-- Whether an earlier atomic of a core still waits for its value, which a later atomic awaits (R172). -/
def Core.amoWaits (x : Core) : Bool := x.pend.any fun p => p.amo.isSome

/-- A load or an atomic with acquire has its value: its core follows what was released to it (R180). -/
def State.acquired (s : State) (f : MemF) : State :=
  if f.ord.getLsbD 0 then s.modCc fun x => { x with learnt := s.now } else s

/-- The next place in the M stream (R172). -/
def State.nextOrd (s : State) : State := s.modCc fun x => { x with mcount := x.mcount + 1 }

/-- A request for a load or an atomic handed to the sending unit (R107, R153): RHANDLE in the side data, the
operation code 0 for a load, whether a row is asked, and an atomic's operands in the payload. -/
def sendRequest (w : Nat) (mpa : Nat) (va : Va) (op : BitVec 3) (opnds : List Word) (s : State) : State :=
  let x := s.ct.wins.get w {}
  let m : Msg := { blankMsg with
    mpa := BitVec.ofNat 48 mpa, op := op, pay := [BitVec.ofNat 2048 (packN opnds)],
    side := [x.rhandle.setWidth 32] }
  let q : Sent := {
    msg := m, ty := .short, core := s.cur.core, clus := 2, pc := s.ccl.pc, va := va,
    win := if op = 2 then some w else none, handlerWork := s.cc.trap && s.ccl.redir.isNone, ord := s.cc.mcount }
  admitMsg s.cur.tile x.handle.toNat q s.nextOrd

/-- The step boundary at which an access to an accumulator bank is performed (R95), if the place is one. -/
def bankBoundary (s : State) (mpa : Nat) : Option Nat :=
  match s.place mpa with
  | .onDie t c 1 _ => some ((s.core t (s.dieCore t c)).stepBoundary s.now)
  | _ => none

/-- The engine cycles that a load from a place of the tile takes to its delivery: 4 from the core's own scratchpad, with what its
bank stalls add (R105), and from a bank none before the matrix engine's step boundary (R95); no bound is given for others
(R318; log 8). -/
def loadEc (s : State) (mpa : Nat) : Nat :=
  let ecs (rc : Nat) : Nat := (rc + s.cc.cdiv - 1) / s.cc.cdiv
  match s.place mpa with
  | .onDie t c 0 _ =>
    (if t = s.cur.tile ∧ s.dieCore t c = s.cur.core then 4 else 1) + ecs (2 * s.bankWait (askerM s.cur.tile s.cur.core) mpa)
  | .onDie _ _ 1 _ => Nat.max 1 (ecs ((bankBoundary s mpa).getD s.now - s.now))
  | _ => 1

/-- A load from a bank, delivered n engine cycles after its issue, waits for the step boundary whatever the divisor (R95, R228). -/
def bankFloor (s : State) (mpa n : Nat) : State :=
  match bankBoundary s mpa with
  | some b => s.modCc fun x => x.putFloor .m s.now (s.deliverAt .m n) b
  | none => s

/-- An entry at the tail of lq, filled or reserved, with what its push follows (R75, R171). -/
def Core.lqPut (x : Core) (ctr : Nat) (e : Option (Nat × Row)) : Core :=
  { x with lq := x.lq ++ [e], lk := x.lk ++ [x.knows ctr .m] }

/-- A LOAD (R320, R318, R183): its translation and checks, the value at once from its tile or from the ORB, or the
reply awaited; k takes the engine cycles to its delivery and the row, or the word in lane 0. `lq` says that an entry
of lq waits for it. -/
def mload (isRow lq : Bool) (ea : Nat) (k : Nat → Row → State → Eff) (s : State) : Eff :=
  let t := s.cur.tile
  match s.ccl.req with
  | some _ => withAns s fun a s => k 0 a.row s
  | none =>
    if lq && decide (16 ≤ s.cc.lq.length) then .stall 5
    else
      let va := alignAddr isRow ea
      let vaB : Va := BitVec.ofNat 60 va
      match s.access t s.cur.core va true false with
      | .bad code extra addr => .fault (s.trFault code extra addr)
      | .loc mpa =>
        let n := if isRow then 256 else 4
        if pendBlocks s.cc none 0 mpa then .stall 0
        else if s.ct.behindMark mpa then .stall 7
        else
          match s.badIn mpa n with
          | some g => .fault (s.badData g)
          | none =>
            k (loadEc s mpa) (if isRow then s.readRow mpa else (s.readWord mpa).setWidth 2048)
              (askRows (askerM t s.cur.core) [mpa] (countRead mpa n (bankFloor s mpa (loadEc s mpa))))
      | .win w mpa0 =>
        match winCheck s t w mpa0 vaB true true false (s.mNow · ·) with
        | .error r => .fault r
        | .ok mpa =>
          let hd := ((s.tile t).wins.get w {}).handle.toNat
          if pendBlocks s.cc (some w) hd mpa then .stall 0
          else
            let lanes := if isRow then BitVec.allOnes 64 else laneBit mpa
            match orbLoad (s.circ t hd) s.cur.core mpa lanes with
            | .stall => .stall 0
            | .forward r => k 1 (if isRow then r else (lane r (mpa / 4 % 64)).setWidth 2048) s
            | .send =>
              let s := sendRequest w mpa vaB 3 [if isRow then 1 else 0] s
              let s := if lq then s.modCc fun x => x.lqPut s.ct.jobCtr none else s
              waitFor (.reply hd ea) s

/-- A row delivered into lq n engine cycles after issue: into the entry reserved for it, else as a new one (R75, R318). -/
def fillLq (n : Nat) (r : Row) (s : State) : State :=
  let t := ecAfter s.now s.cc.cdiv n
  s.modCc fun x =>
    match x.lq.findIdx? Option.isNone with
    | some i => { x with lq := x.lq.set i (some (t, r)) }
    | none => x.lqPut s.ct.jobCtr (some (t, r))

/-- The registers of the base pair, which a memory word reads (R316, R318). -/
def baseRegs (f : MemF) : List Nat := [2 * f.bp.toNat, 2 * f.bp.toNat + 1]

/-- The register that a memory word writes, whose earlier write it waits for (R318). -/
def dstRegs (f : MemF) : List Nat := if f.w && decide (f.d.toNat < 64) then [f.d.toNat] else []

/-- Whether a load's ORD is one that R319 allows: relaxed or acquire. -/
def loadOrd (f : MemF) : Bool := decide (f.ord.toNat ≤ 1)

/-- Whether a store's ORD is one that R319 allows: relaxed or release. -/
def storeOrd (f : MemF) : Bool := f.ord == 0 || f.ord == 2

/-- VLD (R319, R320). -/
def execVld (h : Hdr) (f : MemF) (s : State) : Host.Outcome State Fault Refusal :=
  word .m h (fun s =>
    if !(f.sz == 1 && loadOrd f && (f.d == 0x44 || f.d == 0x7F)) then s.reserved
    else
      reads .m (if s.ccl.req.isSome then [] else baseRegs f) [] (fun s =>
        mload true (f.d == 0x44) (s.ea f).toNat (fun n r s =>
          .done ((if f.d = 0x44 then fillLq n r s else s).acquired f)) s) s) s

/-- SLD (R319, R320): an lq entry takes the word in all lanes; else D takes it, and it is pushed. -/
def execSld (h : Hdr) (f : MemF) (s : State) : Host.Outcome State Fault Refusal :=
  word .m h (fun s =>
    if !(f.sz == 0 && loadOrd f && (f.d == 0x44 || dstOk .m f.d)) then s.reserved
    else
      reads .m (if s.ccl.req.isSome then [] else baseRegs f) (if s.ccl.req.isSome then [] else dstRegs f) (fun s =>
        mload false (f.d == 0x44) (s.ea f).toNat (fun n r s =>
          .done ((if f.d = 0x44 then fillLq n (splat (lane r 0)) s else putRes .m n f.d f.w (lane r 0) s).acquired f)) s) s) s

/-- A store, or a local release atomic, behind the pending ones of the core, and those that can be performed, performed
(R75). -/
def queueStore (p : PendStore) (s : State) : State :=
  advancePend s.cur.tile s.cur.core (s.modCc fun x => { x with pend := x.pend ++ [p], mcount := x.mcount + 1 })

/-- A STORE queued, and performed at once when it can be (R75, R321). -/
def mstore (p : PendStore) (s : State) : Eff :=
  if 16 ≤ s.cc.pend.length then .stall 6 else .done (queueStore p s)

/-- A word that claims the oldest entry of sq faults where that was found uncorrectable (R441, R443). -/
def sqGood (k : State → Eff) (s : State) : Eff := if !s.cc.sq.isEmpty && placeBad s.cc.badSq 1 then s.badCell none else k s

/-- The oldest unclaimed entry of sq claimed (R75). -/
def claimSq (s : State) : Option (Nat × Row) × State :=
  match s.cc.sq with
  | [] => (none, s)
  | r :: l =>
    (some r, s.modCc fun x =>
      { x.modClu .m (fun y => y.learn (x.sk.head?.getD {})) with sq := l, sk := x.sk.drop 1, badSq := x.badSq.map (· - 1) })

/-- A store's place and checks, then the store with its data (R321, R322): the row of sq where `fromSq`, else v in
the word's lane. -/
def storeTo (isRow fromSq : Bool) (f : MemF) (ea : Nat) (v : Word) (s0 s : State) : Eff :=
  let t := s.cur.tile
  let va := alignAddr isRow ea
  let vaB : Va := BitVec.ofNat 60 va
  let put (win : Option Nat) (hd : Nat) (mpa : Nat) : Eff :=
    if 16 ≤ s.cc.pend.length then .stall 6
    else
      let (row, s) := if fromSq then claimSq s else (some (0, v.setWidth 2048 <<< (32 * (va / 4 % 64))), s)
      mstore {
        va := vaB, mpa := mpa, win := win, lane := if isRow then none else some (va / 4 % 64), data := row.map Prod.snd,
        ready := (row.map Prod.fst).getD 0, g := f.g, rel := f.ord == 2, sc := f.sc, pc := s.ccl.pc, group := none, handle := hd,
        handlerWork := s.cc.trap, sq := fromSq, ord := s.cc.mcount } s
  match s.access t s.cur.core va false true with
  | .bad code extra addr => .fault (s0.trFault code extra addr)
  | .loc mpa =>
    if s.ct.behindMark mpa then .stall 7
    else
      match s.badPart mpa (if isRow then 256 else 4) with
      | some g => .fault (s0.badData g)
      | none => put none 0 mpa
  | .win w mpa0 =>
    match winCheck s t w mpa0 vaB false false true (s0.mNow · ·) with
    | .error r => .fault r
    | .ok mpa => put (some w) ((s.tile t).wins.get w {}).handle.toNat mpa

/-- VST (R319, R321). -/
def execVst (h : Hdr) (f : MemF) (s : State) : Host.Outcome State Fault Refusal :=
  word .m h (fun s =>
    if !(f.sz == 1 && storeOrd f && f.d == 0x44) then s.reserved
    else reads .m (baseRegs f) [] (sqGood fun s => storeTo true true f (s.ea f).toNat 0 s s) s) s

/-- SST (R319, R321). -/
def execSst (h : Hdr) (f : MemF) (s : State) : Host.Outcome State Fault Refusal :=
  word .m h (fun s0 =>
    let ea := (s0.ea f).toNat
    if f.d = 0x44 then
      if f.sz == 0 && storeOrd f then reads .m (baseRegs f) [] (sqGood fun s => storeTo false true f ea 0 s s) s0
      else s0.reserved
    else
      srcs .m (f.sz == 0 && storeOrd f) [f.d] (fun l s =>
        reads .m (baseRegs f) [] (storeTo false false f ea (arg l 0) s0) s) s0) s

/-- VSTM (R323): a row to every member of the group that X names. -/
def execVstm (h : Hdr) (f : MemF) (s : State) : Host.Outcome State Fault Refusal :=
  word .m h (fun s0 =>
    srcs .m (f.sz == 1 && storeOrd f && f.d == 0x44) [f.x] (fun l s => reads .m (baseRegs f) [] (sqGood fun s =>
      let gid := (arg l 0).toNat % 256
      let g := s.ct.groups.get gid {}
      let c := s.circ s.cur.tile g.handle.toNat
      if !g.v then s0.flt .groupInvalid (BitVec.ofNat 64 gid)
      else if !c.usable then
        .fault { s0.recNow .circuitNotLive (BitVec.ofNat 64 c.state.code) with
          addr := some (false, (s0.ea f)), fab := fabOf g.handle.toNat }
      else if 16 ≤ s.cc.pend.length then .stall 6
      else
        let off := (s0.ea f).toNat % 2 ^ 48 / 256 * 256
        let (row, s) := claimSq s
        mstore {
          va := s0.ea f, mpa := off, win := none, lane := none, data := row.map Prod.snd,
          ready := (row.map Prod.fst).getD 0, g := f.g, rel := f.ord == 2,
          sc := f.sc, pc := s.ccl.pc, group := some (gid, g.gen), handle := g.handle.toNat,
          handlerWork := s.cc.trap, sq := true, ord := s.cc.mcount } s) s) s0) s

/-! ## Atomics -/

/-- The new value of an atomic (R324); the store is left out for a failed compare. -/
def amoNew (op : Nat) (old x prev : Word) : Option Word :=
  match op with
  | 0x18 => some (old + x)
  | 0x19 => some (if x.slt old then x else old)
  | 0x1A => some (if old.slt x then x else old)
  | 0x1B => some (old &&& x)
  | 0x1C => some (old ||| x)
  | 0x1D => some (old ^^^ x)
  | 0x1E => some x
  | 0x1F => if old = prev then some x else none
  | _ => some (BitVec.ofNat 32 (fp32.addB 0 false old.toNat x.toNat).1)

/-- An atomic performed on the word at an MPA: the old value (R324, R325). -/
def performAtomic (op : Nat) (mpa : Nat) (x prev : Word) (s : State) : Word × State :=
  let old := s.readWord mpa
  let s := countRead mpa 4 s
  match amoNew op old x prev with
  | some v => (old, performWord mpa v s)
  | none => (old, s)

/-- Whether an atomic is a release, which waits for the accesses before it (R172, R184, R321). -/
def amoRelease (f : MemF) : Bool := decide (2 ≤ f.ord.toNat)

/-- Whether the accesses before a release atomic through a window, with a place below n, are performed (R184). -/
def amoReady (s : State) (f : MemF) (n w : Nat) : Bool :=
  !amoRelease f ||
    s.earlierDone s.cur.tile s.cur.core n f.sc.toNat (some (s.ct.wins.get w {}).handle.toNat)

/-- A local atomic queued (R318, R325): its push keeps its place, its register is owed, and it goes to the memory port at
once, or, as a release, behind the stores and accesses before it. -/
def amoLocal (op : BitVec 7) (f : MemF) (va : Va) (mpa : Nat) (x prev : Word) (s : State) : State :=
  let d := if f.w && decide (f.d.toNat < 64) then some f.d.toNat else none
  let a : Amo := { op := op, x := x, prev := prev, d := d, mark := s.cc.m.pushes + 1, acq := f.ord.getLsbD 0 }
  let s := s.modCc fun y => y.modClu .m fun z =>
    { z.push 0 with busy := (d.map fun n => z.busy.set n unknown).getD z.busy }
  if amoRelease f then
    queueStore {
      va := va, mpa := mpa, win := none, lane := some (mpa / 4 % 64), data := some 0, g := false, rel := true, sc := f.sc,
      pc := s.ccl.pc, group := none, handle := 0, handlerWork := s.cc.trap, amo := some a, ord := s.cc.mcount } s
  else portAtomic s.cur.tile s.cur.core mpa a s.nextOrd

/-- An atomic sent through its window (R325). -/
def amoSend (op : BitVec 7) (w mpa : Nat) (va : Va) (x prev : Word) (s : State) : State :=
  sendRequest w mpa va 2 [op.setWidth 32, x, prev] s

/-- The place of an atomic: its translation, and the places that take none (R325); a window is checked at issue. -/
def amoPlace (op : Nat) (va : Nat) (s : State) : Except FaultRec Tr :=
  let vaB : Va := BitVec.ofNat 60 va
  let place (r : FaultRec) : FaultRec := { r with addr := some (false, vaB) }
  match s.translate s.cur.tile s.cur.core va true true with
  | .bad code extra addr => .error (s.trFault code extra addr)
  | .loc mpa =>
    match s.place mpa with
    | .host => .error (place (s.recNow .atomicPlace (BitVec.ofNat 64 op)))
    | .onDie _ _ kind _ =>
      if kind ≠ 0 then .error (place (s.recNow .atomicPlace (BitVec.ofNat 64 op))) else .ok (.loc mpa)
    | .hole => .error (place (s.recNow .mpaHole (BitVec.ofNat 64 mpa)))
    | .hbm _ _ => .ok (.loc mpa)
  | .win w mpa0 =>
    if op = 0x20 then .error (place (s.recNow .atomicPlace (BitVec.ofNat 64 op)))
    else
      match winCheck s s.cur.tile w mpa0 vaB true true true (s.mNow · ·) with
      | .error r => .error r
      | .ok p =>
        if (0x800000000000 ≤ p ∧ p < 0x900000000000 ∧ 1 ≤ p / 2 ^ 32 % 8 ∧ p / 2 ^ 32 % 8 ≤ 5) ∨ (0xC00000000000 ≤ p ∧ p < 0xD00000000000) then
          .error (place (s.recNow .atomicPlace (BitVec.ofNat 64 op)))
        else .ok (.win w p)

/-- The operand X of an atomic: AMOFADD reads it as FP32 (R237, R324). -/
def amoX (op : Nat) (f : MemF) (w : Word) : Word := if op = 0x20 ∧ 0x60 ≤ f.x.toNat then inlineFp32 f.x else w

/-- AN ATOMIC (R324, R325): X and, for AMOCAS, D read at issue. A local one is queued and M goes on; one through a window
holds M until its old value is back, and, as a release, waits before it is sent (R184, R318). -/
def amoWord (op : Nat) (h : Hdr) (f : MemF) (s : State) : Host.Outcome State Fault Refusal :=
  let dOk := if op = 0x1F then decide (f.d.toNat < 64) else dstOk .m f.d
  word .m h (fun s0 =>
    match s0.ccl.req with
    | none =>
      let va := (s0.ea f).toNat / 4 * 4
      let vaB : Va := BitVec.ofNat 60 va
      let prev := s0.cc.reg .m f.d.toNat
      let rs := baseRegs f ++ if op = 0x1F then [f.d.toNat] else []
      srcs .m (f.sz == 0 && dOk) [f.x] (fun l s => reads .m rs (dstRegs f) (fun s =>
        let x := amoX op f (arg l 0)
        match amoPlace op va s0 with
        | .error r => .fault r
        | .ok (.loc mpa) =>
          if pendBlocks s.cc none 0 mpa || s.cc.amoWaits then .stall 0
          else if s.ct.behindMark mpa then .stall 7
          else
            match s.badIn mpa 4 with
            | some g => .fault (s0.badData g)
            | none => .done (amoLocal (BitVec.ofNat 7 op) f vaB mpa x prev s)
        | .ok (.win w mpa) =>
          let hd := (s.ct.wins.get w {}).handle.toNat
          if pendBlocks s.cc (some w) hd mpa || s.cc.amoWaits || !s.winRoom s.cur.tile w then .stall 0
          else if amoReady s f s.cc.mcount w then
            waitFor (.reply hd va) (amoSend (BitVec.ofNat 7 op) w mpa vaB x prev s)
          else waitFor (.atomic w mpa vaB x prev) s
        | .ok (.bad _ _ _) => .stall 0) s) s0
    | some (.atomic w mpa va x prev) =>
      if amoReady s0 f s0.cc.mcount w && s0.winRoom s0.cur.tile w then
        waitFor (.reply (s0.ct.wins.get w {}).handle.toNat va.toNat) (amoSend (BitVec.ofNat 7 op) w mpa va x prev s0)
      else .wait s0
    | some _ => withAns s0 fun a s => .done ((putRes .m 0 f.d f.w a.val s).acquired f)) s

/-- AMOADD (R324). -/
def execAmoadd (h : Hdr) (f : MemF) (s : State) : Host.Outcome State Fault Refusal := amoWord 0x18 h f s
/-- AMOMIN (R324). -/
def execAmomin (h : Hdr) (f : MemF) (s : State) : Host.Outcome State Fault Refusal := amoWord 0x19 h f s
/-- AMOMAX (R324). -/
def execAmomax (h : Hdr) (f : MemF) (s : State) : Host.Outcome State Fault Refusal := amoWord 0x1A h f s
/-- AMOAND (R324). -/
def execAmoand (h : Hdr) (f : MemF) (s : State) : Host.Outcome State Fault Refusal := amoWord 0x1B h f s
/-- AMOOR (R324). -/
def execAmoor (h : Hdr) (f : MemF) (s : State) : Host.Outcome State Fault Refusal := amoWord 0x1C h f s
/-- AMOXOR (R324). -/
def execAmoxor (h : Hdr) (f : MemF) (s : State) : Host.Outcome State Fault Refusal := amoWord 0x1D h f s
/-- AMOSWP (R324). -/
def execAmoswp (h : Hdr) (f : MemF) (s : State) : Host.Outcome State Fault Refusal := amoWord 0x1E h f s
/-- AMOCAS (R324). -/
def execAmocas (h : Hdr) (f : MemF) (s : State) : Host.Outcome State Fault Refusal := amoWord 0x1F h f s
/-- AMOFADD (R324). -/
def execAmofadd (h : Hdr) (f : MemF) (s : State) : Host.Outcome State Fault Refusal := amoWord 0x20 h f s

/-- The old value of a local atomic delivered: to its register, and to the latch its push belongs to (R318, R324). -/
def amoDeliver (a : Amo) (old : Word) (now : Nat) (x : Core) : Core :=
  let x := match a.d with
    | some n => (x.setReg .m n old).modClu .m fun y => { y with busy := y.busy.set n now }
    | none => x
  { x.modClu .m (fun y => y.fillPush a.mark old) with
    quietAt := Nat.max x.quietAt (nextEc now x.cdiv), learnt := if a.acq then now else x.learnt }

/-- THE MEMORY PORT APPLIES (R181, R325): the atomics that stand in the tile's queue, in order, with their old values
delivered; then the stores of this core that are ready (R75). -/
def execMemoryPortApply (s : State) : Host.Outcome State Fault Refusal :=
  let t := s.cur.tile
  let q := s.ct.portq
  let s := s.modCt fun x => { x with portq := [] }
  let s := q.foldl (fun s r =>
    let (old, s) := performAtomic r.amo.op.toNat r.mpa r.amo.x r.amo.prev (askRows (askerM t r.core) [r.mpa] s)
    kickLeave t r.core (s.modCore t r.core fun x => amoDeliver r.amo old s.now x)) s
  .next (advancePend t s.cur.core s)

/-! ## Fences and watermarks -/

/-- A contribution chunk in staging, by its slot, number and round. -/
def Staged.key (c : Staged) : Nat × Nat × Word := (c.slot, c.cseq, c.round)

/-- The contribution chunks that have reached the tile's memory port and are not yet applied: those accepted, and those held
for the next round (R175, R198). -/
def Tile.atPort (x : Tile) : List (Nat × Nat × Word) := x.staged.map Staged.key

/-- The wait of a fence at a scope for its from-class (R174, R175): 0 CL, 1 MX, 2 BT, 3 RX, 4 HS; for the accesses and jobs
that precede it, and for the chunks that stood at the port when it issued. An access of class HS is performed as it
arrives. -/
def fenceDone (s : State) (a : Know) (rx : List (Nat × Nat × Word)) (from' sc : Nat) : Bool :=
  let x := s.cc
  match from' with
  | 0 => s.earlierDone s.cur.tile s.cur.core a.m sc none
  | 1 => (x.mxq ++ x.hxq).all fun j => decide (a.j ≤ j.id)
  | 2 => (x.chq.rows.all fun q => q.2.all fun j => decide (a.j ≤ j.id)) && x.sendq.all fun j => decide (a.j ≤ j.id)
  | 3 => rx.all fun c => !s.ct.atPort.contains c
  | _ => true

/-- A FENCE (R326, R327): it waits after its issue, and in a bundle holds the other clusters. -/
def fenceWord (h : Hdr) (enc : Bool) (from' sc : Nat) (s : State) : Host.Outcome State Fault Refusal :=
  word .m h (fun s =>
    match s.ccl.req with
    | none =>
      if !enc then s.reserved
      else if fenceDone s (s.cc.knows s.ct.jobCtr .m) s.ct.atPort from' sc then .done s
      else waitFor (.fence s.ct.atPort) s
    | some (.fence rx) => if fenceDone s s.ccl.since rx from' sc then .done s else .wait s
    | some _ => .wait s) s

/-- FENCE (R174, R326). -/
def execFence (h : Hdr) (f : MemF) (s : State) : Host.Outcome State Fault Refusal :=
  fenceWord h true 0 f.sc.toNat s

/-- XFENCE (R175, R327). -/
def execXfence (h : Hdr) (f : MemF) (s : State) : Host.Outcome State Fault Refusal :=
  let a := f.x.toNat % 8
  let b := f.x.toNat / 8 % 8
  fenceWord h (decide (a ≤ 4) && decide (b ≤ 2) && decide (f.x.toNat < 64)) a f.sc.toNat s

/-- Whether the wait of WMWAIT has ended (R117, R328). -/
def markDone (s : State) (f : MemF) (mpa : Nat) : Bool :=
  if f.x.getLsbD 3 then
    match (s.ct.chans.get (f.x.toNat % 8) {}).wm with
    | some (w, hi, _) => decide (hi ≤ w)
    | none => true
  else !s.ct.behindMark mpa

/-- WMWAIT (R328). -/
def execWmwait (h : Hdr) (f : MemF) (s : State) : Host.Outcome State Fault Refusal :=
  word .m h (fun s =>
    let go (mpa : Option Nat) : Eff :=
      if markDone s f (mpa.getD 0) then .done s
      else if s.ccl.req.isSome then .wait s else waitFor (.watermark mpa) s
    match s.ccl.req with
    | some (.watermark mpa) => go mpa
    | _ =>
      if f.x.getLsbD 3 then go none
      else reads .m (baseRegs f) [] (fun s =>
      match s.access s.cur.tile s.cur.core ((s.ea f).toNat / 256 * 256) true false with
      | .bad code extra addr => .fault (s.trFault code extra addr)
      | .loc mpa => go (some mpa)
      | .win w mpa0 =>
        match winCheck s s.cur.tile w mpa0 (BitVec.ofNat 60 ((s.ea f).toNat / 256 * 256)) true true false
            (s.mNow · ·) with
        | .error r => .fault r
        | .ok _ => .done s) s) s

/-! ## Windows and regions -/

/-- A window from its four 64-bit words (R106); OUT keeps the window's own count (R329). -/
def winOf (l : List DWord) (old : Win) : Win :=
  let d (i : Nat) : DWord := l.getD i 0
  { old with
    v := (d 0).getLsbD 0, lbase := (d 0).extractLsb' 21 39, tmod := (d 1).extractLsb' 54 10,
    ttile := (d 1).extractLsb' 49 5, tbase := (d 1).extractLsb' 21 27, size := (d 2).extractLsb' 48 16,
    handle := (d 2).extractLsb' 42 6, rv := (d 2).getLsbD 41, rhandle := (d 2).extractLsb' 35 6,
    allow := (d 2).extractLsb' 16 16 }

/-- The four 64-bit words of a window (R106, R330). -/
def Win.words (w : Win) : List DWord :=
  [ (0 : BitVec 4) ++ w.lbase ++ (0 : BitVec 20) ++ BitVec.ofBool w.v,
    w.tmod ++ w.ttile ++ (0 : BitVec 1) ++ w.tbase ++ (0 : BitVec 21),
    w.size ++ w.handle ++ BitVec.ofBool w.rv ++ w.rhandle ++ (0 : BitVec 3) ++ w.allow ++ (0 : BitVec 16),
    BitVec.ofNat 64 (w.out % 2 ^ 16) ]

/-- Whether the words of a window break R329: a reserved field, SIZE or ALLOW of 0 in a valid one. -/
def winBad (l : List DWord) : Bool :=
  let d (i : Nat) : DWord := l.getD i 0
  let w := winOf l {}
  (d 0).extractLsb' 60 4 != 0 || (d 0).extractLsb' 1 20 != 0 || (d 1).getLsbD 48 || (d 1).extractLsb' 0 21 != 0 ||
    (d 2).extractLsb' 32 3 != 0 || (d 2).extractLsb' 0 16 != 0 || (d 3).extractLsb' 16 48 != 0 ||
    (w.v && (w.size == 0 || w.allow == 0))

/-- An inbound entry from its two 64-bit words (R109). -/
def inbOf (l : List DWord) : Inb :=
  let d (i : Nat) : DWord := l.getD i 0
  {
    v := (d 0).getLsbD 63, grp := (d 0).getLsbD 62, wr := (d 0).getLsbD 61, rd := (d 0).getLsbD 60,
    smod := (d 0).extractLsb' 48 10, stile := (d 0).extractLsb' 43 5, gid := (d 0).extractLsb' 35 8,
    size := (d 1).extractLsb' 48 16, mbase := (d 1).extractLsb' 21 27 }

/-- The two 64-bit words of an inbound entry (R109). -/
def Inb.words (x : Inb) : List DWord :=
  [ BitVec.ofBool x.v ++ BitVec.ofBool x.grp ++ BitVec.ofBool x.wr ++ BitVec.ofBool x.rd ++ (0 : BitVec 2) ++ x.smod ++
      x.stile ++ x.gid ++ (0 : BitVec 35),
    x.size ++ x.mbase ++ (0 : BitVec 21) ]

/-- Whether the words of an inbound entry break R329. -/
def inbBad (l : List DWord) : Bool :=
  let d (i : Nat) : DWord := l.getD i 0
  (d 0).extractLsb' 58 2 != 0 || (d 0).extractLsb' 0 35 != 0 || (d 1).extractLsb' 0 21 != 0 ||
    ((inbOf l).v && (inbOf l).size == 0)

/-- 64-bit word i of a row from byte off. -/
def rowDWord (r : Row) (off i : Nat) : DWord := r.extractLsb' (8 * (off + 8 * i)) 64

/-- WINSET (R108, R329): the descriptor is read as a VLD reads its row. -/
def execWinset (h : Hdr) (f : MemF) (s : State) : Host.Outcome State Fault Refusal :=
  word .m h (fun s0 =>
    let ea := match s0.ccl.req with
      | some (.reply _ a) => a
      | _ => (s0.ea f).toNat
    let inb := f.x.getLsbD 6
    if inb && f.x.getLsbD 5 then s0.reserved
    else
      reads .m (if s0.ccl.req.isSome then [] else baseRegs f) [] (fun _ => mload true false ea (fun _ r s =>
        if inb then
          let l := (List.range 2).map fun i => rowDWord r (ea % 256 / 16 * 16) i
          if inbBad l then s0.reserved
          else .done (s.modCt fun x => { x with inbs := x.inbs.set (f.x.toNat % 32) (inbOf l) })
        else
          let l := (List.range 4).map fun i => rowDWord r (ea % 256 / 32 * 32) i
          let n := f.x.toNat % 64
          let old := s.ct.wins.get n {}
          if winBad l then s0.reserved
          else if old.v && s.winOut s.cur.tile n != 0 then (if s0.ccl.req.isSome then .wait s0 else .stall 0)
          else .done (s.modCt fun x => { x with wins := x.wins.set n (winOf l old) })) s0) s0) s

/-- WINRD (R330): word k of a descriptor. -/
def execWinrd (h : Hdr) (f : MemF) (s : State) : Host.Outcome State Fault Refusal :=
  word .m h (fun s =>
    let inb := f.x.getLsbD 6
    let k := f.off.toNat
    let ok := dstOk .m f.d && (if inb then !f.x.getLsbD 5 && decide (k < 4) else decide (k < 8))
    if !ok then s.reserved
    else
      let l := if inb then (s.ct.inbs.get (f.x.toNat % 32) {}).words else (s.ct.wins.get (f.x.toNat % 64) {}).words
      let d := l.getD (k / 2) 0
      held .m (dstRegs f) (fun s => .done (putRes .m 1 f.d f.w (d.extractLsb' (32 * (k % 2)) 32) s)) s) s

/-- Whether a region descriptor breaks R331. -/
def rgnBad (v : DWord) : Bool :=
  let nrows := (v.extractLsb' 40 16).toNat
  v.extractLsb' 59 4 != 0 || v.extractLsb' 30 10 != 0 || v.extractLsb' 0 16 != 0 || (v.getLsbD 63 && nrows == 0) ||
    decide (16384 < (v.extractLsb' 16 14).toNat + nrows)

/-- RGNSET (R103, R331). -/
def execRgnset (h : Hdr) (f : RR) (s : State) : Host.Outcome State Fault Refusal :=
  word .m h (fun s =>
    if !pairOk f.a then s.reserved
    else
      let v := s.cc.pair f.a.toNat
      reads .m [f.a.toNat, f.a.toNat + 1] [] (fun s =>
        if rgnBad v then s.reserved
        else .done (s.modCc fun x => { x with rgn := x.rgn.set (f.f.toNat % 8) v })) s) s

end Sys2Proof.Machine
end

