-- ==== Sys2Proof/Machine/Circuit.lean ====
section
/-!
DEFINITION. Circuits and their paths: ports and fibre ports, the choice of a path, settling, failure and rerouting
(spec/06 R144 to R151, R159, R162, R163; spec/23 R457 to R465).
-/
namespace Sys2Proof.Machine

/-! ## Ports and paths -/

/-- A port of a tile. -/
def Tile.port (x : Tile) (p : Nat) : Port := x.ports.get p {}

/-- The state with f applied to a port. -/
def State.modPort (s : State) (t : TileId) (p : Nat) (f : Port → Port) : State :=
  s.modTile t fun x => { x with ports := x.ports.set p (f (x.port p)) }

/-- A fibre port (R164). -/
def State.fib (s : State) (f : Nat) : Fib := s.hub.fibs.get f {}

/-- The state with f applied to a fibre port. -/
def State.modFib (s : State) (n : Nat) (f : Fib → Fib) : State :=
  s.modHub fun h => { h with fibs := h.fibs.set n (f (h.fibs.get n {})) }

/-- Whether an end of a circuit is on this module. -/
def State.here (s : State) (e : End) : Bool := e.md == s.hub.modid

/-- The mesh ports that a circuit joins (R146, R162). -/
def State.joins (s : State) (t : TileId) (c : Circ) : List Nat :=
  Config.tilePort t.val c.port.toNat ::
    ((c.ends.filter s.here).map (fun e => Config.tilePort e.tile.toNat e.port.toNat) ++
      c.fibs.map fun f => Config.fibrePort f.val)

/-- The circuits that hold a path, with those whose path waits for its release (R147). -/
def State.pathed (s : State) : List (TileId × HandleId × Circ) :=
  (s.handles.filterMap fun p =>
    let c := s.circ p.1 p.2.val
    if c.pathed then some (p.1, p.2, c) else none) ++ s.hub.releasing

/-- Whether two circuits are the two directions of one port pair, or a circuit and the inbound-only half of its pair:
they share a path (R146, R162). -/
def State.samePair (s : State) (t : TileId) (c : Circ) (u : TileId) (d : Circ) : Bool :=
  !c.mcast && !d.mcast && c.ext == d.ext &&
    (if c.ext then t == u && c.port == d.port && c.ends == d.ends && c.inb != d.inb
      else c.ends == [{ md := s.hub.modid, tile := BitVec.ofNat 5 u.val, port := d.port }] &&
        d.ends == [{ md := s.hub.modid, tile := BitVec.ofNat 5 t.val, port := c.port }])

/-- The circuits with a path other than that of handle h of tile t. -/
def State.others (s : State) (t : TileId) (h : HandleId) : List (TileId × HandleId × Circ) :=
  s.pathed.filter fun p => !(p.1 == t && p.2.1 == h)

/-- The circuit whose path a circuit of handle h shares, if it has one. -/
def State.partner (s : State) (t : TileId) (h : HandleId) (c : Circ) : Option Circ :=
  (s.handles.findSome? fun p =>
    let d := s.circ p.1 p.2.val
    if d.pathed && !d.failed && !(p.1 == t && p.2 == h) && s.samePair t c p.1 d then some d else none)

/-- Whether a tile port of a circuit is joined to a path other than that of its pair (R150). -/
def State.portsBusy (s : State) (t : TileId) (h : HandleId) (c : Circ) : Bool :=
  let mine := s.joins t { c with fibs := [] }
  (s.pathed.any fun p =>
    !(p.1 == t && p.2.1 == h && (s.circ t h.val).pathed) && !s.samePair t c p.1 p.2.2 &&
      (s.joins p.1 p.2.2).any fun x => mine.contains x)

/-- The entry of a fibre port in the active route table (R163). -/
def State.route (s : State) (f : Nat) : Word := if s.hub.activeB then s.hub.tblB.get f 0 else s.hub.tblA.get f 0

/-- Whether a route entry is valid and reaches an end (R163). -/
def routeTo (w : Word) (e : End) : Bool :=
  w.getLsbD 31 && w.extractLsb' 21 10 == e.md && w.extractLsb' 16 5 == e.tile && w.extractLsb' 12 4 == e.port

/-- Whether some entry of the active table reaches an end. -/
def State.routed (s : State) (e : End) : Bool := (List.range 64).any fun f => routeTo (s.route f) e

/-- The fibre port that a rig to an end across a fibre chooses (R163), or that of a stream (R57). -/
def State.pickFib (s : State) (t : TileId) (h : HandleId) (e : End) : Option FibreId :=
  (fins 64).find? fun f =>
    ((s.circ t h.val).via.isNone || (s.circ t h.val).via == some f) && routeTo (s.route f.val) e && (s.fib f.val).state == .fopen && !(s.fib f.val).draining &&
      !(s.others t h).any fun p => p.2.2.fibs.contains f

/-- The fibre ports of every end across a fibre, in the order of the ends. -/
def State.pickFibs (s : State) (t : TileId) (h : HandleId) : List End → Option (List FibreId)
  | [] => some []
  | e :: r =>
    if s.here e then s.pickFibs t h r
    else
      match s.pickFib t h e, s.pickFibs t h r with
      | some f, some l => some (f :: l)
      | _, _ => none

/-- Whether every element of a path is usable: its stage is in service, it works, and no other path holds it in another
setting (R26, R147, R461). -/
def State.elementsFree (s : State) (t : TileId) (h : HandleId) (p : List (Nat × Bool)) : Bool :=
  let held := (s.others t h).flatMap fun o => o.2.2.path
  p.all fun e =>
    s.hub.stageOk.getLsbD (e.1 / Config.elementsPerStage) && !s.hub.badEl.contains e.1 && held.all fun f => f.1 != e.1 || f.2 == e.2

/-- The mesh stages in service (R13, R26). -/
def State.stages (s : State) : BitVec 21 := s.hub.stageOk

/-- The path that a circuit takes now: that of its pair, or the first usable one of the preferred, primary and
alternate paths (R147); with its fibre ports, and the name of its times of flight where it shares a path. -/
def State.findPath (s : State) (t : TileId) (h : HandleId) (c : Circ) :
    Option (List FibreId × List (Nat × Bool) × Option Nat) :=
  let outPort := (s.tile t).port c.port.toNat |>.out
  let outEnd := c.ends.any fun e => s.here e && ((s.tile (fin 32 e.tile.toNat)).port e.port.toNat).out
  if outPort || outEnd || s.portsBusy t h c then none
  else
    match s.partner t h c with
    | some d => some (d.fibs, d.path, some d.flight)
    | none =>
      match s.pickFibs t h c.ends with
      | none => none
      | some fs =>
        let src := Config.tilePort t.val c.port.toNat
        let dsts := (c.ends.filter s.here).map (fun e => Config.tilePort e.tile.toNat e.port.toNat) ++
          fs.map fun f => Config.fibrePort f.val
        let prefs := c.pref :: [0, 1, 2].filter fun n => n != c.pref
        (prefs.find? fun n => s.elementsFree t h (Config.meshPath s.stages s.hub.badEl src dsts n)).map fun n =>
          (fs, Config.meshPath s.stages s.hub.badEl src dsts n, none)

/-- S of R149, in fabric steps. -/
def Circ.settleSteps (c : Circ) : Nat := if c.ext then 200 else if c.mcast then 15 else 10

/-- The lines that one side of a port has lost. -/
def Port.bad (y : Port) (rx : Bool) : List Nat := if rx then y.rxBad else y.txBad

/-- The data lines in service on one side of a port: L8 stands in for one that is lost (R37, R459). -/
def Port.count (y : Port) (rx : Bool) : Nat := Nat.min 8 (9 - (y.bad rx).length)

/-- Whether L8 of one side of a port is in use (R37, R459). -/
def Port.spared (y : Port) (rx : Bool) : Bool := (y.bad rx).any (· < 8) && !(y.bad rx).contains 8

/-- The lines that a circuit stripes over: the data lines in service both at its source port and at every end, and L8, where
it is in service at all of them and a data line is not: it takes that one's rank (R145, R459). -/
def State.striped (s : State) (t : TileId) (c : Circ) : List Nat :=
  let p := (s.tile t).port c.port.toNat
  let rxs := (c.ends.filter s.here).map fun e => ((s.tile (fin 32 e.tile.toNat)).port e.port.toNat).rxBad
  let bad := (if c.inb then p.rxBad else p.txBad) ++ if c.inb then [] else rxs.flatten
  let good := (List.range 9).filter fun l => c.far.contains l && !bad.contains l
  let data := good.filter (· < 8)
  if data.length < 8 then good else data

/-- The number of those lines (R145). -/
def State.lineCount (s : State) (t : TileId) (c : Circ) : Nat := (s.striped t c).length

/-- The lines in service at the ends of a circuit on other modules when its path is set: at least four, which are an open choice
(R26, R145, log 6). -/
def farLines (v : BitVec 64) : List Nat :=
  let l := (List.range 9).filter fun n => v.getLsbD n
  if l.length < 4 then List.range 9 else l

/-- A place among the rigs that wait, in the order of their first try (R147). -/
def State.stamp (s : State) : Nat × State := (s.hub.order + 1, s.modHub fun h => { h with order := h.order + 1 })

/-- A circuit tried: with a usable path it settles, else it waits for a retry (R147, R149, R462). -/
def tryCirc (t : TileId) (h : HandleId) (s : State) : State :=
  let c := s.circ t h.val
  match s.findPath t h c with
  | some (fs, p, flight) =>
    let at' := s.now + 32 * c.settleSteps
    let (n, s) := match flight with
      | some n => (n, s)
      | none => (s.freeCtr, { s with freeCtr := s.freeCtr + 1 })
    let (far, s) := if c.ends.all s.here then (List.range 9, s) else (farLines s.fresh.1, s.fresh.2)
    let c := { c with
      pathed := true, path := p, fibs := fs, settleAt := at', state := if c.rerr then c.state else .settling
      flight := n, far := far, lineTo := 0 }
    (s.modCirc t h.val fun _ => { c with lines := s.lineCount t c }).dueH at' t h.val .settlingEnd
  | none =>
    let (n, s) := if c.tryAt = 0 then s.stamp else (c.tryAt, s)
    let s := s.modCirc t h.val fun x =>
      { x with tryAt := n, state := if x.rerr then x.state else .rigging }
    s.dueN (stepAfter s.now) 0 .rigRetry

/-- A rig that has been accepted (R149): the handle enters SETTLING or RIGGING in this step. -/
def startRig (t : TileId) (h : HandleId) (c : Circ) (s : State) : State :=
  let s := s.modCirc t h.val fun _ => { c with rigAt := s.now }
  let s := tryCirc t h s
  if (s.circ t h.val).state = .rigging then s.dueH (s.now + 32000) t h.val .pathBlocked else s

/-! ## Strings, light and pauses -/

/-- The strings of a circuit's ends on this module (R457). -/
def State.circStrings (s : State) (t : TileId) (c : Circ) : List StringId :=
  stringOf t :: (c.ends.filter s.here).map fun e => stringOf (fin 32 e.tile.toNat)

/-- Whether a lamp failure pauses a circuit (R457). -/
def State.paused (s : State) (t : TileId) (c : Circ) : Bool :=
  (s.circStrings t c).any fun n => (s.str n).pausedAt.isSome

/-- Whether a circuit carries messages and control flits now. -/
def State.carries (s : State) (t : TileId) (c : Circ) : Bool :=
  c.pathed && (c.state == .live || c.state == .derigging) && !c.rerr && !c.failed && !s.paused t c

/-- The mesh port of an end of a circuit: that of its tile, or the fibre port towards an end on another module. -/
def State.endPort (s : State) (c : Circ) (j : Nat) : Nat :=
  match c.ends[j]? with
  | some e =>
    if s.here e then Config.tilePort e.tile.toNat e.port.toNat
    else Config.fibrePort ((c.fibs[((c.ends.take j).filter fun d => !s.here d).length]?.map (·.val)).getD 0)
  | none => 0

/-- The time of flight from the source of a circuit to its end j, and back (R504). -/
def State.flightTo (s : State) (t : TileId) (c : Circ) (j : Nat) : Nat :=
  Config.flight c.flight (Config.tilePort t.val c.port.toNat) (s.endPort c j)

/-- The time of flight from end j of a circuit back to its source (R504). -/
def State.flightBack (s : State) (t : TileId) (c : Circ) (j : Nat) : Nat :=
  Config.flight c.flight (s.endPort c j) (Config.tilePort t.val c.port.toNat)

/-- Whether one of the lines l of a side of a port has lost lock. -/
def Port.garbled (y : Port) (rx : Bool) (l : List Nat) : Bool := y.failing.any fun f => f.1 == rx && l.contains f.2

/-- Whether a message sent on a circuit now crosses a line that has lost lock, at its source port or at an end, and whose
striping has not changed yet (R459). -/
def State.garbles (s : State) (t : TileId) (c : Circ) : Bool :=
  let l := s.striped t c
  ((s.tile t).port c.port.toNat).garbled false l ||
    (c.ends.filter s.here).any fun e => ((s.tile (fin 32 e.tile.toNat)).port e.port.toNat).garbled true l

/-! ## Going LIVE -/

/-- The sources of the homes of a circuit on this module, with their tiles (R159). -/
def State.leafSources (s : State) (t : TileId) (h : HandleId) (c : Circ) : List (TileId × Source) :=
  if c.inb then []
  else
    (List.range c.ends.length).filterMap fun i =>
      match c.ends[i]? with
      | some e =>
        if s.here e then
          some (fin 32 e.tile.toNat,
            { md := s.hub.modid, tile := t, handle := h, leaf := if c.mcast then some (fin 16 i) else none })
        else none
      | none => none

/-- A home's record of a circuit. -/
def Tile.home? (x : Tile) (src : Source) : Option Home := x.homes.find? fun y => y.src == src

/-- The state with f applied to a home. -/
def State.modHome (s : State) (t : TileId) (src : Source) (f : Home → Home) : State :=
  s.modTile t fun x => { x with homes := x.homes.map fun y => if y.src == src then f y else y }

/-- The next control slot of a point-to-point home, at or after now (R157). -/
def Home.slotAt (y : Home) (now : Nat) : Nat := y.liveAt + alignUp (now - y.liveAt) 15

/-- The control slots of a home count from now on (R157, R160, R463): a new home at a first LIVE, one that first sends
its keepalive at a later one. That the slots of a point-to-point circuit, and its 64-slot keepalives, count from the rc at
which it becomes LIVE is the model's choice (log 46): the spec times only the frames of a tree (R160). -/
def startHome (first : Bool) (s : State) (p : TileId × Source) : State :=
  let (t, src) := p
  let s := if first then
      s.modTile t fun x => { x with homes := x.homes.filter (fun y => y.src != src) ++ [{ src := src, liveAt := s.now }] }
    else s.modHome t src fun y => { y with liveAt := s.now, keep := true }
  match src.leaf with
  | some j => s.dueT (s.now + 15 * j.val) t (.leafSlot src)
  | none =>
    let s := s.dueT (if first then s.now + 960 else s.now) t (.keepaliveSend src)
    if (((s.tile t).home? src).map (·.dirty)).getD false then s.dueT (s.now + 15) t (.controlSlot src) else s

/-- The resend timer of a circuit started afresh (R446). -/
def startTimer (t : TileId) (h : Nat) (s : State) : State :=
  (s.modCirc t h fun c => { c with timer := s.now }).dueH (s.now + 64000) t h .resendTimeout

/-- What follows a handle's becoming LIVE: the E clusters and jobs that wait look again by themselves; the sending unit
goes on. -/
def wakeCirc (t : TileId) (h : HandleId) (s : State) : State := s.dueH s.now t h.val .messageSend

/-- Whether a circuit of a tile ends at the tile that another module's source stands on: it shares the path of that source's
circuit (R162). -/
def Circ.meets (c : Circ) (src : Source) : Bool := c.ends.any fun e => e.md == src.md && e.tile == BitVec.ofNat 5 src.tile.val

/-- The homes of a tile whose circuits come from other modules on the path of a circuit (R162, R463). -/
def State.farHomes (s : State) (t : TileId) (c : Circ) : List (TileId × Source) :=
  ((s.tile t).homes.filter fun y => y.src.md != s.hub.modid && c.meets y.src).map fun y => (t, y.src)

/-- A circuit whose homes report their counts before it goes on (R463); so do those of the circuits that come to its tile from
another module. -/
def resyncCirc (t : TileId) (h : HandleId) (s : State) : State :=
  let c := s.circ t h.val
  let s := s.modCirc t h.val fun x =>
    { x with
      resync := if x.inb then 0 else x.leafMask, sent := x.sent.map fun y => { y with resent := 0 }, lastCtl := s.now }
  startTimer t h.val ((s.leafSources t h c ++ s.farHomes t c).foldl (startHome false) s)

/-- A handle that becomes LIVE (R149, R157, R160, R162). -/
def goLive (t : TileId) (h : HandleId) (s : State) : State :=
  let c := s.circ t h.val
  let s := s.modCirc t h.val fun x => { x with state := .live, lastCtl := s.now }
  let s := (s.leafSources t h c).foldl (startHome true) s
  let s := if c.ext then s.dueH (s.now + 32000) t h.val .peerAbsentTimeout else s
  wakeCirc t h s

/-! ## Failure -/

/-- A handle that enters FAULTED (R462). -/
def faultCirc (t : TileId) (h : HandleId) (s : State) : State :=
  ((s.dropWire t h).modCirc t h.val fun x => { x with state := .faulted, rerr := false, failed := false }).hubLost t h

/-- Whether a failure makes a circuit reroute (R462). -/
def Circ.canFail (c : Circ) : Bool :=
  c.pathed && !c.failed && (c.state == .settling || c.state == .live || c.state == .derigging || c.state == .rerouting)

/-- A failure on the path or at an end port of a circuit, detected now: what is on its way is lost, and it reroutes in the
first step after (R462, R463). -/
def failCirc (t : TileId) (h : HandleId) (s : State) : State :=
  let c := s.circ t h.val
  if c.canFail then
    let n := stepAfter s.now
    (((s.dropWire t h).modCirc t h.val fun x => { x with failed := true }).dueH n t h.val .pathRelease).dueH n t h.val .reroute
  else s

/-- Every circuit that satisfies p fails; how many reroute (R456). -/
def failAll (p : TileId → Circ → Bool) (s : State) : Nat × State :=
  let l := s.handles.filter fun q => (s.circ q.1 q.2.val).canFail && p q.1 (s.circ q.1 q.2.val)
  (l.length, l.foldl (fun s q => failCirc q.1 q.2 s) s)

/-- The handle of a circuit joined to a port, for a record. -/
def State.portHandle (s : State) (t : TileId) (p : Nat) : BitVec 6 :=
  match s.pathed.find? fun o => (s.joins o.1 o.2.2).contains (Config.tilePort t.val p) with
  | some o => BitVec.ofNat 6 o.2.1.val
  | none => 0

/-- The record of a ring (R456). -/
def ringRec (s : State) (t : TileId) (p line : Nat) (rx : Bool) (h : BitVec 6) (lines : Nat) (sub : Option Nat) :
    FaultRec :=
  {
    code := .ringDetune, kind := .async, task := (s.tile t).taskid, tile := some (s.ltileOf t, t),
    fab := some { handle := h, port := BitVec.ofNat 4 p, line := BitVec.ofNat 4 line },
    extra := BitVec.ofNat 64 ((if rx then 1 else 0) + 2 * lines + (match sub with
      | some q => 32 + 64 * q
      | none => 0)) }

/-- The substitute of a failed port of a task, kept from the first circuit that needs it on (R460): the lowest-numbered
port of the tile that is in service, joined to no path and no substitute already. -/
def pickSub (t : TileId) (p : Nat) (slot : SlotId) (s : State) : Option Nat × State :=
  match (s.tile t).subst.find? fun x => x.1 == p && x.2.2 == slot with
  | some x => (some x.2.1, s)
  | none =>
    let free (q : Nat) : Bool :=
      !((s.tile t).port q).out && ((s.tile t).subst.all fun x => x.2.1 != q) &&
        s.pathed.all fun o => !(s.joins o.1 o.2.2).contains (Config.tilePort t.val q)
    match (List.range 16).find? free with
    | some q => (some q, s.modTile t fun x => { x with subst := x.subst ++ [(p, q, slot)] })
    | none => (none, s)

/-- A port of a rerouting circuit: its substitute, where the port is out of service, with the record that waited for
the choice. -/
def subPort (t : TileId) (p : Nat) (slot : SlotId) (h : HandleId) (s : State) : Nat × State :=
  let y := (s.tile t).port p
  if !y.out then (p, s)
  else
    let (q, s) := pickSub t p slot s
    let s := match y.lost with
      | some (rx, line, at', _) =>
        deliver { ringRec s t p line rx (BitVec.ofNat 6 h.val) 0 q with time := some at' }
          (s.modPort t p fun y => { y with lost := none })
      | none => s
    (q.getD p, s)

/-- Whether any circuit still sits on a draining fibre port: the command is looked at again (R164). -/
def kickDrain (fs : List FibreId) (s : State) : State :=
  fs.foldl (fun s f => if (s.fib f.val).draining then s.dueN (stepAt s.now) f.val .drainComplete else s) s

end Sys2Proof.Machine
end

