-- ==== Sys2Proof/Machine/Mgmt.lean ====
section
/-!
DEFINITION. The management command queue: its commands, their checks and their completion records (spec/02 R48 to
R52).
-/
namespace Sys2Proof.Machine

/-- 64-bit word i of a list of bytes, little-endian. -/
def dwordAt (l : List Byte) (i : Nat) : DWord := BitVec.ofNat 64 (leNat ((l.drop (8 * i)).take 8))

/-- Bytes of BAR0 from an offset on. -/
def Hub.bar0Bytes (h : Hub) (off n : Nat) : List Byte :=
  (List.range n).map fun i => byteOf (h.bar0.get ((off + i) / 4) 0) ((off + i) % 4)

/-- The first two words of the command that is being served, 0 where there is none. -/
def State.cmdWord (s : State) (i : Nat) : DWord :=
  match s.hub.cmd with
  | some (l, _) => dwordAt l i
  | none => 0

/-- Whether a command has an assigned OPC and no field set that its OPC does not use (R50). -/
def cmdValid (l : List Byte) : Bool :=
  let w (i : Nat) : DWord := dwordAt l i
  let opc := (w 0).extractLsb' 24 8
  let isOpen := opc == 1 && (w 0).extractLsb' 56 2 == 3
  let xp := opc == 1 || ((w 0).extractLsb' 56 8 == 0)
  let tbl := isOpen || (w 0).extractLsb' 55 1 == 0
  let arg : BitVec 16 := (w 0).extractLsb' 32 16
  let argOk := if opc == 4 then true else if opc == 5 then arg.extractLsb' 10 6 == 0 else arg == 0
  let entry := (w 1).extractLsb' 0 39 == 0 && (isOpen || w 1 == 0)
  let stream := opc == 2 || opc == 3 || (w 2 == 0 && w 3 == 0)
  decide (1 ≤ opc.toNat) && decide (opc.toNat ≤ 5) && (w 0).extractLsb' 16 8 == 0 && (w 0).extractLsb' 48 7 == 0 && xp &&
    tbl && argOk && entry && stream && w 4 == 0 && w 5 == 0 && w 6 == 0 && w 7 == 0

/-- The step that carries out a command (R48), and the fibre port it names. -/
def cmdInstr (l : List Byte) : Nat × Instr :=
  let w0 := dwordAt l 0
  let f := (w0.extractLsb' 58 6).toNat
  match (w0.extractLsb' 24 8).toNat with
  | 1 =>
    match (w0.extractLsb' 56 2).toNat with
    | 0 => (f, .mgmtXportDrain)
    | 1 => (f, .mgmtXportDark)
    | 2 => (f, .mgmtXportProbe)
    | _ => (f, .mgmtXportOpen)
  | 2 => (0, .checkpoint)
  | 3 => (0, .restore)
  | 4 => (0, .abort)
  | _ => (0, .setmodid)

/-- The completion record of the command l (R51). -/
def writeCpl (l : List Byte) (own : Bool) (status : Nat) (r0 r1 : DWord) (digest : List DWord) (s : State) : State :=
  let w0 := dwordAt l 0
  let r : DWord := (1 : BitVec 1) ++ BitVec.ofBool own ++ (0 : BitVec 6) ++ w0.extractLsb' 24 8 ++ w0.extractLsb' 0 16 ++
    BitVec.ofNat 16 status ++ (0 : BitVec 16)
  let slot := 1 + s.hub.cplprod.toNat % 511
  let d (i : Nat) : DWord := digest.getD i 0
  let s := bar0SetD (0x28000 + 64 * slot) [r, r0, r1, d 0, d 1, d 2, d 3, BitVec.ofNat 64 s.now] s
  raiseVec 1 (s.modHub fun h => { h with cplprod := h.cplprod + 1 })

/-- The next command of the queue started (R48, R50, R51): one of the management processor goes before the next of the
host; an invalid one completes at once. -/
def mgmtNext : Nat → State → State
  | 0, s => s
  | n + 1, s =>
    let h := s.hub
    if h.cmd.isSome || h.cplprod - h.cplcons == 511 then s
    else
      let start (l : List Byte) (own : Bool) (s : State) : State :=
        if cmdValid l then
          let (f, i) := cmdInstr l
          (s.modHub fun h => { h with cmd := some (l, own) }).dueN s.now f i
        else mgmtNext n (writeCpl l own 4 0 0 [] s)
      match h.own with
      | l :: r => start l true (s.modHub fun h => { h with own := r })
      | [] =>
        if h.cmdprod = h.cmdcons then s
        else
          let l := h.bar0Bytes (0x20000 + 64 * (1 + h.cmdcons.toNat % 511)) 64
          start l false (s.modHub fun h => { h with cmdcons := h.cmdcons + 1 })

/-- A command of 64 bytes that the management processor makes: which, is its own affair (R48, R50; log 51). -/
def ownCommand (s : State) : List Byte × State :=
  ((List.range 8).flatMap fun i => leBytes 8 (Config.freeValue (s.freeCtr + i)).toNat, { s with freeCtr := s.freeCtr + 8 })

/-- The management processor places a command of its own in the queue, or none (R48, R50; log 51). -/
def mgmtOwn (s : State) : State :=
  let (v, s) := s.fresh
  if v.getLsbD 0 then
    let (l, s) := ownCommand s
    s.modHub fun h => { h with own := h.own ++ [l] }
  else s

/-- The queue looked at: what the management processor has placed, then what the host has (R48, R50). -/
def mgmtLook (s : State) : State := mgmtNext 1024 (mgmtOwn s)

/-- The command under way completes, and the next one starts (R48, R51). -/
def mgmtDone (status : Nat) (r0 r1 : DWord) (digest : List DWord) (s : State) : State :=
  match s.hub.cmd with
  | none => s
  | some (l, own) =>
    mgmtLook ((writeCpl l own status r0 r1 digest s).modHub fun h => { h with cmd := none })

end Sys2Proof.Machine
end

