-- ==== Sys2Proof/Machine/Fibre.lean ====
section
/-!
DEFINITION. Fibre ports: the XPORT commands of rig programs and of the management queue (spec/06 R163 to R165, spec/02
R49, spec/17 R385).
-/
namespace Sys2Proof.Machine

/-- The V bit of a fibre port's entry cleared in a table (R164). -/
def invalidate (b : Bool) (f : Nat) (s : State) : State :=
  s.modHub fun h =>
    if b then { h with tblB := h.tblB.set f (h.tblB.get f 0 &&& 0x7FFFFFFF) }
    else { h with tblA := h.tblA.set f (h.tblA.get f 0 &&& 0x7FFFFFFF) }

/-- A fibre port goes DARK; its entry in the active table becomes invalid (R164). -/
def makeDark (f : Nat) (s : State) : State :=
  (invalidate s.hub.activeB f s).modFib f fun y => { y with state := .dark, draining := false, thenDark := false }

/-- The circuits on a fibre port (R164). -/
def State.onFib (s : State) (f : FibreId) : List (TileId × HandleId) :=
  s.handles.filter fun p => (s.circ p.1 p.2.val).pathed && (s.circ p.1 p.2.val).fibs.contains f

/-- A command of a fibre port has completed: a rig program or the management queue learns its status (R51, R164, R385). -/
def xportDone (f : Nat) (x : XCmd) (status : Nat) (loss : BitVec 16) (s : State) : State :=
  let s := s.modFib f fun y => { y with busy := false }
  let r : FaultRec := {
    code := .xportStatus, kind := .async, task := x.task.getD 0,
    pc := if x.task.isSome then some (BitVec.ofNat 19 x.pc) else none,
    fab := some { fib := BitVec.ofNat 6 f },
    extra := BitVec.ofNat 64 (status + (if x.task.isSome then 0 else 4) + 2 ^ 16 * loss.toNat) }
  let s := match x.task with
    | some id =>
      s.modTask id fun y =>
        if y.rig.waitXport = some 0 ∧ y.rig.pc = x.pc then { y with rig := { y.rig with waitXport := some (s.now + 1) } }
        else y
    | none => mgmtDone status (if x.cmd = 2 then loss.setWidth 64 else 0) 0 [] s
  if status = 0 then s else deliver r s

/-- A command of a fibre port carried out in the port's state (R164): the state after it, and its status if it has
completed. -/
def runXport (f : FibreId) (x : XCmd) (s : State) : State :=
  let st := (s.fib f.val).state
  let finish (n : Nat) (s : State) : State := xportDone f.val x n 0 s
  let hold (s : State) : State := s.modFib f.val fun y => { y with busy := true, cmds := x :: y.cmds }
  let drain (dark : Bool) : State :=
    let s := (hold s).modFib f.val fun y => { y with draining := true, thenDark := dark }
    let s := (s.onFib f).foldl (fun s p => derig p.1 p.2 s) s
    s.dueN s.now f.val .drainComplete
  match x.cmd.toNat, st with
  | 0, .fopen => drain false
  | 0, _ => finish 0 s
  | 1, .fopen => drain true
  | 1, .aligned => finish 0 (makeDark f.val s)
  | 1, _ => finish 0 s
  | 2, .fopen => finish 1 s
  | 2, _ =>
    let s := (hold s).modFib f.val fun y => { y with state := .probing, probeAt := s.now }
    let (v, s) := s.fresh
    let s := if v.getLsbD 63 then s.enable 0 0 f.val (.probeComplete (v.truncate 16)) else s
    s.dueN (s.now + 64000) f.val .probeTimeout
  | _, .dark => finish 1 s
  | _, .probing => finish 1 s
  | _, _ =>
    finish 0 ((s.modHub fun h =>
      if x.tbl then { h with tblB := h.tblB.set f.val (x.entry ||| 0x80000000) }
      else { h with tblA := h.tblA.set f.val (x.entry ||| 0x80000000) }).modFib f.val fun y => { y with state := .fopen })

/-- The commands of a fibre port in order of arrival, while none is under way (R49). -/
def fibNext (f : FibreId) : Nat → State → State
  | 0, s => s
  | n + 1, s =>
    let y := s.fib f.val
    if y.busy then s
    else
      match y.cmds with
      | [] => s
      | x :: r => fibNext f n (runXport f x (s.modFib f.val fun y => { y with cmds := r }))

/-- The command under way at a fibre port ends with a status (R164, R165). -/
def fibFinish (f : FibreId) (status : Nat) (loss : BitVec 16) (s : State) : State :=
  match (s.fib f.val).cmds with
  | x :: r => xportDone f.val x status loss (s.modFib f.val fun y => { y with cmds := r })
  | [] => s

/-- A command joins the order of a fibre port (R49, R385): a rig program's runs at once where the port is free, one of
the management queue at the next step boundary. -/
def xport (f : FibreId) (x : XCmd) (s : State) : State :=
  let s := s.modFib f.val fun y => { y with cmds := y.cmds ++ [x] }
  if x.task.isSome then fibNext f 64 s else s.dueN (stepAt s.now) f.val .drainComplete

/-- DRAIN_COMPLETE (R164): once every circuit on a draining port is IDLE it becomes ALIGNED, or DARK for DARK; then the
commands that wait at the port go on. -/
def execDrainComplete (s : State) : Host.Outcome State Fault Refusal :=
  let f : FibreId := fin 64 s.cur.ix
  let y := s.fib f.val
  let s :=
    if y.draining && (s.onFib f).isEmpty && !s.hub.releasing.any fun p => p.2.2.fibs.contains f then
      let s := if y.state ≠ .fopen then s.modFib f.val fun y => { y with draining := false, thenDark := false }
        else if y.thenDark then makeDark f.val s
        else s.modFib f.val fun y => { y with state := .aligned, draining := false }
      fibFinish f 0 0 s
    else s
  .next (fibNext f 64 s)

/-- PROBE_COMPLETE (R165): the peer's pattern has come, with the loss measured in tenths of a decibel. -/
def execProbeComplete (loss : BitVec 16) (s : State) : Host.Outcome State Fault Refusal :=
  let f : FibreId := fin 64 s.cur.ix
  if (s.fib f.val).state = .probing then
    let good := decide (loss.toNat ≤ 90)
    let s := s.modFib f.val fun y => { y with state := if good then .aligned else .dark }
    let s := fibFinish f (if good then 0 else 3) loss s
    .next (s.dueN (stepAt s.now) f.val .drainComplete)
  else .next s

/-- PROBE_TIMEOUT (R165): no pattern within 2,000 fabric steps. -/
def execProbeTimeout (s : State) : Host.Outcome State Fault Refusal :=
  let f : FibreId := fin 64 s.cur.ix
  let y := s.fib f.val
  if y.state = .probing ∧ y.probeAt + 64000 ≤ s.now then
    let s := s.modFib f.val fun y => { y with state := .dark }
    .next ((fibFinish f 2 0xFFFF s).dueN (stepAt s.now) f.val .drainComplete)
  else .next s

/-- The fibre-port command of the management queue's command under way (R49, R50). -/
def mgmtXport (cmd : BitVec 2) (s : State) : Host.Outcome State Fault Refusal :=
  let w := s.cmdWord 1
  let x : XCmd := {
    cmd := cmd, tbl := (s.cmdWord 0).getLsbD 55, entry := (w.extractLsb' 39 25 : BitVec 25).setWidth 32 <<< 6 }
  if s.hub.cmd.isSome then .next (xport (fin 64 s.cur.ix) x s) else .next s

/-- MGMT_XPORT_DRAIN (R48, R164). -/
def execMgmtXportDrain (s : State) : Host.Outcome State Fault Refusal := mgmtXport 0 s
/-- MGMT_XPORT_DARK (R48, R164). -/
def execMgmtXportDark (s : State) : Host.Outcome State Fault Refusal := mgmtXport 1 s
/-- MGMT_XPORT_PROBE (R48, R165). -/
def execMgmtXportProbe (s : State) : Host.Outcome State Fault Refusal := mgmtXport 2 s
/-- MGMT_XPORT_OPEN (R48, R163, R164). -/
def execMgmtXportOpen (s : State) : Host.Outcome State Fault Refusal := mgmtXport 3 s

end Sys2Proof.Machine
end

