-- ==== Sys2Proof/Machine/Fabric.lean ====
section
/-!
DEFINITION. Circuits as time goes by: releases, settling, retries, reroutes, and what fails in them: lamps, rings, mesh
elements, fibre ports and peers (spec/06 R147 to R149, R162; spec/22 R450; spec/23 R457 to R465).
-/
namespace Sys2Proof.Machine

/-! ## Releases and settling -/

/-- PATH_RELEASE (R147, R149, R462): the path of a handle torn down, or of a circuit that has failed, is released; one that a lamp
failure pauses waits for the relight (R457). -/
def execPathRelease (s : State) : Host.Outcome State Fault Refusal :=
  let t := s.cur.tile
  let h : HandleId := fin 64 s.cur.ix
  let gone := s.hub.releasing.filter fun p => p.1 == t && p.2.1 == h
  let s := s.modHub fun x => { x with releasing := x.releasing.filter fun p => !(p.1 == t && p.2.1 == h) }
  let s := kickDrain (gone.flatMap fun p => p.2.2.fibs) s
  let c := s.circ t h.val
  if c.failed && !s.paused t c then
    .next (kickDrain c.fibs (s.modCirc t h.val fun x => { x with pathed := false, path := [], fibs := [] }))
  else .next s

/-- DERIG_COMPLETE (R149): every message of a DERIGGING circuit is acknowledged and returned; the handle is IDLE and its
path released. -/
def execDerigComplete (s : State) : Host.Outcome State Fault Refusal :=
  let t := s.cur.tile
  let h : HandleId := fin 64 s.cur.ix
  let c := s.circ t h.val
  if c.state = .derigging ∧ c.drained then .next (kickDrain c.fibs (idleCirc t h s)) else .next s

/-- The record of an absent peer (R456). -/
def peerRec (s : State) (t : TileId) (h : HandleId) (c : Circ) : FaultRec :=
  {
    code := .extPeerAbsent, kind := .async, task := (s.tile t).taskid, tile := some (s.ltileOf t, t),
    fab := some { handle := BitVec.ofNat 6 h.val, port := c.port, fib := BitVec.ofNat 6 ((c.fibs.head?.map (·.val)).getD 0) },
    extra := (((c.ends.find? fun e => !s.here e).map fun (e : End) => e.md).getD 0).setWidth 64 }

/-- SETTLING_END (R149, R162, R462, R463): S steps after its path was set a circuit is LIVE; one across a fibre port only
if the peer's light is there, which is an open choice (log 6), and else FAULTED. -/
def execSettlingEnd (s : State) : Host.Outcome State Fault Refusal :=
  let t := s.cur.tile
  let h : HandleId := fin 64 s.cur.ix
  let c := s.circ t h.val
  if !c.pathed || c.failed || decide (s.now < c.settleAt) || !(c.state == .settling || c.rerr) || s.paused t c then .next s
  else
    let (v, s) := if c.ext then s.fresh else (1, s)
    if !v.getLsbD 0 then .next (deliver (peerRec s t h c) (faultCirc t h s))
    else if c.rerr then
      let s := s.modCirc t h.val fun x =>
        { x with rerr := false, tryAt := 0, state := if x.state = .derigging then .derigging else .live }
      let s := resyncCirc t h s
      let s := if c.ext then s.dueH (s.now + 32000) t h.val .peerAbsentTimeout else s
      .next (wakeCirc t h s)
    else .next (goLive t h s)

/-! ## Waiting rigs -/

/-- Whether a circuit waits for a usable path (R149, R462). -/
def Circ.waits (c : Circ) : Bool := c.state == .rigging || (c.rerr && !c.pathed && !c.failed)

/-- The place of a waiting circuit among the retries: by first try; those that fail in one step by slot, tile and handle
(R147, R462). -/
def retryKey (t : TileId) (h : HandleId) (c : Circ) : Nat :=
  if c.tryAt = 0 then 2 ^ 64 + ((c.slot.map (·.val)).getD 0) * 2 ^ 12 + t.val * 64 + h.val else c.tryAt

/-- Whether a circuit that has failed and has yet to reroute sits on a port. -/
def State.awaits (s : State) (t : TileId) (p : Nat) : Bool :=
  s.handles.any fun q => (s.circ q.1 q.2.val).failed && (s.joins q.1 (s.circ q.1 q.2.val)).contains (Config.tilePort t.val p)

/-- The records of lost ports whose step has come and for which no circuit has chosen a substitute, written (R460). -/
def flushLost (s : State) : State :=
  (fins 32).foldl (fun s t => (s.tile t).ports.keys.foldl (fun s p =>
    match ((s.tile t).port p).lost with
    | some (rx, line, at', h) =>
      if at' < s.now ∧ s.awaits t p = false then
        deliver { ringRec s t p line rx h 0 none with time := some at' } (s.modPort t p fun y => { y with lost := none })
      else s
    | none => s) s) s

/-- RIG_RETRY (R147, R149, R462): every rig and reroute that waits is tried, in the order of their first try; one that a lamp
failure pauses keeps its state until the relight (R457). -/
def execRigRetry (s : State) : Host.Outcome State Fault Refusal :=
  let l := s.handles.foldl (fun l p =>
    let c := s.circ p.1 p.2.val
    if c.waits && !s.paused p.1 c then putKeyed (retryKey p.1 p.2 c) p l else l) []
  .next (flushLost (l.foldl (fun s p => if (s.circ p.2.1 p.2.2.val).waits then tryCirc p.2.1 p.2.2 s else s) s))

/-- The record of PATH_BLOCKED (R456). -/
def blockedRec (s : State) (t : TileId) (h : HandleId) (c : Circ) (re : Bool) : FaultRec :=
  {
    code := .pathBlocked, kind := .async, task := (s.tile t).taskid, tile := some (s.ltileOf t, t),
    fab := some { handle := BitVec.ofNat 6 h.val, port := c.port }, extra := if re then 1 else 0 }

/-- PATH_BLOCKED (R149, R457, R462): 1,000 fabric steps without a usable path; a pause does not count. -/
def execPathBlocked (s : State) : Host.Outcome State Fault Refusal :=
  let t := s.cur.tile
  let h : HandleId := fin 64 s.cur.ix
  let c := s.circ t h.val
  if !c.waits || s.paused t c then .next s
  else if s.now < c.rigAt + 32000 then .next (s.dueH (c.rigAt + 32000) t h.val .pathBlocked)
  else
    let r := blockedRec s t h c c.rerr
    .next (deliver r (if c.rerr then faultCirc t h s else idleCirc t h s))

/-- The ends of a circuit with the substitutes of failed ports (R460). -/
def subEnds (slot : SlotId) (h : HandleId) : List End → State → List End × State
  | [], s => ([], s)
  | e :: r, s =>
    let (p, s) := if s.here e then subPort (fin 32 e.tile.toNat) e.port.toNat slot h s else (e.port.toNat, s)
    let (l, s) := subEnds slot h r s
    ({ e with port := BitVec.ofNat 4 p } :: l, s)

/-- REROUTE (R460, R462): in its step a failed circuit enters REROUTING, on substitutes of failed ports, and is tried
with the retries of the step; one that a lamp failure pauses keeps its state until the relight (R457). -/
def execReroute (s : State) : Host.Outcome State Fault Refusal :=
  let t := s.cur.tile
  let h : HandleId := fin 64 s.cur.ix
  let c := s.circ t h.val
  if !c.failed || s.paused t c then .next s
  else
    let slot := c.slot.getD 0
    let (p, s) := subPort t c.port.toNat slot h s
    let (ends, s) := subEnds slot h c.ends s
    let s := s.modCirc t h.val fun x =>
      { x with
        failed := false, rerr := true, tryAt := 0, pathed := false, path := [], fibs := [], port := BitVec.ofNat 4 p,
        ends := ends, rigAt := if x.rerr then x.rigAt else s.now,
        state := if x.state = .derigging then .derigging else .rerouting }
    let s := s.dueH (Nat.max s.now ((s.circ t h.val).rigAt + 32000)) t h.val .pathBlocked
    .next (s.dueN s.now 0 .rigRetry)

/-! ## Audits and peers -/

/-- The messages of window w that a circuit has sent or taken and not had returned (R450). -/
def Circ.recount (c : Circ) (w : Nat) : Nat :=
  ((c.sent.filter fun x => x.win == some w && !x.returned c) ++ c.waiting.filter fun x => x.win == some w && x.sampled).length

/-- The messages of a source that a home holds received and not yet returned (R450). -/
def homeRecount (x : Tile) (y : Home) : Nat := (x.staged.filter fun c => c.src == some y.src).length + y.held.length

/-- The audit of the homes of a tile (R450): what each holds is recounted. -/
def auditHomes (t : TileId) (s : State) : State :=
  (s.tile t).homes.foldl (fun s y =>
    let n := homeRecount (s.tile t) y
    if n = y.kept then s
    else
      deliver {
        code := .allowanceAudit, kind := .async, task := (s.tile t).taskid, tile := some (s.ltileOf t, t),
        fab := some { handle := BitVec.ofNat 6 y.src.handle.val },
        extra := (BitVec.ofInt 32 ((n : Int) - (y.kept : Int))).setWidth 64 } (s.modHome t y.src fun y => { y with kept := n })) s

/-- ALLOWANCE_AUDIT (R450): OUT of each window recounted, for every circuit of a tile that is LIVE or DERIGGING, and what each of its
homes holds. -/
def execAllowanceAudit (s : State) : Host.Outcome State Fault Refusal :=
  let t := s.cur.tile
  let s := auditHomes t s
  let s := (fins 64).foldl (fun s h =>
    let c := s.circ t h.val
    if c.state = .live ∨ c.state = .derigging then
      let ws := (List.range 64).filter fun w => (((s.tile t).wins.get w {}).handle.toNat == h.val)
      let d : Int := ws.foldl (fun d w => d + (c.recount w : Int) - (((s.tile t).wins.get w {}).out : Int)) 0
      let off := ws.any fun w => c.recount w != ((s.tile t).wins.get w {}).out
      if off then
        let s := s.modTile t fun x =>
          { x with wins := ws.foldl (fun (y : Tbl Win) w => y.set w { y.get w {} with out := c.recount w }) x.wins }
        let s := deliver {
          code := .allowanceAudit, kind := .async, task := (s.tile t).taskid, tile := some (s.ltileOf t, t),
          fab := some { handle := BitVec.ofNat 6 h.val }, extra := (BitVec.ofInt 32 d).setWidth 64 } s
        kickStores t s
      else s
    else s) s
  .next (s.dueT (s.now + 204800) t .allowanceAudit)

/-- PEER_ABSENT_TIMEOUT (R465): no control flit of a circuit across a fibre port for 32,000 rc. -/
def execPeerAbsentTimeout (s : State) : Host.Outcome State Fault Refusal :=
  let t := s.cur.tile
  let h : HandleId := fin 64 s.cur.ix
  let c := s.circ t h.val
  if !c.ext || c.rerr || !(c.state == .live || c.state == .derigging) then .next s
  else if s.paused t c then .next (s.dueH (s.now + 32000) t h.val .peerAbsentTimeout)
  else if s.now < c.lastCtl + 32000 then .next (s.dueH (c.lastCtl + 32000) t h.val .peerAbsentTimeout)
  else .next (deliver (peerRec s t h c) (faultCirc t h s))

/-- EXT_PORT_LOSS (R464): an OPEN fibre port has lost its light. -/
def execExtPortLoss (s : State) : Host.Outcome State Fault Refusal :=
  let f : FibreId := fin 64 s.cur.ix
  if (s.fib f.val).state ≠ .fopen then .next s
  else
    let s := (invalidate true f.val (invalidate false f.val s)).modFib f.val fun y => { y with state := .dark }
    let (n, s) := failAll (fun _ c => c.fibs.contains f) s
    .next (deliver {
      code := .extPortLoss, kind := .async, fab := some { fib := BitVec.ofNat 6 f.val },
      extra := BitVec.ofNat 64 (n % 256) } s)

/-! ## The mesh and the rings -/

/-- MZI_FAIL (R461): an element is unusable from now on; circuits that cross it reroute. -/
def execMziFail (stage : StageId) (el : Nat) (s : State) : Host.Outcome State Fault Refusal :=
  let e := stage.val * Config.elementsPerStage + el
  let s := s.modHub fun h => { h with badEl := if h.badEl.contains e then h.badEl else h.badEl ++ [e] }
  let (n, s) := failAll (fun _ c => c.path.any fun p => p.1 == e) s
  .next (deliver {
    code := .mziFail, kind := .async,
    extra := BitVec.ofNat 64 (stage.val + 2 ^ 5 * (el % 2 ^ 9) + 2 ^ 14 * (n % 256)) } s)

/-- A port after a line of one side is lost (R459). -/
def Port.loseLine (y : Port) (line : Nat) (rx : Bool) : Port :=
  if (y.bad rx).contains line then y
  else if rx then { y with rxBad := y.rxBad ++ [line] } else { y with txBad := y.txBad ++ [line] }

/-- The circuits joined to a port that reroute when it fails. -/
def onPort (s : State) (t : TileId) (p : Nat) (u : TileId) (c : Circ) : Bool :=
  (s.joins u c).contains (Config.tilePort t.val p)

/-- A port out of service in both directions (R459, R460): its circuits reroute; the record waits for the substitute
where there is one to choose. Neither this, nor a change of striping (R459), nor a spare lamp switched in (R457) is an
inventory change that advances INVSEQ and raises vector 2: of the changes of units only R434, R435 and R458 say so (R28; the
model's choice, log 47). -/
def losePort (t : TileId) (p line : Nat) (rx : Bool) (s : State) : State :=
  let h := s.portHandle t p
  let s := s.modPort t p fun y => { y with out := true }
  let (_, s) := failAll (onPort s t p) s
  if s.handles.any fun q => (s.circ q.1 q.2.val).failed && onPort s t p q.1 (s.circ q.1 q.2.val) then
    (s.modPort t p fun y => { y with lost := some (rx, line, s.now, h) }).dueN (stepAfter s.now) 0 .rigRetry
  else deliver (ringRec s t p line rx h 0 none) s

/-- RING_DETUNE (R459): a data ring loses lock; the striping changes at a message boundary within 6,400 rc, an open
choice (log 6). -/
def execRingDetune (line : LampId) (rx : Bool) (s : State) : Host.Outcome State Fault Refusal :=
  let t := s.cur.tile
  let p := s.cur.ix % 16
  let n := (((s.tile t).port p).loseLine line.val rx).count rx
  let (v, s) := s.fresh
  let s := if n < 4 then s else deliver (ringRec s t p line.val rx (s.portHandle t p) n none) s
  let s := if (((s.tile t).port p).bad rx).contains line.val then s
    else s.modPort t p fun y => { y with failing := y.failing ++ [(rx, line.val)] }
  .next (s.dueH (s.now + v.toNat % 6401) t p (.stripingChange line rx))

/-- STRIPING_CHANGE (R145, R459): the direction goes on with the lines it has left; below 4 it is out of service. -/
def execStripingChange (line : LampId) (rx : Bool) (s : State) : Host.Outcome State Fault Refusal :=
  let t := s.cur.tile
  let p := s.cur.ix % 16
  let s := s.modPort t p fun y => { y.loseLine line.val rx with failing := y.failing.filter fun f => f != (rx, line.val) }
  if ((s.tile t).port p).count rx < 4 then .next (losePort t p line.val rx s)
  else
    .next (s.handles.foldl (fun s q =>
      let c := s.circ q.1 q.2.val
      if c.pathed && onPort s t p q.1 c then s.modCirc q.1 q.2.val fun x => { x with lines := s.lineCount q.1 c } else s) s)

/-- CONTROL_RING_DETUNE (R460): L9 of a port fails; the port is out of service. -/
def execControlRingDetune (rx : Bool) (s : State) : Host.Outcome State Fault Refusal :=
  .next (losePort s.cur.tile (s.cur.ix % 16) 9 rx s)

/-! ## Lamps -/

/-- The record of a lamp (R456). -/
def lampRec (s : State) (code : FaultCode) (lamp : Nat) (n : StringId) (spare : Bool) : FaultRec :=
  {
    code := code, kind := .async,
    task := ((s.stringTask n).map (·.id)).getD 0,
    extra := BitVec.ofNat 64 (lamp + 16 * n.val + if spare then 256 else 0) }

/-- The circuits with an end on a string. -/
def State.onString (s : State) (n : StringId) : List (TileId × HandleId) :=
  s.handles.filter fun p => (s.circ p.1 p.2.val).state != .idle && (s.circStrings p.1 (s.circ p.1 p.2.val)).contains n

/-- A string out of service with the record r of the cause (R26, R458): its circuits are FAULTED in this step, the task
on it ends, its tiles are gone, and the inventory changes. -/
def loseString (n : StringId) (r : FaultRec) (s : State) : State :=
  let s := (s.onString n).foldl (fun s p => faultCirc p.1 p.2 s) s
  let s := deliver r s
  let s := s.modStr n fun x => { x with inService := false, pausedAt := none }
  inventoryChange
    ((fins 32).foldl (fun s t => if stringOf t = n then s.modTile t fun x => { x with inService := false } else s) s)

/-- A good spare lamp that no string's feed uses (R14). -/
def State.spareLamp (s : State) : Option Nat :=
  [8, 9].find? fun l => !s.hub.phys.lamps.contains l && (fins 8).all fun n => (s.str n).lamp != l

/-- LAMP_FAIL (R457, R458): a spare lamp is switched in, and the string's circuits pause until the relight, at a step
boundary within 50 µs that is an open choice (log 6); with no spare, or after a spare has failed, the string is lost. -/
def execLampFail (s : State) : Host.Outcome State Fault Refusal :=
  let n : StringId := fin 8 s.cur.ix
  let old := (s.str n).lamp
  let s := s.modHub fun h =>
    { h with lampOk := h.lampOk &&& ~~~(1#10 <<< old), phys := { h.phys with lamps := old :: h.phys.lamps } }
  match (if 8 ≤ old then none else s.spareLamp) with
  | some l =>
    let (v, s) := s.fresh
    let s := s.modHub fun h => { h with lampOk := h.lampOk ||| (1#10 <<< l) }
    let s := (s.onString n).foldl (fun s p =>
      (s.dropWire p.1 p.2).modCirc p.1 p.2.val fun c => { c with pausedAt := some (c.pausedAt.getD s.now) }) s
    let s := s.modStr n fun x => { x with lamp := l, pausedAt := some s.now }
    let s := deliver (lampRec s .lampFail old n true) s
    .next (s.dueN (stepAt s.now + 32 * (v.toNat % 5000)) n.val .lampRelight)
  | none =>
    let r := lampRec s .lampSpareNone old n false
    .next (loseString n r (s.modStr n fun x => { x with light := false }))

/-- A circuit of a string that has light again, once none of its strings lacks it (R457, R463): a failure met meanwhile makes it
reroute now (R462). -/
def relightCirc (s : State) (p : TileId × HandleId) : State :=
  let (t, h) := p
  let c := s.circ t h.val
  if s.paused t c then s
  else
    let settles := c.pathed && (c.state == .settling || c.rerr)
    let n := s.now + 32 * c.settleSteps
    let from' := c.rigAt + (s.now - Nat.max (c.pausedAt.getD c.rigAt) c.rigAt)
    let s := s.modCirc t h.val fun x =>
      { x with rigAt := from', settleAt := if settles then n else x.settleAt, pausedAt := none }
    if c.failed then (s.dueH s.now t h.val .pathRelease).dueH s.now t h.val .reroute
    else if settles then s.dueH n t h.val .settlingEnd
    else if c.waits then (s.dueN s.now 0 .rigRetry).dueH (from' + 32000) t h.val .pathBlocked
    else if c.state = .live ∨ c.state = .derigging then wakeCirc t h (resyncCirc t h s)
    else s

/-- LAMP_RELIGHT (R457): the string has light again. -/
def execLampRelight (s : State) : Host.Outcome State Fault Refusal :=
  let n : StringId := fin 8 s.cur.ix
  match (s.str n).pausedAt with
  | none => .next s
  | some _ =>
    let s := s.modStr n fun x => { x with pausedAt := none }
    .next ((s.onString n).foldl relightCirc s)

end Sys2Proof.Machine
end

