-- ==== Sys2Proof/Machine/Source.lean ====
section
/-!
DEFINITION. The source side of a circuit: the sending unit, acknowledgements, allowance, refusals, resends and commits
(spec/06 R151, R155 to R161; spec/22 R445 to R452; spec/23 R463, R467, R468).
-/
namespace Sys2Proof.Machine

/-! ## Counts of a circuit -/

/-- Whether a cumulative count has passed a SEQ (R157). -/
def passed (count seq : Word) : Bool := (0 : Word).slt (count - seq)

/-- The newer of two cumulative counts (R157). -/
def newer (new old : Word) : Word := if passed new old then new else old

/-- Whether some leaf has neither received nor acknowledged a message (R446). -/
def Circ.unreceived (c : Circ) (x : Sent) : Bool :=
  (List.range c.leaves).any fun j =>
    let l := c.leaf.get j {}
    !passed l.rcv x.msg.seq && !passed l.ack x.msg.seq

/-- Whether a committed G = 1 message still waits for an accepting leaf to pass it in ALLOWC (R446, R468). -/
def Circ.uncommitted (c : Circ) (x : Sent) : Bool :=
  c.mcast && x.msg.g && x.committed && (x.allow ||| x.mask) &&& c.leafMask != c.leafMask

/-! ## Sending -/

/-- The agent of a message at the sending unit (R155, R167): the M cluster of a core, 0 to 15, a BTE channel, 16 to 23, the
matrix engine of a core, 24 to 39, the sends of a core's E cluster, 40 to 55, or the home that replies, 56. The spec names no
order of the agents and no first one: these numbers, and agent 0 first after a rig, are the model's choice (log 48). -/
def Sent.agent (x : Sent) : Nat :=
  match x.ty, x.job with
  | .reply, _ => 56
  | _, some (.chan c, _) => 16 + c.val
  | _, some (.send, _) => 40 + x.core.val
  | _, some _ => 24 + x.core.val
  | _, none => x.core.val

/-- The flits of a message (R153). -/
def Sent.flits (x : Sent) : Nat :=
  match x.ty with
  | .row => 4
  | .short => 1
  | .reply => if x.msg.side.getD 0 0 = 0 then 1 else 4
  | .chunk => 4 * x.msg.pay.length

/-- Whether the limits of R158 let a circuit send one more message. -/
def Circ.mayPass (c : Circ) (x : Sent) : Bool :=
  let out := c.sent.filter fun y => !y.returned c
  let flits := out.foldl (fun n y => n + y.flits) 0
  if c.ext then decide (out.length + 1 ≤ 2048) && decide (flits + x.flits ≤ 16384)
  else decide (out.length + 1 ≤ 128) && decide (flits + x.flits ≤ 1024)

/-- The message that the sending unit takes next: the agents in turn, each in its own order (R155; log 48). -/
def Circ.nextSend (c : Circ) : Option Sent :=
  (List.range 57).findSome? fun i =>
    match c.waiting.find? fun x => x.agent == (c.lastAgent + 1 + i) % 57 with
    | some x => if x.sampled then some x else none
    | none => none

/-- The step at a home that a message's arrival is. -/
def arrival (src : Source) (x : Sent) : Instr :=
  if src.leaf.isSome then .multicastArrival src x.msg
  else
    match x.ty with
    | .row => .row src x.msg
    | .short => if x.msg.op = 0 then .shortStore src x.msg else if x.msg.op = 2 then .shortAtomic src x.msg else .shortLoad src x.msg
    | .reply => .reply src x.msg
    | .chunk => if x.msg.op = 1 then .reductionContribution src x.msg else .chunk src x.msg

/-- A message on its way: its flits are counted and take their time on the data lines (R145), and it arrives at each end on
this module after its time of flight (R153, R159, R504); on a path that has failed it is lost (R463), and where it crosses a
line that has lost lock its first CRC fails (R459). -/
def transmit (t : TileId) (h : HandleId) (x : Sent) (s : State) : State :=
  let c := s.circ t h.val
  let n := Nat.max c.lineTo (4200 * s.now) + lineTime x.flits c.lines
  let s := (s.count t 0x0D none (64 * x.flits)).modCirc t h.val fun c => { c with lineTo := n }
  let x := if s.garbles t c then { x with msg := { x.msg with errs := [(0, some 1)] } } else x
  if c.failed then s
  else
    (s.leafSources t h c).foldl (fun s p =>
      s.dueU (alignUp n 4200 / 4200 + s.flightTo t c ((p.2.leaf.map (·.val)).getD 0)) p.1 0 0 (arrival p.2 x)) s

/-- A request on its way notes the answer it waits for. -/
def noteAsk (t : TileId) (c : Circ) (x : Sent) (s : State) : State :=
  if x.ty = .short ∧ x.msg.op ≠ 0 then
    match c.ends with
    | e :: _ => s.modTile t fun y => { y with asks := y.asks ++ [(x.core, e.md, e.tile, x.msg.seq.truncate 8)] }
    | [] => s
  else s

/-- The resend timer runs from now on, unless an earlier message keeps it running (R446). -/
def armTimer (t : TileId) (h : HandleId) (s : State) : State :=
  let c := s.circ t h.val
  if decide (1 < (c.sent.filter c.unreceived).length) || c.sent.any c.uncommitted then s else startTimer t h.val s

/-- After a message of a copy has left, its channel hands over its next chunk; the matrix engine looks at its drain. -/
def jobSent (t : TileId) (x : Sent) (s : State) : State :=
  match x.job with
  | some (.chan c, id) =>
    match findJob s t x.core (.chan c) id with
    | some j => if j.prog < j.total then chunkAfter t c.val (chunkTime j.chunkBytes) s else s
    | none => s
  | some (.matrix, _) => s.dueK s.now t x.core .matrixJobStart
  | _ => s

/-- What waits until a store of a core is sent looks again: its release stores, and its semaphore word (R172, R272, R273). -/
def kickOwn (t : TileId) (x : Sent) (s : State) : State :=
  if x.job.isNone && x.ty != .reply then
    kickLeave t x.core (if (s.core t x.core).pend.isEmpty then s else s.dueK s.now t x.core .memoryPortApply)
  else s

/-- The sending unit goes on with a circuit while it may, one message after the other as the data lines come free (R145, R155,
R158, R463). -/
def pump (t : TileId) (h : HandleId) : Nat → State → State
  | 0, s => s
  | n + 1, s =>
    let c := s.circ t h.val
    if !s.carries t c || c.resync != 0 then s
    else
      match c.nextSend with
      | none => s
      | some x =>
        if !c.mayPass x then s
        else if 4200 * (s.now + 1) ≤ c.lineTo then s.dueH (c.lineTo / 4200) t h.val .messageSend
        else if s.now < x.notBefore then s.dueH x.notBefore t h.val .messageSend
        else
          let y := { x with msg := { x.msg with seq := c.seq }, sentAt := s.now }
          let s := s.modCirc t h.val fun c =>
            { c with seq := c.seq + 1, waiting := c.waiting.erase x, sent := c.sent ++ [y], lastAgent := x.agent }
          pump t h n (kickOwn t y (jobSent t y (noteAsk t c y (armTimer t h (transmit t h y s)))))

/-! ## Sampling -/

/-- A message of a job accepted by the sending unit (R356, R474): a firing whose last chunk is accepted advances its
ROUND. -/
def acceptJob (t : TileId) (x : Sent) (q : QueueId) (id : Nat) (s : State) : State :=
  let s := modJob t x.core q id (fun j =>
    { j with bytes := j.bytes + 1, unacked := if x.entry.isNone then j.unacked + 1 else j.unacked }) s
  match x.entry, findJob s t x.core q id with
  | some i, some j =>
    if j.total ≤ j.bytes then
      let s := if j.op = .mdrainSend then s.dueK s.now t x.core .matrixJobComplete else s
      jobCheck t x.core q id (s.modTile t fun y =>
        let e := y.cents.get i {}
        { y with cents := y.cents.set i { e with round := e.round + 1 } })
    else jobCheck t x.core q id s
  | _, _ => s

/-- The messages of a job that no sending unit has accepted yet withdrawn. -/
def withdrawJob (t : TileId) (k : CoreId) (q : QueueId) (id : Nat) (s : State) : State :=
  s.modTile t fun x =>
    { x with
      circs := x.circs.mapVals fun _ c =>
        { c with waiting := c.waiting.filter fun y => y.sampled || y.core != k || y.job != some (q, id) } }

/-- The fault of a message whose sample is not LIVE (R151, R456). -/
def notLive (s : State) (t : TileId) (h : HandleId) (x : Sent) : FaultRec :=
  {
    code := .circuitNotLive,
    kind := if x.job.isSome then .job else if x.msg.op = 0 then .async else .precise,
    task := (s.tile t).taskid, tile := some (s.ltileOf t, t),
    core := some (x.core, if x.clus = 2 then .m else .e), pc := some x.pc, addr := some (false, x.va),
    fab := fabOf h.val, extra := BitVec.ofNat 64 (s.circ t h.val).state.code, handlerWork := x.handlerWork }

/-- A message whose sample is not LIVE (R151): a load or an atomic faults its word, a store is performed nowhere and
faults asynchronously, a job faults and keeps what is not accepted. -/
def refuseSample (t : TileId) (h : HandleId) (x : Sent) (s : State) : State :=
  let s := s.modCirc t h.val fun c => { c with waiting := c.waiting.erase x }
  let r := notLive s t h x
  match x.job with
  | some (q, id) =>
    let s := withdrawJob t x.core q id s
    match findJob s t x.core q id with
    | some j => failJob t x.core q j.again r s
    | none => s
  | none => kickStores t (if x.msg.op = 0 then deliver r s else failLoad t x.core r s)

/-- A list with its first x replaced by y. -/
def putFirst {α : Type} [DecidableEq α] (x y : α) : List α → List α
  | [] => []
  | z :: r => if z = x then y :: r else z :: putFirst x y r

/-- A message taken by the sending unit: the window or group that it counts against (R107, R151, R365). -/
def acceptSample (t : TileId) (h : HandleId) (x : Sent) (s : State) : State :=
  let s := s.modCirc t h.val fun c =>
    { c with waiting := putFirst x { x with sampled := true } c.waiting }
  let s := match x.win with
    | some w => s.modTile t fun y => { y with wins := y.wins.set w { y.wins.get w {} with out := (y.wins.get w {}).out + 1 } }
    | none => s
  let s := match x.group with
    | some g =>
      s.modTile t fun y => { y with groups := y.groups.set g { y.groups.get g {} with out := (y.groups.get g {}).out + 1 } }
    | none => s
  match x.job with
  | some (q, id) => acceptJob t x q id s
  | none => s

/-- Every message that has reached the sending unit of a handle sampled, in order (R151). -/
def sampleAll (t : TileId) (h : HandleId) : Nat → State → State
  | 0, s => s
  | n + 1, s =>
    let c := s.circ t h.val
    match c.waiting.find? fun x => !x.sampled with
    | none => s
    | some x =>
      sampleAll t h n (if c.usable || x.ty == .reply then acceptSample t h x s else refuseSample t h x s)

/-- MESSAGE_SEND (R151, R155, R158): what has reached the sending unit of a handle is sampled, and the unit sends what
it may. -/
def execMessageSend (s : State) : Host.Outcome State Fault Refusal :=
  let t := s.cur.tile
  let h : HandleId := fin 64 s.cur.ix
  let n := (s.circ t h.val).waiting.length
  .next (pump t h (n + 1) (sampleAll t h (n + 1) s))

/-! ## Counts -/

/-- The commit of a message to the leaves that have not refused it and, again, not passed it (R161, R468). -/
def sendCommit (t : TileId) (h : HandleId) (x : Sent) (s : State) : State :=
  let c := s.circ t h.val
  (s.leafSources t h c).foldl (fun s p =>
    let j := (p.2.leaf.map (·.val)).getD 0
    if (x.mask ||| x.allow).getLsbD j || c.failed then s
    else s.dueU (s.now + s.flightTo t c j) p.1 0 0 (.commit p.2 x.msg.seq)) s

/-- The record of a VSTM whose acknowledgement mask is not zero (R467). -/
def storePartial (s : State) (t : TileId) (h : HandleId) (x : Sent) : FaultRec :=
  {
    code := .mcastPartial, kind := .async, task := (s.tile t).taskid, tile := some (s.ltileOf t, t),
    core := some (x.core, .m), addr := some (true, x.msg.mpa.setWidth 60),
    fab := some { handle := BitVec.ofNat 6 h.val, port := (s.circ t h.val).port, mseq := x.msg.seq },
    extra := (0 : BitVec 20) ++ x.msg.gen ++ x.msg.tag ++ (x.negcode.truncate 12 : BitVec 12) ++ x.mask,
    handlerWork := x.handlerWork }

/-- Whether the lowest leaf of mask a lies below that of mask b. -/
def lowerLeaf (a b : BitVec 16) : Bool := decide ((a &&& (0 - a)).toNat < (b &&& (0 - b)).toNat)

/-- What follows when every leaf has acknowledged or refused a multicast message (R161, R467): the resend timer, which this
acknowledgement restarts, runs until a committed message is passed (R446); of a copy job, whose masks are
joined, the lowest leaf's code and the first such chunk's SEQ are kept. -/
def completeCast (t : TileId) (h : HandleId) (x : Sent) (s : State) : State :=
  let s := if x.msg.g then
      (sendCommit t h x (s.modCirc t h.val fun c =>
        { c with sent := c.sent.map fun y => if y.msg.seq = x.msg.seq then { y with committed := true } else y })).dueH
        (s.now + 64000) t h.val .resendTimeout
    else s
  if x.mask = 0 then s
  else
    match x.job with
    | some (q, id) =>
      modJob t x.core q id (fun j =>
        { j with
          mask := j.mask ||| x.mask
          maskInfo := match j.maskInfo with
            | some (q, code, a, g) => some (q, if lowerLeaf x.mask j.mask then x.negcode else code, a, g)
            | none => some (x.msg.seq, x.negcode, x.msg.mpa.toNat, x.msg.gen) }) s
    | none => deliver (storePartial s t h x) s

/-- What follows when a message is acknowledged as delivered (R184, R203, R357, R365). -/
def afterDelivery (t : TileId) (x : Sent) (s : State) : State :=
  let s := if x.msg.g && x.msg.op == 0 && x.ty != .reply then s.count t 0x0F none 1 else s
  let s := match x.group with
    | some g =>
      s.modTile t fun y => { y with groups := y.groups.set g { y.groups.get g {} with out := (y.groups.get g {}).out - 1 } }
    | none => s
  match x.entry, x.job with
  | some i, _ =>
    let s := s.modTile t fun y => { y with cents := y.cents.set i { y.cents.get i {} with left := (y.cents.get i {}).left - 1 } }
    if ((s.tile t).cents.get i {}).left = 0 then s.dueH s.now t i .firingComplete else s
  | none, some (q, id) =>
    let s := jobAck t x.core q id 1 s
    if q = .matrix then s.dueK s.now t x.core .matrixJobStart else s
  | none, none => s

/-- What follows when a message is returned as allowance (R107, R158). -/
def afterReturn (t : TileId) (x : Sent) (s : State) : State :=
  match x.win with
  | some w => s.modTile t fun y => { y with wins := y.wins.set w { y.wins.get w {} with out := (y.wins.get w {}).out - 1 } }
  | none => s

/-- A message's leaf bits after a leaf's counts (R157). -/
def Sent.counted (x : Sent) (j : Nat) (l : LeafCnt) : Sent :=
  let bit : BitVec 16 := 1#16 <<< j
  { x with
    ack := if passed l.ack x.msg.seq then x.ack ||| bit else x.ack
    allow := if passed l.allow x.msg.seq then x.allow ||| bit else x.allow }

/-- THE COUNTS OF A CONTROL FLIT (R157, R161, R184, R446): what they acknowledge, deliver and return. -/
def takeCounts (t : TileId) (h : HandleId) (leaf : CoreId) (ack allow rcv : Word) (s : State) : State :=
  let c := s.circ t h.val
  let old := c.leaf.get leaf.val {}
  let ack' := newer ack old.ack
  let new : LeafCnt := { ack := ack', allow := newer allow old.allow, rcv := newer ack' (newer rcv old.rcv) }
  let adv := new.ack != old.ack || new.rcv != old.rcv
  let sent := c.sent.map fun x => x.counted leaf.val new
  let s := s.modCirc t h.val fun c =>
    { c with
      leaf := c.leaf.set leaf.val new, sent := sent, lastCtl := s.now, ackLost := c.ackLost && !adv,
      timer := if adv then s.now else c.timer }
  let d := s.circ t h.val
  let s := (c.sent.zip sent).foldl (fun s p =>
    let full (x : Sent) : Bool := x.ack &&& d.leafMask == d.leafMask
    let s := if d.mcast && full p.2 && !full p.1 then completeCast t h p.2 s else s
    let s := if p.2.delivered d && !p.1.delivered d then afterDelivery t p.2 s else s
    if p.2.returned d && !p.1.returned d then afterReturn t p.2 s else s) s
  let s := s.modCirc t h.val fun c => { c with sent := c.sent.filter fun x => !(x.delivered c && x.returned c) }
  let s := kickStores t (s.dueH s.now t h.val .messageSend)
  let e := s.circ t h.val
  let s := if ((s.tile t).core 0).exited.isSome then s.dueT s.now t .tilePartEnd else s
  if e.state = .derigging ∧ e.drained then s.dueH (stepAfter s.now) t h.val .derigComplete else s

/-- Whether a control flit still finds its circuit. -/
def Circ.hears (c : Circ) : Bool := c.pathed && (c.state == .live || c.state == .derigging) && !c.rerr && !c.failed

/-- STATUS_FLIT (R157). -/
def execStatusFlit (leaf : CoreId) (ack allowc : Word) (s : State) : Host.Outcome State Fault Refusal :=
  let t := s.cur.tile
  let h : HandleId := fin 64 s.cur.ix
  if (s.circ t h.val).hears then .next (takeCounts t h leaf ack allowc ack s) else .next s

/-! ## Refusals -/

/-- The fault code that a NEGCODE names (R94, R110, R156, R444). -/
def negFault (n : Nat) : FaultCode :=
  match n with
  | 0x202 => .mpaHole
  | 0x210 => .leaseViolation
  | 0x212 => .onDieReadonly
  | 0x710 => .dataUncorrectable
  | 0x501 => .circuitNotLive
  | 0x533 => .windowMismatch
  | 0x420 => .reduceMismatch
  | _ => .windowRevoked

/-- The window of a tile through which an access to a virtual address on a handle went. -/
def State.winOf (s : State) (t : TileId) (h : HandleId) (va : Va) : Nat :=
  ((List.range 64).find? fun w =>
    let x := (s.tile t).wins.get w {}
    x.v && x.handle.toNat == h.val && decide (x.lbase.toNat * 2 ^ 21 ≤ va.toNat) &&
      decide (va.toNat < (x.lbase.toNat + x.size.toNat) * 2 ^ 21)).getD 0

/-- The record of a refusal (R437, R451, R456): WINDOW_REVOKED's fields, or those of a reply circuit that is not LIVE, in the
state `why`, or goes elsewhere (R107); a load that has met uncorrectable data names its granule g and the store (R437, R444). -/
def refusedRec (s : State) (t : TileId) (h : HandleId) (x : Sent) (code : BitVec 16) (why : BitVec 3) (g : Nat) : FaultRec :=
  let c := s.circ t h.val
  let n := code.toNat
  let load := x.ty == .short && x.msg.op != 0
  let e := c.ends.head?.getD { md := 0, tile := 0, port := 0 }
  let r : FaultRec := {
    code := negFault n, kind := if load then .precise else .async, task := (s.tile t).taskid,
    tile := some (s.ltileOf t, t), core := some (x.core, if x.clus = 2 then .m else .e),
    pc := if load then some x.pc else none, addr := some (true, x.msg.mpa.setWidth 60),
    fab := some { handle := BitVec.ofNat 6 h.val, port := c.port, mseq := x.msg.seq },
    extra := BitVec.ofNat 64 (e.md.toNat + 2 ^ 10 * e.tile.toNat), handlerWork := x.handlerWork }
  if n = 0x501 then { r with addr := some (false, x.va), fab := fabOf h.val, extra := why.setWidth 64 }
  else if n = 0x533 then
    { r with addr := some (false, x.va), fab := fabOf h.val, extra := BitVec.ofNat 64 (s.winOf t h x.va) }
  else if n = 0x710 ∧ load = true then
    { r with addr := some (true, BitVec.ofNat 60 g), extra := BitVec.ofNat 64 (s.storeCode g) }
  else r

/-- What the home found beside the NEGCODE of a refusal: the control flit has no field for it, so that of a home on another
module is an open choice (R456, log 45). -/
def whyOf (x : Sent) (s : State) : BitVec 3 × State :=
  match x.why with
  | some n => (n, s)
  | none => (s.fresh.1.truncate 3, s.fresh.2)

/-- The granule at which a load failed at its home: the control flit has no field for it either, so that of a home on another module
is an open choice among those that the load reads (R437, log 45). -/
def granuleOf (x : Sent) (s : State) : Nat × State :=
  match x.badAt with
  | some g => (g, s)
  | none =>
    let a := x.msg.mpa.toNat
    (if lane (x.msg.pay.getD 0 0) 0 = 0 then a / 32 * 32 else a / 256 * 256 + 32 * (s.fresh.1.toNat % 8), s.fresh.2)

/-- An atomic whose merge has failed at its home (R444): its fault is asynchronous, and what its word then returns is an open value
(log 57). -/
def loseMerge (t : TileId) (k : CoreId) (s : State) : State :=
  let (v, s) := s.fresh
  let s := s.modTile t fun x => { x with asks := x.asks.filter fun a => a.1 != k }
  kickStores t (s.modCore t k fun x => x.modClu .m fun y => { y with ans := some { due := s.now, val := v.truncate 32 } })

/-- A refusal taken by the source (R161, R451, R467, R470). -/
def takeRefusal (t : TileId) (h : HandleId) (leaf : CoreId) (nseq : Word) (code : BitVec 16) (s : State) : State :=
  let c := s.circ t h.val
  match c.sent.find? fun x => x.msg.seq == nseq with
  | none => s
  | some x =>
    if c.mcast then
      let bit : BitVec 16 := 1#16 <<< leaf.val
      let first := x.mask == 0 || decide (bit.toNat < (x.mask &&& (0 - x.mask)).toNat)
      s.modCirc t h.val fun c =>
        { c with
          sent := c.sent.map fun y =>
            if y.msg.seq = nseq then { y with mask := y.mask ||| bit, negcode := if first then code else y.negcode } else y }
    else
      let (why, s) := whyOf x s
      if x.msg.op = 1 then
        let w := x.msg.side.getD 0 0
        deliver (reduceRec s t x.core x.msg.mpa.toNat h.val x.msg.job nseq (w.extractLsb' 16 16).toNat
          (w.extractLsb' 10 6).toNat why.toNat x.handlerWork) s
      else if x.ty = .short ∧ x.msg.op = 2 ∧ code = 0x710 then
        deliver { refusedRec s t h { x with ty := .row } code why 0 with pc := none } (loseMerge t x.core s)
      else if x.ty = .short ∧ x.msg.op ≠ 0 then
        let (g, s) := if code = 0x710 then granuleOf x s else (0, s)
        failLoad t x.core (refusedRec s t h x code why g) s
      else deliver (refusedRec s t h x code why 0) s

/-- NEGATIVE_RESPONSE (R157, R451): a status flit with a refusal. -/
def execNegativeResponse (leaf : CoreId) (ack allowc nseq : Word) (code : BitVec 16) (s : State) :
    Host.Outcome State Fault Refusal :=
  let t := s.cur.tile
  let h : HandleId := fin 64 s.cur.ix
  if (s.circ t h.val).hears then .next (takeCounts t h leaf ack allowc ack (takeRefusal t h leaf nseq code s)) else .next s

/-! ## Resends -/

/-- A message whose flit in the ORB is found uncorrectable as it is to be sent again (R444): its entry retires unperformed, with
the record of WINDOW_REVOKED, and it goes out as one that its home counts and does not perform (log 57). -/
def retireBad (t : TileId) (h : HandleId) (x : Sent) (s : State) : State :=
  let r := refusedRec s t h { x with ty := .row } 0x710 0 0
  let s := s.modCirc t h.val fun c =>
    { c with
      sent := c.sent.map fun y =>
        if y.msg.seq = x.msg.seq then { y with bad := false, msg := { y.msg with void := true } } else y }
  if x.ty = .short ∧ x.msg.op ≠ 0 then failLoad t x.core { r with kind := .precise, pc := some x.pc } s
  else
    let s := if x.delivered (s.circ t h.val) then s else afterDelivery t x s
    kickStores t (deliver { r with pc := none } s)

/-- Every message that is not received sent again, in SEQ order, and every commit that is owed (R446, R463, R468). -/
def resendAll (t : TileId) (h : HandleId) (s : State) : State :=
  let c := s.circ t h.val
  let s := (c.sent.filter fun x => x.bad && c.unreceived x).foldl (fun s x => retireBad t h x s) s
  let c := s.circ t h.val
  let s := (c.sent.filter c.unreceived).foldl (fun s x => transmit t h x s) s
  (c.sent.filter c.uncommitted).foldl (fun s x => sendCommit t h x s) s

/-- KEEPALIVE (R156, R445, R463, R465): the counts of a receiving end; the last that a circuit waits for after a reroute or a
relight sets off its resends. At an inbound-only half it comes from the source of the peer's circuit: its counts are ignored,
and it shows that the light is there. -/
def execKeepalive (leaf : CoreId) (rcv allowc perf : Word) (s : State) : Host.Outcome State Fault Refusal :=
  let t := s.cur.tile
  let h : HandleId := fin 64 s.cur.ix
  if !(s.circ t h.val).hears then .next s
  else if (s.circ t h.val).inb then .next (s.modCirc t h.val fun c => { c with lastCtl := s.now })
  else
    let s := takeCounts t h leaf perf allowc rcv s
    let c := s.circ t h.val
    let left := c.resync &&& ~~~(1#16 <<< leaf.val)
    let s := s.modCirc t h.val fun c => { c with resync := left }
    if c.resync ≠ 0 ∧ left = 0 then .next ((resendAll t h s).dueH s.now t h.val .messageSend) else .next s

/-- The record of ACK_LOST (R437). -/
def ackLostRec (s : State) (t : TileId) (h : HandleId) (c : Circ) (oldest : Word) : FaultRec :=
  {
    code := .ackLost, kind := .async, task := (s.tile t).taskid, tile := some (s.ltileOf t, t),
    fab := some { handle := BitVec.ofNat 6 h.val, port := c.port, mseq := oldest },
    extra := BitVec.ofNat 64 ((c.sent.filter fun x => !x.returned c).length % 2 ^ 16 + if c.ackLost then 2 ^ 16 else 0) }

/-- RESEND_TIMEOUT (R446, R447): after 64,000 rc without an advance the source resends; with the oldest message resent
three times already it raises ACK_LOST, and the circuit reroutes, or is FAULTED at a second loss. -/
def execResendTimeout (s : State) : Host.Outcome State Fault Refusal :=
  let t := s.cur.tile
  let h : HandleId := fin 64 s.cur.ix
  let c := s.circ t h.val
  let un := c.sent.filter c.unreceived
  if !s.carries t c || (un.isEmpty && !c.sent.any c.uncommitted) then .next s
  else if s.now < c.timer + 64000 then .next (s.dueH (c.timer + 64000) t h.val .resendTimeout)
  else
    match un with
    | o :: _ =>
      if 3 ≤ o.resent then
        let r := ackLostRec s t h c (((c.sent.find? fun x => x.ack &&& c.leafMask != c.leafMask).getD o).msg.seq)
        if c.ackLost then .next (deliver r (faultCirc t h s))
        else .next (deliver r (failCirc t h (s.modCirc t h.val fun c => { c with ackLost := true })))
      else
        let s := s.modCirc t h.val fun c =>
          { c with sent := c.sent.map fun y => if y.msg.seq = o.msg.seq then { y with resent := y.resent + 1 } else y }
        .next (startTimer t h.val (resendAll t h s))
    | [] => .next (startTimer t h.val (resendAll t h s))

end Sys2Proof.Machine
end

