-- ==== Sys2Proof/Machine/Home.lean ====
section
/-!
DEFINITION. The home side of a circuit: messages as they arrive, their checks and performance, multicast leaves,
contributions, and the control flits that report them (spec/04 R110; spec/06 R153 to R161; spec/07 R186; spec/08 R198,
R199; spec/14 R323, R325; spec/16 R366; spec/22 R444, R445).
-/
namespace Sys2Proof.Machine

/-! ## Control flits -/

/-- The circuit of a source on this module. -/
def State.srcCirc (s : State) (src : Source) : Option Circ :=
  if src.md = s.hub.modid then some (s.circ src.tile src.handle.val) else none

/-- Whether the reverse control line of a home's circuit works now: its circuit carries, or, of a circuit from another module,
the circuit here that shares its path does (R162). -/
def State.hears (s : State) (t : TileId) (src : Source) : Bool :=
  match s.srcCirc src with
  | some c => s.carries src.tile c
  | none =>
    s.handles.any fun p =>
      let c := s.circ p.1 p.2.val
      p.1 == t && s.carries t c && c.meets src

/-- The first SEQ of a list that is not past, else a bound. -/
def firstOpen (r : Word) (l : List Word) : Word := l.foldl (fun a n => if passed a n then n else a) r

/-- ACKSEQ and ALLOWC of a home (R157, R186, R198): every message before the first that waits in staging or whose
refusal no flit has reported yet. -/
def homeCounts (x : Tile) (y : Home) : Word × Word :=
  let open' := (x.staged.filter fun c => c.src == some y.src).map (·.seq) ++ y.refusals.map (·.1)
  let a := firstOpen y.rcv open'
  (a, firstOpen a (y.held.map (·.seq)))

/-- The leaf index that a home's control flits carry (R156). -/
def srcLeaf (src : Source) : CoreId := src.leaf.getD 0

/-- A home that owes a control flit; a point-to-point one sends it in its next slot (R157, R445). -/
def markDirty (t : TileId) (src : Source) (s : State) : State :=
  match (s.tile t).home? src with
  | none => s
  | some y =>
    let s := s.modHome t src fun y => { y with dirty := true }
    if src.leaf.isNone then s.dueT (y.slotAt s.now) t (.controlSlot src) else s

/-- A control flit of a home leaves: it arrives at the source after its time of flight (R504); one to another module is seen
there only. -/
def sendCtl (t : TileId) (src : Source) (f : Ctl) (s : State) : State :=
  let s := s.modHome t src fun y => { y with lastFlit := some s.now }
  match s.srcCirc src, f.step src with
  | some c, some i => s.dueH (s.now + s.flightBack src.tile c f.leaf.val) src.tile src.handle.val i
  | _, _ => s

/-- A control flit of a home on its way to the source: a refusal if one is pending, else a status flit (R157). -/
def sendStatus (t : TileId) (src : Source) (s : State) : State :=
  match (s.tile t).home? src with
  | none => s
  | some y =>
    let (a, w) := homeCounts (s.tile t) { y with refusals := y.refusals.drop 1 }
    match y.refusals with
    | (n, code) :: r =>
      let s := s.modHome t src fun y => { y with refusals := r, dirty := !r.isEmpty }
      let s := sendCtl t src {
        ctype := 2, leaf := srcLeaf src, handle := src.handle, ack := a, allow := w, nseq := n, ncode := code } s
      if src.leaf.isNone ∧ !r.isEmpty then s.dueT (s.now + 15) t (.controlSlot src) else s
    | [] =>
      sendCtl t src { ctype := 1, leaf := srcLeaf src, handle := src.handle, ack := a, allow := w }
        (s.modHome t src fun y => { y with dirty := false })

/-- A keepalive of a home on its way to the source (R445). -/
def sendKeepalive (t : TileId) (src : Source) (s : State) : State :=
  match (s.tile t).home? src with
  | none => s
  | some y =>
    let (a, w) := homeCounts (s.tile t) y
    sendCtl t src { ctype := 4, leaf := srcLeaf src, handle := src.handle, ack := y.rcv, allow := w, nseq := a }
      (s.modHome t src fun y => { y with keep := false })

/-- CONTROL_SLOT (R157): a point-to-point home that owes a flit sends it in this slot. -/
def execControlSlot (src : Source) (s : State) : Host.Outcome State Fault Refusal :=
  let t := s.cur.tile
  match (s.tile t).home? src with
  | none => .next s
  | some y =>
    if !(y.dirty && src.leaf.isNone && s.hears t src) then .next s
    else if y.lastFlit = some s.now then .next (s.dueT (s.now + 15) t (.controlSlot src))
    else .next (sendStatus t src s)

/-- KEEPALIVE_SEND (R157, R445, R463): every 64 slots a point-to-point home sends a keepalive, unless this slot carries a
status flit; after a reroute or a relight its first flit is a keepalive. A home of a circuit from another module goes on counting
its slots while its line does not work. -/
def execKeepaliveSend (src : Source) (s : State) : Host.Outcome State Fault Refusal :=
  let t := s.cur.tile
  match (s.tile t).home? src with
  | none => .next s
  | some y =>
    if s.hears t src ∧ (s.now - y.liveAt) % 960 = 0 then
      let s := if y.lastFlit = some s.now then s
        else if y.dirty && !y.keep then sendStatus t src s else sendKeepalive t src s
      .next (s.dueT (s.now + 960) t (.keepaliveSend src))
    else if src.md ≠ s.hub.modid ∧ (s.now - y.liveAt) % 960 = 0 then .next (s.dueT (s.now + 960) t (.keepaliveSend src))
    else .next s

/-- LEAF_SLOT (R160, R463): a leaf of a tree sends its counts in its slot of every frame. -/
def execLeafSlot (src : Source) (s : State) : Host.Outcome State Fault Refusal :=
  let t := s.cur.tile
  match (s.tile t).home? src with
  | none => .next s
  | some y =>
    if s.hears t src ∧ (s.now - y.liveAt) % 240 = 15 * (srcLeaf src).val then
      let s := if y.keep then sendKeepalive t src s else sendStatus t src s
      .next (s.dueT (s.now + 240) t (.leafSlot src))
    else if src.md ≠ s.hub.modid ∧ (s.now - y.liveAt) % 240 = 15 * (srcLeaf src).val then .next (s.dueT (s.now + 240) t (.leafSlot src))
    else .next s

/-! ## Arrival -/

/-- The receiving port of a circuit at a tile. -/
def State.rxPort (s : State) (t : TileId) (src : Source) : BitVec 4 :=
  match s.srcCirc src with
  | some c => (c.ends.getD (srcLeaf src).val { md := 0, tile := 0, port := 0 }).port
  | none =>
    match s.handles.find? fun p =>
        p.1 == t && (s.circ p.1 p.2.val).ends.any fun e => e.md == src.md && e.tile == BitVec.ofNat 5 src.tile.val with
    | some p => (s.circ p.1 p.2.val).port
    | none => 0

/-- The record of a malformed message (R153, R437). -/
def malformedRec (s : State) (t : TileId) (src : Source) (why : Nat) : FaultRec :=
  {
    code := .flitMalformed, kind := .async, task := (s.tile t).taskid, tile := some (s.ltileOf t, t),
    fab := some { handle := BitVec.ofNat 6 src.handle.val, port := s.rxPort t src }, extra := BitVec.ofNat 64 why }

/-- The light of a source of another module is there at the inbound-only half that shares its path (R465). -/
def seeLight (t : TileId) (src : Source) (s : State) : State :=
  s.modTile t fun x =>
    { x with circs := x.circs.mapVals fun _ c => if c.inb && c.meets src then { c with lastCtl := s.now } else c }

/-- A home of a circuit from another module comes to be with its first message, and its slots count from then on; a leaf of a tree
sends in its slot of each frame (R160; log 46). -/
def ensureHome (t : TileId) (src : Source) (s : State) : State :=
  if src.md = s.hub.modid then s
  else
    let s := seeLight t src s
    if ((s.tile t).home? src).isNone then
      let s := s.modTile t fun x => { x with homes := x.homes ++ [{ src := src, liveAt := s.now }] }
      match src.leaf with
      | some j => s.dueT (s.now + 15 * j.val) t (.leafSlot src)
      | none => s.dueT (s.now + 960) t (.keepaliveSend src)
    else s

/-- A MESSAGE ARRIVES (R153, R155, R445): a malformed one is discarded with its record; one out of order, or found uncorrectable in
staging (R444), is discarded, and a flit is owed; the expected one is taken and performed, unless its source has retired it. -/
def arrive (src : Source) (ty : MsgType) (m : Msg) (flits : Nat) (perform : TileId → State → State) (s : State) :
    Host.Outcome State Fault Refusal :=
  let t := s.cur.tile
  let s := (ensureHome t src s).count t 0x0E none (64 * flits)
  match (s.tile t).home? src with
  | none => .next s
  | some y =>
    let why := msgFault ty m
    if why ≠ 0 then .next (deliver (malformedRec s t src why) s)
    else if m.seq ≠ y.rcv ∨ m.spoilt then .next (markDirty t src s)
    else
      let s := s.modHome t src fun y => { y with rcv := y.rcv + 1 }
      .next (markDirty t src (if m.void then s else perform t s))

/-- A message refused by its home (R157), with what the home found beside the code (R437, R456, R470; log 45). -/
def refuse (t : TileId) (src : Source) (seq : Word) (code : BitVec 16) (s : State) (why : BitVec 3 := 0)
    (g : Option Nat := none) : State :=
  let s := s.modHome t src fun y => { y with refusals := y.refusals ++ [(seq, code)] }
  if src.md = s.hub.modid ∧ src.leaf.isNone then
    s.modCirc src.tile src.handle.val fun c =>
      { c with sent := c.sent.map fun x => if x.msg.seq = seq then { x with why := some why, badAt := g } else x }
  else s

/-- What a home holds received and not yet returned, changed by n (R450). -/
def keepOne (t : TileId) (src : Source) (n : Int) (s : State) : State :=
  s.modHome t src fun y => { y with kept := ((y.kept : Int) + n).toNat }

/-- Rows performed at an MPA and on, by the inbound path (R105). -/
def performRows (mpa : Nat) (rows : List Row) (s : State) : State :=
  let s := askRows (asUnit .inbound) ((List.range rows.length).map fun i => mpa + 256 * i) s
  (rows.foldl (fun (p : State × Nat) r => (performRow p.2 r p.1, p.2 + 256)) (s, mpa)).1

/-- A word performed at an MPA, by the inbound path (R105). -/
def performShort (mpa : Nat) (w : Word) (s : State) : State := performWord mpa w (askRows (asUnit .inbound) [mpa] s)

/-- A unicast write checked and performed (R110). -/
def takeWrite (src : Source) (m : Msg) (mpa n : Nat) (f : State → State) (t : TileId) (s : State) : State :=
  let code := refusal s t src.md src.tile none mpa n true false
  if code = 0 then f s else refuse t src m.seq code s

/-- ROW (R110, R153): a row stored by a remote agent. -/
def execRow (src : Source) (m : Msg) (s : State) : Host.Outcome State Fault Refusal :=
  let a := m.mpa.toNat / 256 * 256
  arrive src .row m 4 (takeWrite src m a 256 (performRows a (m.pay.take 1))) s

/-- SHORT_STORE (R110, R321): a word stored by a remote agent. -/
def execShortStore (src : Source) (m : Msg) (s : State) : Host.Outcome State Fault Refusal :=
  let a := m.mpa.toNat / 4 * 4
  arrive src .short m 1 (takeWrite src m a 4 (performShort a (lane (m.pay.getD 0 0) (a / 4 % 64)))) s

/-- The stream of a RESTORE whose inbound half at a tile reaches the source of a message (R58). -/
def State.streamOf (s : State) (t : TileId) (src : Source) : Option Stream :=
  s.hub.stream.filter fun st =>
    st.restore && st.rigged.any fun p =>
      p.1 == t && (s.circ t p.2.val).ends.any fun e => e.md == src.md && e.tile == BitVec.ofNat 5 src.tile.val

/-- A chunk of a restored stream (R57, R58): a memory chunk of the stream's id is written at its MPA, a chunk of another id
is discarded, and the closing chunk gives the digest and the count. -/
def takeStream (st : Stream) (m : Msg) (s : State) : State :=
  let a := m.mpa.toNat / 256 * 256
  if m.mpa = 0xFFFFFFFFFF00 then
    let r := m.pay.getD 0 0
    s.modHub fun h => { h with stream := some { st with closing := some (r.truncate 256, (r.extractLsb' 256 64).toNat) } }
  else if m.side.getD 2 0 ++ m.side.getD 1 0 ≠ st.sid then s
  else
    let s := s.modHub fun h => { h with stream := some { st with chunks := st.chunks ++ [((m.side.getD 0 0).toNat, a, m.pay)] } }
    if m.mpa = 0xFFFFFFFFFE00 then s else performRows a m.pay s

/-- CHUNK (R58, R110, R356, R359): rows of a copy or of a SEND, or of a stream that is restored. -/
def execChunk (src : Source) (m : Msg) (s : State) : Host.Outcome State Fault Refusal :=
  let a := m.mpa.toNat / 256 * 256
  match s.streamOf s.cur.tile src with
  | some st => arrive src .chunk m (4 * m.pay.length) (fun _ s => takeStream st m s) s
  | none => arrive src .chunk m (4 * m.pay.length) (takeWrite src m a (256 * m.pay.length) (performRows a m.pay)) s

/-! ## Requests -/

/-- Why a home cannot reply on a handle of its tile: not LIVE, or it does not reach the tile that asks (R107); 0 where it
can. -/
def replyCheck (s : State) (t : TileId) (src : Source) (h : Nat) : BitVec 16 :=
  let c := s.circ t h
  if !c.usable then 0x501
  else if !c.goesTo src.md src.tile.val then 0x533 else 0

/-- The rc before which the reply to a request for a place does not leave: that of the step boundary of a bank (R95), or after the
bank cycles that a scratchpad row waits (R105). -/
def replyFrom (s : State) (mpa : Nat) : Nat :=
  (bankBoundary s mpa).getD (s.now + 2 * s.bankWait (asUnit .inbound) mpa)

/-- A reply handed to the sending unit of the home's tile (R107, R153): its TAG is SEQ[7:0] of the request. It leaves at rc n at the
earliest. -/
def sendReply (t : TileId) (h : Nat) (seq : Word) (isRow : Bool) (r : Row) (n : Nat) (s : State) : State :=
  admitMsg t h {
    msg := { blankMsg with tag := seq.truncate 8, pay := [r], side := [if isRow then 1 else 0] },
    ty := .reply, core := 0, clus := 0, posted := true, notBefore := n } s

/-- A request checked, performed and answered (R107, R110): f gives the value of the reply. -/
def takeRequest (src : Source) (m : Msg) (mpa n : Nat) (wr isRow : Bool) (f : State → Row × State) (t : TileId)
    (s : State) : State :=
  let h := (m.side.getD 0 0).toNat % 64
  let code := refusal s t src.md src.tile none mpa n wr (!wr)
  let code := if code = 0 then replyCheck s t src h else code
  if code = 0 then
    let n := replyFrom s mpa
    let (r, s) := f s
    sendReply t h m.seq isRow r n s
  else refuse t src m.seq code s (BitVec.ofNat 3 (s.circ t h).state.code) (s.badIn mpa n)

/-- SHORT_LOAD (R107, R110, R182): a load request. -/
def execShortLoad (src : Source) (m : Msg) (s : State) : Host.Outcome State Fault Refusal :=
  let isRow := lane (m.pay.getD 0 0) 0 != 0
  let n := if isRow then 256 else 4
  let a := m.mpa.toNat / n * n
  arrive src .short m 1 (takeRequest src m a n false isRow fun s =>
    (if isRow then s.readRow a else (s.readWord a).setWidth 2048,
      askRows (asUnit .inbound) [a] (countRead a n s))) s

/-- SHORT_ATOMIC (R110, R325): an atomic at its home. -/
def execShortAtomic (src : Source) (m : Msg) (s : State) : Host.Outcome State Fault Refusal :=
  let p := m.pay.getD 0 0
  let a := m.mpa.toNat / 4 * 4
  arrive src .short m 1 (takeRequest src m a 4 true false fun s =>
    let (old, s) := performAtomic (lane p 0).toNat a (lane p 1) (lane p 2) (askRows (asUnit .inbound) [a] s)
    (old.setWidth 2048, s)) s

/-- A core's answer to the request that waits for it (R318). -/
def answer (t : TileId) (k : CoreId) (tag : Byte) (r : Row) (s : State) : State :=
  let s := s.modTile t fun x =>
    { x with
      circs := x.circs.mapVals fun _ c =>
        { c with
          sent := c.sent.map fun y =>
            if y.ty = .short ∧ y.msg.op ≠ 0 ∧ y.core = k ∧ y.msg.seq.truncate 8 = tag then { y with replied := true } else y } }
  kickStores t (s.modCore t k fun x => x.modClu .m fun y => { y with ans := some { due := s.now, val := lane r 0, row := r } })

/-- REPLY (R107, R154, R318): the value of a load or an atomic comes back to the core that waits for it. -/
def execReply (src : Source) (m : Msg) (s : State) : Host.Outcome State Fault Refusal :=
  arrive src .reply m (if m.side.getD 0 0 = 0 then 1 else 4) (fun t s =>
    match (s.tile t).asks.find? fun a => a.2.1 == src.md && a.2.2.1 == BitVec.ofNat 5 src.tile.val && a.2.2.2 == m.tag with
    | none => s
    | some a =>
      answer t a.1 m.tag (m.pay.getD 0 0) (s.modTile t fun x => { x with asks := x.asks.erase a })) s

/-! ## Multicast -/

/-- The MPA of a multicast message at a leaf: its inbound base plus the offset (R323). -/
def castMpa (s : State) (t : TileId) (m : Msg) : Option Nat :=
  ((List.range 32).findSome? fun i =>
    let e := (s.tile t).inbs.get i {}
    if e.v && e.grp && e.gid == m.tag then some e else none).bind fun e =>
      (inbBase s t e).map fun b => (b + m.mpa.toNat / 256 * 256) % 2 ^ 48

/-- MULTICAST_ARRIVAL (R110, R186, R323, R366): a leaf drops a message of another generation, refuses what it must,
performs a G = 0 message and holds a G = 1 one for its commit. -/
def execMulticastArrival (src : Source) (m : Msg) (s : State) : Host.Outcome State Fault Refusal :=
  arrive src (if m.pay.length = 1 then .row else .chunk) m (4 * m.pay.length) (fun t s =>
    let g := (s.tile t).groups.get m.tag.toNat {}
    if !g.v || g.gen != m.gen then
      s.modTile t fun x =>
        { x with groups := x.groups.set m.tag.toNat { g with drop := if g.drop = 255 then 255 else g.drop + 1 } }
    else
      match castMpa s t m with
      | none => refuse t src m.seq 0x531 s
      | some a =>
        let code := refusal s t src.md src.tile (some m.tag) a (256 * m.pay.length) true false
        if code ≠ 0 then refuse t src m.seq code s
        else if m.g then
          keepOne t src 1 (s.modHome t src fun y => { y with held := y.held ++ [{ m with mpa := BitVec.ofNat 48 a }] })
        else performRows a m.pay s) s

/-- The held messages at the head of a leaf's list whose commits have come made visible, in SEQ order (R186). -/
def applyCommits (t : TileId) (src : Source) : Nat → State → State
  | 0, s => s
  | n + 1, s =>
    match (s.tile t).home? src with
    | none => s
    | some y =>
      match y.held with
      | m :: l =>
        if y.commits.contains m.seq then
          applyCommits t src n (performRows m.mpa.toNat m.pay (keepOne t src (-1) (s.modHome t src fun y =>
            { y with held := l, commits := y.commits.filter fun q => q != m.seq })))
        else s
      | [] => s

/-- COMMIT (R161, R186): a leaf makes a held message visible once the commits of those before it have come; one it has refused or
made visible is ignored. -/
def execCommit (src : Source) (sq : Word) (s : State) : Host.Outcome State Fault Refusal :=
  let t := s.cur.tile
  let s := if src.md = s.hub.modid then s else seeLight t src s
  match (s.tile t).home? src with
  | none => .next s
  | some y =>
    if y.held.any fun m => m.seq == sq then
      .next (markDirty t src (applyCommits t src y.held.length
        (s.modHome t src fun y => { y with commits := y.commits ++ [sq] })))
    else .next s

/-! ## Contributions -/

/-- The staged form of a contribution chunk (R196). -/
def stagedOf (src : Source) (m : Msg) : Staged :=
  let w (i : Nat) : Word := m.side.getD i 0
  {
    src := some src, origin := some src, seq := m.seq, slot := ((w 0).extractLsb' 10 6).toNat, cseq := ((w 0).extractLsb' 16 16).toNat,
    round := w 1, nchunk := ((w 2).extractLsb' 16 16).toNat, rop := (w 0).extractLsb' 4 4, rfmt := (w 0).extractLsb' 0 4,
    job := m.job, mpa := BitVec.ofNat 48 (m.mpa.toNat / 256 * 256), rows := m.pay, scales := m.side.drop 4,
    accepted := false }


/-- REDUCTION_CONTRIBUTION (R198): a chunk is refused, discarded, held for the next round or accepted. -/
def execReductionContribution (src : Source) (m : Msg) (s : State) : Host.Outcome State Fault Refusal :=
  arrive src .chunk m (4 * m.pay.length) (fun t s =>
    let c := stagedOf src m
    match fateOf s t c with
    | .refused n => refuse t src m.seq 0x420 s (BitVec.ofNat 3 n)
    | .discarded => s
    | .held => keepOne t src 1 (s.modTile t fun x => { x with staged := x.staged ++ [c] })
    | .accepted =>
      let s := keepOne t src 1 (noteAccepted t c s)
      dueApply t (s.modTile t fun x => { x with staged := x.staged ++ [{ c with accepted := true }] })) s

/-- A chunk done with: its source is told, or the local job that made it (R157, R198, R364). -/
def chunkDone (t : TileId) (c : Staged) (s : State) : State :=
  match c.src, c.jobRef with
  | some src, _ => markDirty t src (keepOne t src (-1) s)
  | none, some (q, id) => jobAck t c.core q id 1 s
  | none, none => s

/-- A held chunk decided again once its round has come (R198, R199). -/
def decideAgain (t : TileId) (s : State) (c : Staged) : State :=
  let out (s : State) : State := s.modTile t fun x => { x with staged := x.staged.erase c }
  match fateOf s t c with
  | .held => s
  | .discarded => chunkDone t c (out s)
  | .refused n =>
    match c.src, c.jobRef with
    | some src, _ => chunkDone t c (refuse t src c.seq 0x420 (out s) (BitVec.ofNat 3 n))
    | none, some (q, id) =>
      let hw := ((findJob s t c.core q id).map (·.handler)).getD false
      chunkDone t c (deliver (reduceRec s t c.core c.mpa.toNat 0 c.job 0 c.cseq c.slot n hw) (out s))
    | none, none => out s
  | .accepted =>
    let s := noteAccepted t c s
    s.modTile t fun x => { x with staged := putFirst c { c with accepted := true } x.staged }

/-- The chunks that may be applied, applied in order, with the rounds that they complete (R199). -/
def applyAll (t : TileId) : Nat → State → State
  | 0, s => s
  | n + 1, s =>
    match nextApply (s.tile t) with
    | none => s
    | some c =>
      let s := chunkDone t c (applyChunk t c s)
      applyAll t n (if roundDone (s.tile t) c.job then endRound t c.job s else s)

/-- CHUNK_APPLY (R198, R199): at the end of a unit cycle the reduction unit applies what it may; as index 1, in the cycle after a
round has advanced, it decides the chunks that are held. -/
def execChunkApply (s : State) : Host.Outcome State Fault Refusal :=
  let t := s.cur.tile
  if s.cur.ix = 1 then
    let s := ((s.tile t).staged.filter fun c => !c.accepted).foldl (decideAgain t) s
    .next (if (nextApply (s.tile t)).isSome then dueApply t s else s)
  else if (nextApply (s.tile t)).isNone then .next s
  else
    .next (applyAll t ((s.tile t).staged.length + 1) (s.modTile t fun x => { x with unitDone := some (s.now / 2) }))

end Sys2Proof.Machine
end

