-- ==== Sys2Proof/Machine/SemFile.lean ====
section
/-!
DEFINITION. The cycles of the semaphore file and of the walker (spec/07 R187 to R190; spec/11 R271 to R274; spec/03 R67
to R70; spec/22 R452 to R455).
-/
namespace Sys2Proof.Machine

/-! ## Answers -/

/-- The first rc of the semaphore-file cycle that rc n belongs to (R272). -/
def semBegin (n : Nat) : Nat := n / 2 * 2

/-- The answer of the file to the C cluster of a core: it is there 4 rc after the cycle's first rc (R272). -/
def semAnswer (t : TileId) (k : CoreId) (v : Word) (ok : Bool) (f : Option FaultRec) (s : State) : State :=
  s.modCore t k fun x =>
    x.modClu .c fun y => { y with ans := some { due := semBegin s.now + 4, val := v, ok := ok, fault := f } }

/-- An acquire of the C cluster of a core completes (R178): the core follows what was released to it (R180). -/
def semAcquire (t : TileId) (k : CoreId) (v : Word) (s : State) : State :=
  semAnswer t k v true none (s.modCore t k fun x => { x with learnt := s.now })

/-- The precise fault of a semaphore word that waits (R437, R452). -/
def semRec (s : State) (t : TileId) (k : CoreId) (n : Nat) (code : FaultCode) : FaultRec :=
  let x := s.core t k
  {
    code := code, kind := .precise, task := (s.tile t).taskid, tile := some (s.ltileOf t, t), core := some (k, .c),
    pc := some x.c.pc, extra := BitVec.ofNat 64 n, handlerWork := x.trap && x.c.redir.isNone }

/-- A semaphore word of core k faults when it lands. -/
def semFault (t : TileId) (k : CoreId) (n : Nat) (code : FaultCode) (s : State) : State :=
  semAnswer t k 0 false (some (semRec s t k n code)) s

/-- Semaphore n with f applied. -/
def modSem (t : TileId) (n : Nat) (f : Sem → Sem) (s : State) : State :=
  s.modTile t fun x => { x with sems := x.sems.set n (f (x.sem n)) }

/-- The place of a waiter among those of its core (R70). -/
def waiterRank : Option QueueId → Nat
  | none => 0
  | some .matrix => 1
  | some .handler => 2
  | some (.chan c) => 3 + c.val
  | some .send => 11

/-- The head of a queue looked at again at rc n. -/
def kickAt (n : Nat) (t : TileId) (k : CoreId) (q : QueueId) (s : State) : State :=
  match q with
  | .matrix | .handler => s.dueK n t k .matrixJobOffer
  | .chan c => s.dueH n t c.val .channelJobStart
  | .send => s.dueK n t k .sendJobStart

/-- The wait of a queue's head satisfied in the first rc after this cycle (R272, R334). -/
def jobServed (t : TileId) (k : CoreId) (q : QueueId) (s : State) : State :=
  match ((s.core t k).queue q).find? fun j => j.waitSent && !j.waitDone with
  | some j =>
    let n := semBegin s.now + 2
    kickAt n t k q (modJob t k q j.id (fun j => { j with waitDone := true, start := n }) s)
  | none => s

/-- The wait of a queue's head names a phase-mode semaphore (R334): the job faults. -/
def jobMode (t : TileId) (k : CoreId) (q : QueueId) (n : Nat) (s : State) : State :=
  match ((s.core t k).queue q).find? fun j => j.waitSent && !j.waitDone with
  | some j => parkJob t k q { j with waitSent := false } (jobRec s t k j .semMode (BitVec.ofNat 64 n)) s
  | none => s

/-! ## One cycle of one semaphore -/

/-- PHASE_OVERFLOW (R454). -/
def phaseOverflow (t : TileId) (n : Nat) (arrv : Bool) (s : State) : State :=
  deliver {
    code := .phaseOverflow, kind := .async, task := (s.tile t).taskid, tile := some (s.ltileOf t, t),
    extra := BitVec.ofNat 64 (n + if arrv then 256 else 0) } s

/-- One arrival in phase mode, saturating (R189, R454). -/
def addArrival (t : TileId) (n : Nat) (s : State) : State :=
  let y := (s.tile t).sem n
  if y.arrv = 0xFFFF then phaseOverflow t n true s else modSem t n (fun y => { y with arrv := y.arrv + 1 }) s

/-- Bytes added in phase mode, saturating (R189, R454). -/
def addBytes (t : TileId) (n b : Nat) (s : State) : State :=
  let y := (s.tile t).sem n
  if y.bytes.toNat + b < 2 ^ 32 then modSem t n (fun y => { y with bytes := BitVec.ofNat 32 (y.bytes.toNat + b) }) s
  else phaseOverflow t n false (modSem t n (fun y => { y with bytes := 0xFFFFFFFF }) s)

/-- One increment in counting mode, saturating (R453). -/
def addOne (t : TileId) (n : Nat) (s : State) : State :=
  modSem t n (fun y => { y with count := if y.count = 0xFFFFFFFF then y.count else y.count + 1 }) s

/-- The job at the head of a queue of a core (R335). -/
def Core.head? (x : Core) (q : QueueId) : Option Job :=
  match q with
  | .matrix | .handler => matHead (x.queue q)
  | _ => (x.queue q).head?

/-- The job at the head of a queue of a core, if it waits on semaphore n: its wait has landed or not (R274, R334, R335). -/
def Core.headWaits (x : Core) (n : Nat) (q : QueueId) : Bool :=
  (x.head? q).any fun j => j.f.we && decide (j.f.ws.toNat = n) && !j.waitDone

/-- Whether a job at the head of an engine queue of a tile waits on semaphore n (R274). -/
def Tile.jobWaits (x : Tile) (n : Nat) : Bool :=
  (fins 16).any fun k => (List.range 11).any fun i => (x.core k).headWaits n (queueOf i)

/-- A SEMSET lands (R271, R274). -/
def semSet (t : TileId) (n : Nat) (k : CoreId) (phase : Bool) (v : Word) (s : State) : State :=
  let y := (s.tile t).sem n
  if !y.waiters.isEmpty || !y.bwaits.isEmpty || (s.tile t).jobWaits n then semFault t k n .semBusy s
  else
    semAnswer t k 0 true none
      ((modSem t n (fun _ => if phase then { phaseMode := true, expa := v.truncate 16 } else { count := v }) s).modTile t fun x =>
        { x with badSems := x.badSems.filter fun m => m.toNat != n })

/-- An increment lands (R188, R189, R190, R452, R453): the state after it, and whether it is a signal (R33). -/
def semIncr (t : TileId) (n : Nat) (token : Word) (l : Landing) (s : State) : State × Bool :=
  let k := l.core
  let y := (s.tile t).sem n
  match l.op, y.phaseMode with
  | .sig a, false =>
    if y.count.toNat + a.toNat < 2 ^ 32 then
      (semAnswer t k 0 true none (modSem t n (fun y => { y with count := y.count + a }) s), true)
    else (semFault t k n .semOverflow s, false)
  | .sig _, true => (semAnswer t k 0 true none (addArrival t n s), true)
  | .arrive, true => (semAnswer t k token true none (addArrival t n s), true)
  | .arrive, false => (semFault t k n .semMode s, false)
  | .expect a, true =>
    if y.expb.toNat + a.toNat < 2 ^ 32 then
      (semAnswer t k 0 true none (modSem t n (fun y => { y with expb := y.expb + a }) s), false)
    else (semFault t k n .semOverflow s, false)
  | .expect _, false => (semFault t k n .semMode s, false)
  | .engine (some b), true => (addBytes t n b s, true)
  | .engine none, true => (addArrival t n s, true)
  | .engine _, false => (addOne t n s, true)
  | .incr, true => (addArrival t n s, true)
  | .incr, false => (addOne t n s, true)
  | _, _ => (s, false)

/-- Whether a semaphore's completion evaluation would advance its phase as it stands (R189). -/
def Sem.complete (y : Sem) : Bool :=
  y.phaseMode && decide (y.expa.toNat ≤ y.arrv.toNat) && decide (y.expb.toNat ≤ y.bytes.toNat)

/-- The phase-mode completion evaluation (R189): whether the phase advanced. -/
def semComplete (t : TileId) (n : Nat) (s : State) : State × Bool :=
  let y := (s.tile t).sem n
  if y.complete then
    (modSem t n (fun y =>
      { y with arrv := y.arrv - y.expa, bytes := y.bytes - y.expb, expb := 0, phase := y.phase + 1 }) s, true)
  else (s, false)

/-- A wait lands: it joins the queue, or faults on a phase-mode semaphore (R70, R271, R334). -/
def semJoin (t : TileId) (n : Nat) (s : State) (l : Landing) : State :=
  let y := (s.tile t).sem n
  match l.op with
  | .wait a =>
    if y.phaseMode then semFault t l.core n .semMode s
    else modSem t n (fun y => { y with waiters := y.waiters ++ [{ core := l.core, src := none, amount := a }] }) s
  | .jobWait q =>
    if y.phaseMode then jobMode t l.core q n s
    else modSem t n (fun y => { y with waiters := y.waiters ++ [{ core := l.core, src := some q, amount := 1 }] }) s
  | _ => s

/-- The queue served from its head while COUNT covers the head's amount (R188, R272). -/
def semServe (t : TileId) (n : Nat) : Nat → State → State
  | 0, s => s
  | m + 1, s =>
    let y := (s.tile t).sem n
    match y.waiters with
    | [] => s
    | w :: r =>
      if w.amount ≤ y.count then
        let s := modSem t n (fun y => { y with count := y.count - w.amount, waiters := r }) s
        let s := match w.src with
          | none => semAcquire t w.core (y.count - w.amount) s
          | some q => jobServed t w.core q s
        semServe t n m s
      else s

/-- A SEMTRY lands (R188). -/
def semTry (t : TileId) (n : Nat) (s : State) (l : Landing) : State :=
  let y := (s.tile t).sem n
  match l.op with
  | .try a =>
    if y.phaseMode then semFault t l.core n .semMode s
    else if y.waiters.isEmpty ∧ a ≤ y.count then
      semAcquire t l.core 1 (modSem t n (fun y => { y with count := y.count - a }) s)
    else semAnswer t l.core 0 false none s
  | _ => s

/-- A BWAIT lands (R190, R271). -/
def semBwait (t : TileId) (n : Nat) (s : State) (l : Landing) : State :=
  match l.op with
  | .bwait v =>
    if ((s.tile t).sem n).phaseMode then modSem t n (fun y => { y with bwaits := y.bwaits ++ [(l.core, v)] }) s
    else semFault t l.core n .semMode s
  | _ => s

/-- The BWAITs whose token PHASE has reached complete (R190). -/
def semRelease' (t : TileId) (n : Nat) (s : State) : State :=
  let y := (s.tile t).sem n
  let (ok, later) := y.bwaits.partition fun w => !(y.phase - w.2).slt 0
  ok.foldl (fun s w => semAcquire t w.1 y.phase s) (modSem t n (fun y => { y with bwaits := later }) s)

/-- A SEMRD lands (R187, R271). -/
def semRd (t : TileId) (n : Nat) (s : State) (l : Landing) : State :=
  let y := (s.tile t).sem n
  match l.op with
  | .rd w =>
    semAnswer t l.core (if w.toNat < 4 then y.word w.toNat else if y.phaseMode then 1 else 0) true none s
  | _ => s

/-- The step of R272's order that an operation belongs to. -/
def SemOp.step : SemOp → Nat
  | .set _ _ => 1
  | .sig _ => 2
  | .arrive => 2
  | .expect _ => 2
  | .engine _ => 2
  | .incr => 2
  | .wait _ => 4
  | .jobWait _ => 4
  | .try _ => 5
  | .bwait _ => 6
  | .rd _ => 7

/-- The place of an operation among those of its step: by core, then by the sources of a core (R70, R272). -/
def Landing.rank (l : Landing) : Nat :=
  16 * l.core.val + (match l.op with
    | .jobWait q => waiterRank (some q)
    | _ => 0)

/-- Operations in order of rank, those of one rank in order of arrival. -/
def sortLandings (l : List Landing) : List Landing :=
  l.foldl (fun (acc : List Landing) x =>
    (acc.takeWhile fun y => decide (y.rank ≤ x.rank)) ++ x :: acc.dropWhile fun y => decide (y.rank ≤ x.rank)) []

/-- The vectors of the host semaphore map that a signal to semaphore n of a tile raises (R33). -/
def hostSignal (t : TileId) (n : Nat) (s : State) : State :=
  (List.range 2032).foldl (fun s i =>
    let e := s.hub.bar0.get (0x18000 + i) 0
    if e.getLsbD 31 ∧ (e.truncate 8 : Byte).toNat = n then
      match s.task? (e.extractLsb' 10 16) with
      | some x =>
        if x.stat = .running ∧ s.bound x (e.extractLsb' 26 5).toNat = some t then raiseVec (16 + i) s else s
      | none => s
    else s) s

/-- A phase advance reported to the dispatcher where a hold watches it (R206). -/
def holdReport (t : TileId) (n : Nat) (s : State) : State :=
  if s.hub.tasks.any fun x => (match x.hold with
      | some (id, i, m, _) => decide (m = n) && (match s.task? id with
        | some y => s.bound y i == some t
        | none => false)
      | none => false)
  then pokeDispatcher s
  else s

/-- An operation on a semaphore found uncorrectable (R444): a word faults, and so does a job whose wait lands. A round's or a
rig program's increment has no word to fault and is lost (DESIGN CHOICE, log 57). -/
def semBadOp (t : TileId) (n : Nat) (s : State) (l : Landing) : State :=
  let addr : Option (Bool × Va) := some (true, BitVec.ofNat 60 (semMpa t n))
  match l.op with
  | .set _ _ | .engine _ | .incr => s
  | .jobWait q =>
    match ((s.core t l.core).queue q).find? fun j => j.waitSent && !j.waitDone with
    | some j => parkJob t l.core q { j with waitSent := false } (jobRec s t l.core j .dataUncorrectable 5 addr) s
    | none => s
  | _ => semAnswer t l.core 0 false (some { semRec s t l.core 5 .dataUncorrectable with addr := addr }) s

/-- ONE CYCLE OF ONE SEMAPHORE (R272): the operations that land in it, in the seven steps of that order. One found
uncorrectable takes none but a SEMSET, which rewrites it (R444). Several signals that land in one cycle raise the vector that
the host maps to the semaphore once, not once each: R34 does not say (DESIGN CHOICE, log 62). -/
def semCycle (t : TileId) (n : Nat) (ops : List Landing) (s : State) : State :=
  let at' (i : Nat) : List Landing := sortLandings (ops.filter fun l => l.op.step == i)
  let s := (at' 1).foldl (fun s l =>
    match l.op with
    | .set p v => semSet t n l.core p v s
    | _ => s) s
  if (s.tile t).badSems.any fun m => m.toNat == n then
    (List.range 6).foldl (fun s i => (at' (i + 2)).foldl (semBadOp t n) s) s
  else
  let token := ((s.tile t).sem n).phase + 1
  let (s, signal) := (at' 2).foldl (fun (p : State × Bool) l =>
    let (s, b) := semIncr t n token l p.1
    (s, p.2 || b)) (s, false)
  let (s, adv) := semComplete t n s
  let s := (at' 4).foldl (semJoin t n) s
  let s := semServe t n (((s.tile t).sem n).waiters.length + 1) s
  let s := (at' 5).foldl (semTry t n) s
  let s := semRelease' t n ((at' 6).foldl (semBwait t n) s)
  let s := (at' 7).foldl (semRd t n) s
  let s := if signal then hostSignal t n s else s
  if adv then holdReport t n s else s

/-- SEMAPHORE_FILE_CYCLE (R189, R272): the operations of a tile's file that were ready when the cycle began land, by
semaphore; a phase whose count the phase before left complete is evaluated in the next cycle. -/
def execSemaphoreFileCycle (s : State) : Host.Outcome State Fault Refusal :=
  let t := s.cur.tile
  let (ok, later) := (s.tile t).landing.partition fun l => decide (l.ready ≤ semBegin s.now)
  let s := s.modTile t fun x => { x with landing := later }
  let s := (List.range 256).foldl (fun s n =>
    let ops := ok.filter fun l => decide (l.sem.toNat = n)
    if ops.isEmpty && !((s.tile t).sem n).complete then s else semCycle t n ops s) s
  .next (if (s.tile t).sems.rows.any fun p => p.2.complete then s.dueT (semBegin s.now + 3) t .semaphoreFileCycle else s)

/-! ## The walker -/

/-- The request that the walker serves next: by the cycle of its arrival, then by core (R69). -/
def firstWalk (l : List WalkReq) (before : Nat) : Option WalkReq :=
  l.foldl (fun (a : Option WalkReq) r =>
    if before ≤ r.cyc then a
    else
      match a with
      | none => some r
      | some b => if r.cyc < b.cyc ∨ (r.cyc = b.cyc ∧ r.core < b.core) then some r else some b) none

/-- WALKER_CYCLE (R67, R68, R69): at the end of a walker cycle one request is served; the answer is there 6 rc after the
first rc of the cycle. -/
def execWalkerCycle (s : State) : Host.Outcome State Fault Refusal :=
  let t := s.cur.tile
  match firstWalk (s.tile t).walkq (s.now / 2) with
  | none => .next s
  | some r =>
    let s := s.modTile t fun x => { x with walkq := x.walkq.erase r }
    let s := if (s.tile t).walkq.isEmpty then s else s.dueT (2 * (s.now / 2) + 2) t .walkerCycle
    let nest := (s.tile t).nests.get r.nest []
    let ord := (s.tile t).cursors.get r.nest 0
    let ok := nestHas nest r.core && decide (ord < nestTotal nest)
    let s := if ok then
        (s.modTile t fun x => { x with cursors := x.cursors.set r.nest (ord + 1) }).count t 0x12 none 1
      else s
    .next (s.modCore t r.core fun x => x.modClu .c fun y =>
      { y with ans := some { due := 2 * (s.now / 2) + 4, val := BitVec.ofNat 32 ord, ok := ok } })

end Sys2Proof.Machine
end

