-- ==== Sys2Proof/Machine/CoreEvents.lean ====
section
/-!
DEFINITION. What time does to a core: deadlock and the watchdog (spec/21 R427, R429), gating and waking (spec/09 R230,
R231), and the stop of a core for pre-emption (spec/03 R82 to R85, spec/21 R428).
-/
namespace Sys2Proof.Machine

/-! ## Deadlock and the watchdog -/

/-- EXTRA of CLUSTER_DEADLOCK: the code of each cluster's stall (R427). -/
def stallCodes (x : Core) : Nat := x.c.stall + 16 * x.vc.stall + 256 * x.m.stall + 4096 * x.ec.stall

/-- CLUSTER_DEADLOCK (R427): 65,536 engine cycles without an issue, with every cluster stalled internally. -/
def execClusterDeadlock (s : State) : Host.Outcome State Fault Refusal :=
  let t := s.cur.tile
  let k := s.cur.core
  let x := s.core t k
  if !x.stuck then .next s
  else if s.now < x.quietAt + 65536 * x.cdiv then .next (armDeadlock t k s)
  else
    .next (deliver {
      code := .clusterDeadlock, kind := .async, task := (s.tile t).taskid, tile := some (s.ltileOf t, t),
      core := some (k, .c), extra := BitVec.ofNat 64 (stallCodes x) } s)

/-- The pre-emption request of a tile's task, by its rc. -/
def State.request (s : State) (t : TileId) : Option Nat := (s.tileTask t).bind (·.preemptAt)

/-- Whether a core is watched while a request is pending (R429). -/
def Core.watched (x : Core) : Bool := !x.stopped && !x.halted && x.exited.isNone

/-- WATCHDOG (R86, R422, R429): the timer of a watched core at 320,000 rc; the record names the last C word that it issued. -/
def execWatchdog (s : State) : Host.Outcome State Fault Refusal :=
  let t := s.cur.tile
  let k := s.cur.core
  let x := s.core t k
  if (s.request t).isNone || !x.watched then .next s
  else if s.now < x.watch + 320000 then .next (s.dueK (x.watch + 320000) t k .watchdog)
  else
    .next (deliver {
      code := .watchdog, kind := .async, task := (s.tile t).taskid, tile := some (s.ltileOf t, t),
      core := some (k, .c), pc := some x.lastC, extra := BitVec.ofNat 64 (x.issued % 2 ^ 32) } s)

/-! ## Gating -/

/-- CORE_GATE (R230): a core that has been idle for 256 cycles gates. -/
def execCoreGate (s : State) : Host.Outcome State Fault Refusal :=
  let t := s.cur.tile
  let k := s.cur.core
  let x := s.core t k
  if gateIdle (s.tile t) k && !x.gated && decide (gateTime x.idleAt ≤ s.now) then
    .next (s.modCore t k fun x => { x with gated := true, gateAt := s.now, wakeReq := false, woken := false })
  else .next s

/-- Whether a core asks the arbiter for its wake (R231). -/
def Core.asks (x : Core) (now : Nat) : Bool := x.gated && x.wakeReq && !x.woken && decide (x.gateAt + 4096 ≤ now)

/-- The rc from which the arbiter of a tile may grant (R231). -/
def Tile.grantFrom (x : Tile) : Nat :=
  match x.lastGrant with
  | none => 0
  | some n => n + 128

/-- WAKE_REQUEST (R231): a gated core asks the tile's in-rush arbiter. -/
def execWakeRequest (s : State) : Host.Outcome State Fault Refusal :=
  let t := s.cur.tile
  if (s.core t s.cur.core).asks s.now then
    .next (s.dueT (Nat.max s.now (s.tile t).grantFrom) t .inrushGrant)
  else .next s

/-- INRUSH_GRANT (R231): one requesting core is granted, round robin from the core after the one last woken, no closer
than 64 cycles after the grant before; it wakes 200 cycles later. -/
def execInrushGrant (s : State) : Host.Outcome State Fault Refusal :=
  let t := s.cur.tile
  let x := s.tile t
  match (rrCores x.lastWoken).filter fun k => (x.core k).asks s.now with
  | [] => .next s
  | k :: l =>
    if s.now < x.grantFrom then .next (s.dueT x.grantFrom t .inrushGrant)
    else
      let s := s.modTile t fun x => { x with lastGrant := some s.now, lastWoken := k }
      let s := (s.modCore t k fun x => { x with woken := true }).dueK (s.now + 400) t k .coreWake
      .next (if l.isEmpty then s else s.dueT (s.now + 128) t .inrushGrant)

/-- CORE_WAKE (R231, R413): the core issues again, first of all its handler where a fault woke it; the stop that a request waits
for is judged. -/
def execCoreWake (s : State) : Host.Outcome State Fault Refusal :=
  let t := s.cur.tile
  let k := s.cur.core
  if (s.core t k).gated && (s.core t k).woken then
    let s := s.modCore t k fun x => { x with gated := false, wakeReq := false, woken := false, idleAt := s.now }
    let s := takeHeld t k s
    .next (if (s.request t).isSome then s.dueK s.now t k .coreStop else s)
  else .next s

/-! ## Stopping for pre-emption -/

/-- The waits of R84 that an instruction can stand in. -/
def waitsR84 : Instr → Bool
  | .semwait _ _ => true
  | .bwait _ _ => true
  | .iter _ _ => true
  | .wmwait _ _ => true
  | .cwait _ _ => true
  | _ => false

/-- The instruction at a word of a cluster's stream, if it is one. -/
def State.instrAt (s : State) (t : TileId) (cl : Cluster) (p : Pc) : Option Instr :=
  match decode (.cluster cl) ((s.tile t).store.get p.toNat unloaded) with
  | .ok i => some i
  | .error _ => none

/-- How a word of the last bundle stands for R84: none where it keeps the bundle from being a waiting bundle, else
whether it is stalled on a wait. -/
def waitState (s : State) (t : TileId) (k : CoreId) (cl : Cluster) : Option Bool :=
  let x := s.core t k
  let y := x.clu cl
  let p := ((x.bundlePcs.getD cl.code (0, [])).1)
  if y.req.isSome then
    if y.ans.isNone && ((s.instrAt t cl p).map waitsR84).getD false then some true else none
  else if !(x.bundleOn.getD cl.code true) then some false
  else
    match s.instrAt t cl p with
    | some (.nop _ _) => some false
    | _ => none

/-- Whether the last bundle of a core is a waiting bundle (R84). -/
def waitingBundle (s : State) (t : TileId) (k : CoreId) : Bool :=
  let x := s.core t k
  let l := [Cluster.c, .v, .m, .e].map (waitState s t k)
  x.waitBundle && x.bundleWait && l.all Option.isSome && l.any fun o => o == some true

/-- Everything that a core's C cluster has on its way to the semaphore file and the walker, and its places there,
withdrawn (R84). -/
def dropWaits (t : TileId) (k : CoreId) (s : State) : State :=
  let own (op : SemOp) : Bool :=
    match op with
    | .wait _ => true
    | .bwait _ => true
    | _ => false
  s.modTile t fun x =>
    { x with
      landing := x.landing.filter fun l => !(l.core == k && own l.op)
      walkq := x.walkq.filter fun r => r.core != k
      sems := x.sems.mapVals fun _ y =>
        { y with
          waiters := y.waiters.filter fun w => !(w.core == k && w.src.isNone)
          bwaits := y.bwaits.filter fun w => w.1 != k } }

/-- A core stopped for pre-emption (R82, R85): it issues nothing, its latches are invalid, its engines freeze. -/
def stopCore (t : TileId) (k : CoreId) (s : State) : State :=
  let s := withdrawCore t k s
  let s := s.modCore t k fun x =>
    let x := (x.mapClu fun _ y => { y with stat := .stopped, held := false, joined := false, req := none, ans := none, stall := 0 })
    { x.dropAllLatches with fpflags := x.flagsAll, fpend := [], stopped := true, safeLast := none, waitBundle := false, bundleWait := false }
  (s.dueK s.now t k .engineFreeze).dueT s.now t .tilePartEnd

/-- EXTRA of SAFEPT_STATE: the conditions of R83 that are not met (R428). -/
def safeptBits (x : Core) : Nat :=
  (if x.lq.isEmpty then 0 else 1) + (if x.sq.isEmpty then 0 else 2) + (if x.c.xq.isEmpty then 0 else 4) +
    (if x.vc.xq.isEmpty then 0 else 8) + (if x.m.xq.isEmpty then 0 else 16) + (if x.ec.xq.isEmpty then 0 else 32) +
    (if x.pend.isEmpty then 0 else 64)

/-- A core stopped at its stopping bundle, or its task ended with SAFEPT_STATE where R83 is not met (R428). -/
def stopChecked (t : TileId) (k : CoreId) (s : State) : State :=
  let x := s.core t k
  if safeptBits x != 0 then
    deliver {
      code := .safeptState, kind := .async, task := (s.tile t).taskid, tile := some (s.ltileOf t, t),
      core := some (k, .c), pc := some (x.bundlePcs.getD 0 (0, [])).1, extra := BitVec.ofNat 64 (safeptBits x) } s
  else stopCore t k s

/-- A waiting bundle abandoned without effect (R84): every program counter at it, its waits given up, and the entries of xq
that its words popped when they issued back in their place. -/
def abandonBundle (t : TileId) (k : CoreId) (s : State) : State :=
  let s := dropWaits t k s
  let s := s.modCore t k fun x =>
    x.mapClu fun cl y =>
      let p := x.bundlePcs.getD cl.code (y.pc, y.loops)
      let q := x.bundleXqs.getD cl.code y.xq
      let n := q.length - y.xq.length
      { y with
        pc := p.1, loops := p.2, noSync := false, xq := q.take n ++ y.xq, xk := ((q.take n).map fun e => (e.1, y.know)) ++ y.xk,
        badXq := y.badXq.map (· + n) }
  stopChecked t k s

/-- The stop after a SAFEPT bundle (R82, R83), or where a core stands: once its words have completed, the core stops there, or its task ends with
SAFEPT_STATE. -/
def stopAtSafept (t : TileId) (k : CoreId) (s : State) : State :=
  let x := s.core t k
  if x.c.req.isSome || x.vc.req.isSome || x.m.req.isSome || x.ec.req.isSome then
    let s := s.modCore t k fun x => x.mapClu fun _ y => { y with stat := .stopped, held := false }
    s.dueU (nextEc s.now x.cdiv) t k 1 .coreStop
  else stopChecked t k s

/-- Whether the supervisor of the task on a tile is stopped for pre-emption. -/
def State.supStopped (s : State) (t : TileId) : Bool :=
  ((s.tileTask t).bind s.supervisor).any fun t0 => (s.core t0 0).stopped

/-- CORE_STOP (R82, R83, R84, R277, R418, R428): while a request is pending, a core stops after a SAFEPT bundle (index 1)
or at a waiting bundle; one that has halted or exited stops once its words have completed, under R83 too (log 21), and so does
one that waits for a supervisor which is stopped (log 59); one in its handler does not. A gated core is woken first of all
(R231). -/
def execCoreStop (s : State) : Host.Outcome State Fault Refusal :=
  let t := s.cur.tile
  let k := s.cur.core
  let x := s.core t k
  if (s.request t).isNone || x.stopped then .next s
  else if x.gated then .next (wakeCore t k s)
  else if x.halted || x.exited.isSome then .next (stopAtSafept t k s)
  else if x.waitsSup then .next (if s.supStopped t then stopAtSafept t k s else s)
  else if x.trap then .next s
  else if s.cur.ix = 1 ∧ x.safeLast.isSome then .next (stopAtSafept t k s)
  else if waitingBundle s t k then .next (abandonBundle t k s)
  else .next s

end Sys2Proof.Machine
end

