-- ==== Sys2Proof/Machine/RigWords.lean ====
section
/-!
DEFINITION. The words of a rig program (spec/17 R377 to R388, spec/24 R487).
-/
namespace Sys2Proof.Machine

/-! ## Shared operations -/

/-- The rig program of a task changed. -/
def modRig (id : BitVec 16) (f : Rig → Rig) (s : State) : State := s.modTask id fun x => { x with rig := f x.rig }

/-- The program goes on n words from here (R382). -/
def rigGo (x : Task) (n : Int) (s : State) : State := modRig x.id (fun r => { r with pc := x.rig.pc + n }) s

/-- The word ends the step (R378). -/
def rigStop (s : State) : State := { s with cur := { s.cur with res := .stall } }

/-- A rig word of the task of the slot that acts. -/
def rigWord (body : Task → State → State) (s : State) : Host.Outcome State Fault Refusal :=
  match s.slotTask s.cur.slot with
  | some x => .next (body x s)
  | none => .next s

/-- Bits [hi:lo] of a rig word's body as a number. -/
def rbits (r : RigW) (lo n : Nat) : Nat := (r.body.extractLsb' lo n).toNat

/-- The record of a rig word (R456): LTILE is the tile that the word names; where the task has none of that index the physical
tile is that of the supervisor, by whose routes the record is delivered (R381, R388; log 53). `extra` is added to the SOP. -/
def rigRec (s : State) (x : Task) (code : FaultCode) (sop tile : Nat) (r : RigW) (extra : Nat) : FaultRec :=
  {
    code := code, kind := .async, task := x.id,
    tile := some (BitVec.ofNat 5 tile, (s.bound x tile).getD ((s.bound x 0).getD 0)), pc := some (BitVec.ofInt 19 x.rig.pc),
    fab := some { handle := r.hd }, extra := BitVec.ofNat 64 (sop + 2 ^ 16 * extra) }

/-- A word refused with a code: no effect, and the program goes on n words further (R388). -/
def rigRefuse (x : Task) (code : FaultCode) (sop tile n : Nat) (r : RigW) (extra : Nat) (s : State) : State :=
  let f := rigRec s x code sop tile r extra
  deliver f (rigGo x n s)

/-- A word refused as RIG_INVALID (R487). -/
def rigInvalid (x : Task) (sop tile n : Nat) (r : RigW) (s : State) : State :=
  rigRefuse x .rigInvalid sop tile n r 0 s

/-! ## Circuit words -/

/-- The fields of a rig as written: its ends, the flags EXT and INB, the preference, and the words it takes. -/
structure RigReq where
  sop : Nat
  tile : TileId
  stile : Nat
  handle : HandleId
  port : Nat
  ends : List End
  ext : Bool
  inb : Bool
  pref : Nat
  mcast : Bool
  size : Nat
  deriving DecidableEq, Repr, Inhabited

/-- A port that a task names, as the port it uses: the substitute of a failed one (R460); none where the port is out of
service for the task, or kept as a substitute. -/
def taskPort (s : State) (t : TileId) (slot : SlotId) (p : Nat) : Option Nat :=
  if ((s.tile t).port p).out then
    ((s.tile t).subst.find? fun x => x.1 == p && x.2.2 == slot).map fun x => x.2.1
  else if (s.tile t).subst.any fun x => x.2.1 == p then none
  else some p

/-- The ends of a rig on this module at the ports they use. -/
def taskEnds (s : State) (slot : SlotId) : List End → Option (List End)
  | [] => some []
  | e :: r =>
    match taskEnds s slot r with
    | none => none
    | some l =>
      if s.here e then (taskPort s (fin 32 e.tile.toNat) slot e.port.toNat).map fun p => { e with port := BitVec.ofNat 4 p } :: l
      else some (e :: l)

/-- The first refusal of R150 that holds, with the module of a ROUTE_MISSING; else the circuit to rig. -/
def rigCheck (s : State) (x : Task) (q : RigReq) : Except (FaultCode × Nat) Circ :=
  let slot := x.slot.getD 0
  let self : End := { md := s.hub.modid, tile := BitVec.ofNat 5 q.tile.val, port := BitVec.ofNat 4 q.port }
  let away := q.ends.any fun e => !s.here e
  if q.ends.contains self || !q.ends.Nodup || q.ext != away || (q.inb && (q.mcast || !q.ext)) then .error (.rigInvalid, 0)
  else if (s.circ q.tile q.handle.val).state ≠ .idle then .error (.handleBusy, 0)
  else
    match q.ends.find? fun e => !s.here e && !s.routed e with
    | some e => .error (.routeMissing, e.md.toNat)
    | none =>
      match taskPort s q.tile slot q.port, taskEnds s slot q.ends with
      | some p, some ends =>
        let c : Circ := {
          mcast := q.mcast, ext := q.ext, inb := q.inb, slot := some slot, port := BitVec.ofNat 4 p, ends := ends,
          pref := q.pref }
        if s.portsBusy q.tile q.handle c then .error (.portBusy, 0) else .ok c
      | _, _ => .error (.portBusy, 0)

/-- A rig carried out (R149, R150, R381). -/
def rigGoes (x : Task) (r : RigW) (q : RigReq) (s : State) : State :=
  match rigCheck s x q with
  | .error (code, md) => rigRefuse x code q.sop q.stile q.size r md s
  | .ok c => rigGo x q.size (startRig q.tile q.handle c s)

/-- A destination's tile as a physical number: a task tile index on this module, the peer's own elsewhere (R377). -/
def rigEnd (s : State) (x : Task) (md : BitVec 10) (tile port : Nat) : Option End :=
  if md = s.hub.modid then
    (s.bound x tile).map fun t => { md := md, tile := BitVec.ofNat 5 t.val, port := BitVec.ofNat 4 port }
  else some { md := md, tile := BitVec.ofNat 5 tile, port := BitVec.ofNat 4 port }

/-- RIG (R247, R380, R381). -/
def execRig (r : RigW) (s : State) : Host.Outcome State Fault Refusal :=
  rigWord (fun x s =>
    let st := rbits r 47 5
    let e := rigEnd s x (r.body.extractLsb' 33 10) (rbits r 28 5) (rbits r 24 4)
    match s.bound x st, e with
    | some t, some e =>
      if rbits r 0 16 ≠ 0 ∨ rbits r 16 4 ≠ 0 ∨ rbits r 21 2 = 3 then rigInvalid x 1 st 1 r s
      else
        rigGoes x r {
          sop := 1, tile := t, stile := st, handle := ⟨r.hd.toNat % 64, Nat.mod_lt _ (by decide)⟩, port := rbits r 43 4,
          ends := [e], ext := r.body.getLsbD 23, inb := r.body.getLsbD 20, pref := rbits r 21 2, mcast := false,
          size := 1 } s
    | _, _ => rigInvalid x 1 st 1 r s) s

/-- The n leaves of a RIGM in the words that follow it; a word outside the section reads as zero (R380). -/
def rigLeaves (x : Task) (n : Nat) : List Word :=
  (List.range n).map fun i =>
    let w := x.rig.words.getD (x.rig.pc.toNat + 1 + i / 2) 0
    if i % 2 = 0 then w.truncate 32 else w.extractLsb' 32 32

/-- Whether the unused half of the last leaf word is zero (R380). -/
def rigPad (x : Task) (n : Nat) : Bool :=
  n % 2 == 0 || (x.rig.words.getD (x.rig.pc.toNat + 1 + n / 2) 0).extractLsb' 32 32 == 0

/-- RIGM with its leaf words (R380, R381). -/
def execRigm (r : RigW) (s : State) : Host.Outcome State Fault Refusal :=
  rigWord (fun x s =>
    let st := rbits r 47 5
    let n := rbits r 39 4 + 1
    let size := 1 + (n + 1) / 2
    let ls := rigLeaves x n
    let ends := ls.map fun w => rigEnd s x (w.extractLsb' 21 10) (w.extractLsb' 16 5).toNat (w.extractLsb' 12 4).toNat
    match s.bound x st with
    | some t =>
      if rbits r 0 16 ≠ 0 ∨ rbits r 24 15 ≠ 0 ∨ rbits r 16 5 ≠ 0 ∨ rbits r 21 2 = 3 ∨ !rigPad x n ∨
          ls.any (fun w => !w.getLsbD 31 || w.extractLsb' 0 12 != 0) ∨ ends.any Option.isNone then
        rigInvalid x 2 st size r s
      else
        rigGoes x r {
          sop := 2, tile := t, stile := st, handle := ⟨r.hd.toNat % 64, Nat.mod_lt _ (by decide)⟩, port := rbits r 43 4,
          ends := ends.filterMap id, ext := r.body.getLsbD 23, inb := false, pref := rbits r 21 2, mcast := true,
          size := size } s
    | none => rigInvalid x 2 st size r s) s

/-- DERIG (R381, R149, R448). -/
def execDerig (r : RigW) (s : State) : Host.Outcome State Fault Refusal :=
  rigWord (fun x s =>
    let st := rbits r 47 5
    match s.bound x st with
    | some t =>
      if rbits r 0 47 ≠ 0 then rigInvalid x 3 st 1 r s
      else rigGo x 1 (derig t ⟨r.hd.toNat % 64, Nat.mod_lt _ (by decide)⟩ s)
    | none => rigInvalid x 3 st 1 r s) s

/-! ## Flow words -/

/-- NOPS (R382). -/
def execNops (r : RigW) (s : State) : Host.Outcome State Fault Refusal :=
  rigWord (fun x s => if r.hd ≠ 0 ∨ r.body ≠ 0 then rigInvalid x 0 0 1 r s else rigGo x 1 s) s

/-- HOLD (R382): the next word executes N steps on. -/
def execHold (r : RigW) (s : State) : Host.Outcome State Fault Refusal :=
  rigWord (fun x s =>
    let n := rbits r 0 32
    if r.hd ≠ 0 ∨ rbits r 32 20 ≠ 0 ∨ n = 0 then rigInvalid x 4 0 1 r s
    else rigStop (modRig x.id (fun y => { y with holdTo := s.now / 32 + n }) (rigGo x 1 s))) s

/-- JMPS (R382). -/
def execJmps (r : RigW) (s : State) : Host.Outcome State Fault Refusal :=
  rigWord (fun x s =>
    if r.hd ≠ 0 ∨ rbits r 32 20 ≠ 0 then rigInvalid x 7 0 1 r s
    else rigGo x (r.body.extractLsb' 0 32).toInt s) s

/-- LOOPS (R382). -/
def execLoops (r : RigW) (s : State) : Host.Outcome State Fault Refusal :=
  rigWord (fun x s =>
    let l := rbits r 50 2
    let count := rbits r 16 16
    if r.hd ≠ 0 ∨ rbits r 32 18 ≠ 0 ∨ count = 0 then rigInvalid x 8 0 1 r s
    else
      let c := (if x.rig.lc.get l 0 = 0 then count else x.rig.lc.get l 0) - 1
      let s := modRig x.id (fun y => { y with lc := y.lc.set l c }) s
      rigGo x (if c ≠ 0 then (r.body.extractLsb' 0 16).toInt else 1) s) s

/-! ## Events and semaphores -/

/-- The SEVTs of a tile that WAITEV sees at rc n counted (R276, R383). -/
def Tile.settleEvents (x : Tile) (n : Nat) : Tile :=
  let (ok, later) := x.sevtPend.partition fun p => decide (p.1 + 64 ≤ n)
  { x with sevt := ok.foldl (fun c p => c.set p.2 (c.get p.2 0 + 1)) x.sevt, sevtPend := later }

/-- Whether a tile passes WAITEV's test (R383). -/
def eventPasses (s : State) (x : Task) (abs : Bool) (e : Nat) (n : Word) (i : Nat) : Bool :=
  match s.bound x i with
  | some t =>
    let c := (s.tile t).sevt.get e 0
    let k := if abs then 0 else x.rig.taken.get (64 * i + e) 0
    !(c - k - n).slt 0
  | none => true

/-- WAITEV (R383). -/
def execWaitev (r : RigW) (s : State) : Host.Outcome State Fault Refusal :=
  rigWord (fun x s =>
    let tile := rbits r 47 5
    let all := r.body.getLsbD 46
    let abs := r.body.getLsbD 45
    let e := rbits r 39 6
    let n : Word := r.body.truncate 32
    if r.hd ≠ 0 ∨ rbits r 32 7 ≠ 0 ∨ (!all ∧ (s.bound x tile).isNone) then rigInvalid x 5 tile 1 r s
    else
      let s := (s.taskTiles x).foldl (fun s t => s.modTile t fun y => y.settleEvents s.now) s
      let tiles := if all then (List.range (4 * x.strings.length)).filter fun i => (s.bound x i).isSome else [tile]
      if tiles.all (eventPasses s x abs e n) then
        let s := if abs then s
          else modRig x.id (fun y =>
            { y with taken := tiles.foldl (fun k i => k.set (64 * i + e) (k.get (64 * i + e) 0 + n)) y.taken }) s
        rigGo x 1 s
      else rigStop s) s

/-- SIGEV (R384): the semaphore is signalled at rc 16 of the step in which it completes. -/
def execSigev (r : RigW) (s : State) : Host.Outcome State Fault Refusal :=
  rigWord (fun x s =>
    let tile := rbits r 47 5
    let live := r.body.getLsbD 38
    match s.bound x tile with
    | some t =>
      if rbits r 0 38 ≠ 0 ∨ (!live ∧ r.hd ≠ 0) then rigInvalid x 6 tile 1 r s
      else if live ∧ (s.circ t r.hd.toNat).state ≠ .live then rigStop s
      else rigGo x 1 (land t (s.now + 16) (BitVec.ofNat 8 (rbits r 39 8)) 0 .incr s)
    | none => rigInvalid x 6 tile 1 r s) s

/-! ## Port and route words -/

/-- XPORT (R385): the command joins its port's order; with WAIT the word completes in the first step that begins after
the command has. -/
def xportWord (r : RigW) (s : State) : Host.Outcome State Fault Refusal :=
  rigWord (fun x s =>
    let f := fin 64 (rbits r 46 6)
    let cmd : BitVec 2 := r.body.extractLsb' 44 2
    let c : XCmd := {
      cmd := cmd, tbl := r.body.getLsbD 43, entry := (r.body.extractLsb' 18 25 : BitVec 25).setWidth 32 <<< 6,
      task := some x.id, pc := x.rig.pc.toNat }
    if r.hd ≠ 0 ∨ rbits r 0 17 ≠ 0 ∨ (cmd ≠ 3 ∧ rbits r 18 26 ≠ 0) then rigInvalid x 9 0 1 r s
    else if !r.body.getLsbD 17 then xport f c (rigGo x 1 s)
    else
      match x.rig.waitXport with
      | none => rigStop (xport f c (modRig x.id (fun y => { y with waitXport := some 0 }) s))
      | some n =>
        if 0 < n ∧ n ≤ s.now then rigGo x 1 (modRig x.id (fun y => { y with waitXport := none }) s) else rigStop s) s

/-- XPORT with CMD DRAIN (R385, R164). -/
def execXportDrain (r : RigW) (s : State) : Host.Outcome State Fault Refusal := xportWord r s
/-- XPORT with CMD DARK (R385, R164). -/
def execXportDark (r : RigW) (s : State) : Host.Outcome State Fault Refusal := xportWord r s
/-- XPORT with CMD PROBE (R385, R165). -/
def execXportProbe (r : RigW) (s : State) : Host.Outcome State Fault Refusal := xportWord r s
/-- XPORT with CMD OPEN (R385, R163, R164). -/
def execXportOpen (r : RigW) (s : State) : Host.Outcome State Fault Refusal := xportWord r s

/-- RTSW (R166, R385). -/
def execRtsw (r : RigW) (s : State) : Host.Outcome State Fault Refusal :=
  rigWord (fun x s =>
    if r.hd ≠ 0 ∨ r.body ≠ 0 then rigInvalid x 10 0 1 r s
    else rigGo x 1 (s.modHub fun h => { h with activeB := !h.activeB })) s

/-- ENDS (R386). -/
def execEnds (r : RigW) (s : State) : Host.Outcome State Fault Refusal :=
  rigWord (fun x s =>
    if r.hd ≠ 0 ∨ r.body ≠ 0 then rigInvalid x 11 0 1 r s
    else rigStop (modRig x.id (fun y => { y with ended := true }) s)) s

end Sys2Proof.Machine
end

