-- ==== Sys2Proof/Machine/Image.lean ====
section
/-!
DEFINITION. Task images: their header, sections and records, and what makes one invalid (spec/10 R256 to R259, spec/03
R65, R66, spec/04 R101, R109, R112, R113, spec/07 R187, spec/08 R194, R195, R202, spec/09 R215, spec/16 R365, spec/21
R423).
-/
namespace Sys2Proof.Machine

/-- n bytes at an MPA as a number, lowest first. -/
def State.leAt (s : State) (mpa n : Nat) : Nat := leNat (s.readBytes mpa n)

/-- A section of an image that lies at an MPA, from its entry of the section table (R257); its reserved byte. -/
def sectAt (s : State) (base i : Nat) : Sect × Nat :=
  let e := base + 64 + 16 * i
  ({ ty := s.leAt e 2, cls := s.leAt (e + 2) 1, size := s.leAt (e + 4) 4, mpa := base + s.leAt (e + 8) 8 },
    s.leAt (e + 3) 1)

/-- The bytes of one record of a section type; 0 where records differ in length (R258). -/
def recordSize : Nat → Nat
  | 3 => 72
  | 4 => 72
  | 5 => 32
  | 6 => 32
  | 7 => 128
  | 8 => 8
  | 9 => 24
  | 0xA => 24
  | 0xB => 16
  | 0xC => 40
  | 0xD => 16
  | 0xE => 24
  | _ => 0

/-- The MPAs of the records of a section of records of one length. -/
def Sect.records (x : Sect) : List Nat :=
  let n := recordSize x.ty
  if n = 0 then [] else (List.range (x.size / n)).map fun i => x.mpa + n * i

/-- Whether a section belongs to one class, by its type (R258). -/
def ofClass (ty : Nat) : Bool := !(decide (5 ≤ ty) && decide (ty ≤ 8))

/-- The sections of a type for a class, in order. -/
def Img.sections (x : Img) (ty cls : Nat) : List Sect := x.sects.filter fun y => y.ty == ty && y.cls == cls

/-- The records of a type for a class, in order. -/
def Img.records (x : Img) (ty cls : Nat) : List Nat := (x.sections ty cls).flatMap Sect.records

/-! ## Records -/

/-- The 64-bit words of a record from its byte 8 on. -/
def bodyWords (s : State) (r n : Nat) : List DWord := (List.range n).map fun i => s.readDWord (r + 8 + 8 * i)

/-- Whether a nest record breaks R66. -/
def nestBad (l : List DWord) : Bool :=
  let n := nestLoops l
  let h := l.getD 0 0
  let js := List.range n
  n == 0 || decide (6 < n) || h.extractLsb' 32 32 != 0 || h.extractLsb' 4 12 != 0 || l.getD 1 0 != 0 ||
    (js.any fun j => nestStep l j == 0 || (l.getD (2 + j) 0).extractLsb' 3 13 != 0) ||
    (js.any fun r => js.all fun j => nestOrder l j != r) || decide (2 ^ 32 < nestTotal l)

/-- Whether a SEM record is one that R187 and R271 allow: a mode of 0 or 1, words 1 to 3 zero in counting mode, and
arrivals expected in phase mode. -/
def semRecBad (s : State) (r : Nat) : Bool :=
  let mode := s.leAt (r + 1) 1
  let w (i : Nat) : Nat := s.leAt (r + 8 + 4 * i) 4
  decide (1 < mode) || s.leAt (r + 2) 6 != 0 || (mode == 0 && (w 1 != 0 || w 2 != 0 || w 3 != 0)) ||
    (mode == 1 && w 0 / 2 ^ 16 == 0)

/-- Whether a GROUP record breaks R365: a reserved field, DROP or OUT that is not zero. -/
def groupRecBad (d : DWord) : Bool := d.extractLsb' 56 7 != 0 || d.extractLsb' 0 42 != 0

/-- How many slots, nests, jobs or entries a section type names. -/
def indexLimit : Nat → Nat
  | 3 => 4096
  | 4 => 16
  | 9 => 256
  | 0xA => 16
  | 0xB => 64
  | 0xC => 256
  | 0xD => 256
  | _ => 32

/-- The slot, nest, semaphore, job or entry index that a record names. -/
def recIndex (s : State) (ty r : Nat) : Nat := if ty = 9 then s.leAt r 1 else s.leAt r 8

/-- Whether the body of an indexed record breaks the rules of its structure's chapter (R259). -/
def recBad (s : State) (ty r : Nat) : Bool :=
  match ty with
  | 3 => !recValid (BitVec.ofNat 512 (s.leAt (r + 8) 64))
  | 4 => nestBad (bodyWords s r 8)
  | 9 => semRecBad s r
  | 0xA => (rjobOf (s.leAt (r + 8) 16)).isNone
  | 0xB => (tslotOf (s.leAt (r + 8) 4)).isNone || s.leAt (r + 12) 4 != 0
  | 0xC => (centryOf (s.leAt (r + 8) 32)).isNone
  | 0xD => groupRecBad (s.readDWord (r + 8))
  | _ => inbBad (bodyWords s r 2)

/-- Whether the records of an indexed type of one class are sound: indices in range, none twice (R259). -/
def classRecsOk (s : State) (x : Img) (ty cls : Nat) : Bool :=
  let l := x.records ty cls
  let ix := l.map (recIndex s ty)
  (ix.all fun i => decide (i < indexLimit ty)) && decide ix.Nodup && l.all fun r => !recBad s ty r

/-- Whether a CODE section is sound (R258, R259). -/
def codeOk (s : State) (x : Sect) : Bool :=
  let n := s.leAt (x.mpa + 16) 4
  decide (32 + n ≤ x.size) && decide (n ≤ 0x400000) && s.leAt (x.mpa + 20) 12 == 0 &&
    (List.range 4).all fun i => let e := s.leAt (x.mpa + 4 * i) 4; e % 8 == 0 && decide (e < n)

/-- The records of a DATA section: MPA of the bytes, VA, length and cores; none where the section does not hold whole
records (R258). -/
def dataRecords (s : State) (stop : Nat) : Nat → Nat → Option (List (Nat × Nat × Nat × Nat))
  | 0, at' => if at' = stop then some [] else none
  | n + 1, at' =>
    if at' = stop then some []
    else
      let len := s.leAt (at' + 8) 4
      let next := at' + 16 + alignUp len 8
      if stop < at' + 16 ∨ stop < next ∨ s.leAt (at' + 14) 2 ≠ 0 then none
      else (dataRecords s stop n next).map fun l => (at' + 16, s.leAt at' 8, len, s.leAt (at' + 12) 2) :: l

/-- The records of a DATA section. -/
def Sect.data (x : Sect) (s : State) : Option (List (Nat × Nat × Nat × Nat)) :=
  dataRecords s (x.mpa + x.size) (x.size / 16 + 1) x.mpa

/-- The section types whose records have an index. -/
def indexedTypes : List Nat := [3, 4, 9, 0xA, 0xB, 0xC, 0xD, 0xE]

/-- Whether the sections of one class are sound (R259). -/
def classOk (s : State) (x : Img) (cls : Nat) : Bool :=
  (match x.sections 1 cls with
    | [y] => codeOk s y
    | _ => false) &&
    ((x.sections 2 cls).all fun y => (y.data s).isSome) && indexedTypes.all fun ty => classRecsOk s x ty cls

/-! ## The whole task -/

/-- Whether the flags of a lease record and its zero bytes are sound (R258). -/
def leaseRecOk (s : State) (r : Nat) : Bool := decide (s.leAt (r + 16) 4 < 8) && s.leAt (r + 24) 8 == 0

/-- The ranges of a lease record: one for each task tile index that TILES names. -/
def leaseRanges (s : State) (nstr r : Nat) : List Lease :=
  let flags := s.leAt (r + 16) 4
  let tiles := s.leAt (r + 20) 4
  ((List.range (4 * nstr)).filter fun t => tiles / 2 ^ t % 2 == 1).map fun t =>
    {
      tix := t, va := s.leAt r 8, size := s.leAt (r + 8) 8, rd := flags % 2 == 1, wr := flags / 2 % 2 == 1,
      heap := flags / 4 % 2 == 1 }

/-- The granules of the heap of a tile: HEAPBASE and HEAPLIMIT (R100, R101); equal where it has none. -/
def heapSpan (l : List Lease) (tix : Nat) : Nat × Nat :=
  match l.filter fun y => y.tix == tix && y.heap with
  | [] => (0, 0)
  | y :: r =>
    r.foldl (fun p z => (Nat.min p.1 (z.va / 2 ^ 30), Nat.max p.2 ((z.va + z.size + 2 ^ 30 - 1) / 2 ^ 30)))
      (y.va / 2 ^ 30, (y.va + y.size + 2 ^ 30 - 1) / 2 ^ 30)

/-- Whether the ranges of a tile keep to R101 and R423. -/
def leasesOk (l : List Lease) (tix : Nat) : Bool :=
  let sum := (l.filter fun y => y.tix == tix).foldl (fun n y => n + y.size) 0
  let h := heapSpan l tix
  decide (sum ≤ 0xFFF000000) && decide (h.2 - h.1 ≤ 64)

/-- Whether a load-class entry is valid (R215). -/
def loadOk (w : Nat) : Bool := w / 2 ^ 16 == 0 && w / 8 % 32 == 0 && decide (w / 2 ^ 8 % 2 ^ 8 ≤ 64)

/-- CLASS of a load-class entry. -/
def loadClass (w : Nat) : Nat := w % 8

/-- Whether two sections, or a section and the header, overlap. -/
def overlap (a b : Nat × Nat) : Bool := decide (a.1 < b.1 + b.2) && decide (b.1 < a.1 + a.2)

/-- Whether no two of a list of byte ranges overlap. -/
def disjoint : List (Nat × Nat) → Bool
  | [] => true
  | a :: r => (r.all fun b => !overlap a b) && disjoint r

/-- THE IMAGE AT AN MPA (R256 to R259); none where it is invalid. -/
def parseImage (s : State) (base : Nat) : Option Img :=
  let nstr := s.leAt (base + 6) 1
  let nsect := s.leAt (base + 12) 2
  let len := s.leAt (base + 48) 8
  let cls := (List.range 32).map fun t => s.leAt (base + 16 + t) 1
  let raw := (List.range nsect).map (sectAt s base)
  let sects := raw.map Prod.fst
  let head := s.leAt base 4 == 0x36395846 && s.leAt (base + 4) 2 == 1 && decide (1 ≤ nstr) && decide (nstr ≤ 8) &&
    decide (s.leAt (base + 7) 1 < 2 ^ nstr) && decide (1 ≤ s.leAt (base + 8) 4) && decide (1 ≤ nsect) &&
    decide (nsect ≤ 1024) && s.leAt (base + 14) 2 == 0 && s.leAt (base + 56) 8 == 0 &&
    ((List.range 32).all fun t => let c := cls.getD t 0; if t < 4 * nstr then decide (c ≤ 15) else c == 0xFF)
  if !head then none
  else
    let shape := (raw.all fun p => p.2 == 0) &&
      (sects.all fun x =>
        decide (1 ≤ x.ty) && decide (x.ty ≤ 0xE) && (if ofClass x.ty then decide (x.cls ≤ 15) else x.cls == 0xFF) &&
          (x.mpa - base) % 8 == 0 && decide (x.mpa - base + x.size ≤ len) &&
          (recordSize x.ty == 0 || x.size % recordSize x.ty == 0 || (ofClass x.ty && !cls.contains x.cls))) &&
      disjoint ((0, 64) :: sects.map fun x => (x.mpa - base, x.size)) &&
      ([5, 7, 8].all fun ty => decide ((sects.filter fun x => x.ty == ty).length ≤ 1)) &&
      ((sects.filter fun x => x.ty == 7).all fun x => x.size == 128)
    if !shape then none
    else
      let img : Img := {
        nstr := nstr, acc3 := BitVec.ofNat 8 (s.leAt (base + 7) 1), interval := s.leAt (base + 8) 4, classes := cls,
        sects := sects }
      let loads := match (img.records 7 0xFF).head? with
        | some r => (List.range 32).map fun i => s.leAt (r + 4 * i) 4
        | none => List.replicate 32 0
      let ranges := (img.records 6 0xFF).flatMap (leaseRanges s nstr)
      let used := (cls.filter fun c => c != 0xFF).eraseDups
      let ok := (used.all (classOk s img)) && ((img.records 6 0xFF).all (leaseRecOk s)) &&
        ((img.records 5 0xFF).all fun r => s.leAt (r + 24) 1 % 16 == 0 && s.leAt (r + 28) 2 == 0) && loads.all loadOk &&
        (List.range 32).all (leasesOk ranges)
      if ok then some { img with loads := loads, ranges := ranges } else none

/-- The load-class check over all four positions of each string (R215). -/
def loadsFit (x : Img) : Bool :=
  (List.range x.nstr).all fun k =>
    let l := (List.range 4).map fun j => loadClass (x.loads.getD (4 * k + j) 0)
    l.all fun a => l.all fun b => decide (a ≤ b + 1)

/-- Whether a string position of an image accepts a 3-tile string (R59). -/
def Img.accepts3 (x : Img) (k : Nat) : Bool := x.acc3.getLsbD k

/-- The words of the RIG section, in program order (R258). -/
def Img.rigWords (x : Img) (s : State) : List DWord := (x.records 8 0xFF).map s.readDWord

/-- Whether a rig program holds a RIG or RIGM with its external flag set (R87, R380). -/
def rigsOut (l : List DWord) : Bool :=
  l.any fun w => let sop := (w.extractLsb' 58 6).toNat; (sop == 1 || sop == 2) && w.getLsbD 23

end Sys2Proof.Machine
end

