-- ==== Sys2Proof/Machine/Lease.lean ====
section
/-!
DEFINITION. Leases: where the memory processor places a task's ranges (spec/04 R97, R99 to R101, R502, R503), when it
grants them and what it reports meanwhile (spec/03 R61, R63, spec/21 R423, R424), and the move of leased memory at a
resume (spec/03 R88).
-/
namespace Sys2Proof.Machine

/-! ## Blocks and spans -/

/-- The bytes of a tile's HBM that leases can hold (R502, R503). -/
def hbmTop : Nat := 0xFFF000000

/-- The least page (R99). -/
def pageSize : Nat := 65536

/-- Whether two ranges of bytes, each a start and a size, share a byte. -/
def meets (a n b m : Nat) : Bool := decide (a < b + m) && decide (b < a + n)

/-- A span of bytes added to a rising list of spans that do not touch. -/
def putSpan (x : Nat × Nat) : List (Nat × Nat) → List (Nat × Nat)
  | [] => [x]
  | y :: r =>
    if x.1 + x.2 < y.1 then x :: y :: r
    else if y.1 + y.2 < x.1 then y :: putSpan x r
    else
      let a := Nat.min x.1 y.1
      putSpan (a, Nat.max (x.1 + x.2) (y.1 + y.2) - a) r

/-- The whole pages that a range of a lease touches. -/
def Lease.pages (l : Lease) : Nat × Nat :=
  let a := l.va / pageSize * pageSize
  (a, alignUp (l.va + l.size) pageSize - a)

/-- The part of a span that a block holds, as a block, and the rest of the span. -/
def cutSpan (c : Placement) (x : Nat × Nat) : List Placement × List (Nat × Nat) :=
  let lo := Nat.max c.va x.1
  let hi := Nat.min (c.va + c.size) (x.1 + x.2)
  if lo < hi then
    ([{ tix := c.tix, va := lo, mpa := c.mpa + (lo - c.va), size := hi - lo }],
      (if x.1 < lo then [(x.1, lo - x.1)] else []) ++ if hi < x.1 + x.2 then [(hi, x.1 + x.2 - hi)] else [])
  else ([], [x])

/-- The parts of spans that blocks hold, and the rest. -/
def cutSpans (cs : List Placement) (l : List (Nat × Nat)) : List Placement × List (Nat × Nat) :=
  cs.foldl (fun p c => p.2.foldl (fun q x => let y := cutSpan c x; (q.1 ++ y.1, q.2 ++ y.2)) (p.1, [])) ([], l)

/-- The block of the heap of a tile with its first granule at an MPA (R101, R502). -/
def heapBlock (l : List Lease) (tix mpa : Nat) : Placement :=
  let h := heapSpan l tix
  { tix := tix, va := h.1 * 2 ^ 30, mpa := mpa, size := (h.2 - h.1) * 2 ^ 30 }

/-- The page spans of the ranges of a tile that lie outside its heap. -/
def pageSpans (l : List Lease) (tix : Nat) : List (Nat × Nat) :=
  let spans := (l.filter fun y => y.tix == tix && decide (0 < y.size)).foldl (fun a y => putSpan y.pages a) []
  (cutSpans [heapBlock l tix 0] spans).2

/-- The bytes that the heap ranges of a tile take from the start of its first granule. -/
def heapNeed (l : List Lease) (tix : Nat) : Nat :=
  let h := heapSpan l tix
  (l.filter fun y => y.tix == tix && y.heap).foldl (fun n y => Nat.max n (y.va + y.size - h.1 * 2 ^ 30)) 0

/-! ## The choice -/

/-- The first aligned place at or after c where size bytes, of which need lie below top, meet no busy span. -/
def fitFrom (busy : List (Nat × Nat)) (size need align top : Nat) : Nat → Nat → Option Nat
  | 0, _ => none
  | n + 1, c =>
    let c := alignUp c align
    if top < c + need then none
    else
      match busy.find? fun b => meets c size b.1 b.2 with
      | none => some c
      | some b => fitFrom busy size need align top n (b.1 + b.2)

/-- A place from a seed on, else from 0 on. -/
def fit (busy : List (Nat × Nat)) (size need align seed : Nat) : Option Nat :=
  match fitFrom busy size need align hbmTop (busy.length + 1) seed with
  | some c => some c
  | none => fitFrom busy size need align hbmTop (busy.length + 1) 0

/-- The holes between busy spans, from c on, below the staging area. -/
def holesFrom : Nat → List (Nat × Nat) → List (Nat × Nat)
  | c, [] => if c < hbmTop then [(c, hbmTop - c)] else []
  | c, b :: r => (if c < b.1 then [(c, b.1 - c)] else []) ++ holesFrom (Nat.max c (b.1 + b.2)) r

/-- Pages of holes for a span, block by block; none where the holes do not hold it. -/
def fillHoles (tix base : Nat) : List (Nat × Nat) → Nat × Nat → Option (List Placement)
  | _, (_, 0) => some []
  | [], _ => none
  | h :: r, (va, size) =>
    let n := Nat.min h.2 size
    (fillHoles tix base r (va + n, size - n)).map fun l => { tix := tix, va := va, mpa := base + h.1, size := n } :: l

/-- Blocks for one span of pages on a tile whose HBM starts at an MPA: one block where it fits, else pages of holes. -/
def placeSpan (tix base : Nat) (busy : List (Nat × Nat)) (seed : Nat) (x : Nat × Nat) : Option (List Placement) :=
  match fit busy x.2 x.2 pageSize seed with
  | some c => some [{ tix := tix, va := x.1, mpa := base + c, size := x.2 }]
  | none => fillHoles tix base (holesFrom 0 (busy.foldl (fun a b => putSpan b a) [])) x

/-- Blocks for spans of pages in turn. -/
def placeSpans (tix base : Nat) (seed : Nat) : List (Nat × Nat) → List (Nat × Nat) → Option (List Placement)
  | _, [] => some []
  | busy, x :: r =>
    match placeSpan tix base busy seed x with
    | none => none
    | some l => (placeSpans tix base seed (l.map (fun c => (c.mpa - base, c.size)) ++ busy) r).map fun m => l ++ m

/-- The blocks of the leases and save areas of every task but those named. -/
def State.held (s : State) (but : List (BitVec 16)) : List Placement :=
  (s.hub.tasks.filter fun y => !but.contains y.id).flatMap fun y => y.places ++ y.saveAt

/-- The busy spans of the HBM of a tile among blocks. -/
def busyOn (t : TileId) (l : List Placement) : List (Nat × Nat) :=
  (l.filter fun c => c.mpa / 2 ^ 36 == t.val).map fun c => (c.mpa % 2 ^ 36, c.size)

/-- The MPA of the first heap granule that keeps the memory of a predecessor's heap, and the block of that heap. -/
def heapAfter (old : List Lease) (places : List Placement) (h tix : Nat) : Option (Nat × Placement) :=
  let b := heapSpan old tix
  if b.1 < b.2 then
    (places.find? fun c => c.tix == tix && c.va == b.1 * 2 ^ 30).bind fun c =>
      if b.1 * 2 ^ 30 ≤ c.mpa + h * 2 ^ 30 then some (c.mpa + h * 2 ^ 30 - b.1 * 2 ^ 30, c) else none
  else none

/-- The places of the heap of a tile, the memory processor's first choice first: from the seed on, then every granule. -/
def heapPlaces (busy : List (Nat × Nat)) (size need seed : Nat) : List Nat :=
  (fit busy size need (2 ^ 30) seed).toList ++
    ((List.range 64).map fun i => i * 2 ^ 30).filter fun c =>
      decide (c + need ≤ hbmTop) && !(busy.any fun b => meets c size b.1 b.2)

/-- Blocks for the ranges of one tile: what a predecessor holds of them stays where it is, the heap takes aligned
granules, at the first place that leaves room for the rest, and the rest takes pages (R79, R502). -/
def placeTile (t : TileId) (tix : Nat) (l old : List Lease) (places others : List Placement) (seed : Nat) :
    Option (List Placement) :=
  let base := t.val * 2 ^ 36
  let h := heapSpan l tix
  let size := (h.2 - h.1) * 2 ^ 30
  let spans := pageSpans l tix
  let kept := cutSpans ((places.filter fun c => c.tix == tix)) spans
  let busy := busyOn t (places ++ others)
  let heaps : List (List Placement) :=
    if size = 0 then [[]]
    else
      let at' (c : Nat) : List Placement := [{ tix := tix, va := h.1 * 2 ^ 30, mpa := base + c, size := size }]
      let free := (heapPlaces busy size (heapNeed l tix) seed).map at'
      match heapAfter old places h.1 tix with
      | some (p, c) =>
        if base ≤ p ∧ p - base + heapNeed l tix ≤ hbmTop ∧
            !((busyOn t (places.erase c ++ others)).any fun b => meets (p - base) size b.1 b.2) then [at' (p - base)]
        else free
      | none => free
  heaps.findSome? fun hs =>
    (placeSpans tix base seed (hs.map (fun c => (c.mpa - base, c.size)) ++ busy) kept.2).map fun m => hs ++ kept.1 ++ m

/-- The ranges and blocks that a task inherits while it is held (R79). -/
def State.inherits (s : State) (x : Task) : List Lease × List Placement :=
  if x.pred = 0 then ([], [])
  else
    match s.task? x.pred with
    | some y => (y.img.ranges, y.places)
    | none => ([], [])

/-- Whether bytes of host space have a host bus mapping (R38, R423). -/
def State.hostMapped (s : State) (mpa n : Nat) : Bool :=
  let l := s.hub.hostmap.foldl (fun a h => putSpan (h.2.1, h.2.2) a) []
  l.any fun b => decide (b.1 ≤ mpa) && decide (mpa + n ≤ b.1 + b.2)

/-- The blocks in host space of the ranges of a tile that the memory processor maps there (R99; log 50): whole pages, no heap. -/
def hostBlocks (x : Task) (tix : Nat) : List (Lease × Placement) :=
  x.img.ranges.filterMap fun l =>
    if l.tix = tix ∧ !l.heap ∧ 0 < l.size then
      (Config.hostHome x.id.toNat tix l.va).map fun n =>
        (l, { tix := tix, va := l.pages.1, mpa := 0xC00000000000 + n * pageSize % 2 ^ 44, size := l.pages.2 })
    else none

/-- A placement of every range of a task on the strings given, with the ranges for which there is none, each with its
reason in MISSING: 1 for the HBM of a tile, 2 for host space without a host bus mapping (R38, R423). -/
def choosePlaces (s : State) (x : Task) (strings : List StringId) (keep : List Placement) (seed : Nat) :
    List Placement × List (Lease × Nat) :=
  let (old, places) := s.inherits x
  let others := s.held [x.id, x.pred]
  (List.range (4 * x.img.nstr)).foldl (fun p tix =>
    if x.img.ranges.any fun l => l.tix == tix && decide (0 < l.size) then
      match (strings[tix / 4]?).bind fun n => s.posTile n (tix % 4) with
      | some t =>
        let mine := keep.filter fun c => c.tix == tix
        if !mine.isEmpty then (p.1 ++ mine, p.2)
        else
          let host := hostBlocks x tix
          let near := x.img.ranges.filter fun l => !host.any fun b => b.1 == l
          let unmapped := host.filter fun b => !s.hostMapped b.2.mpa b.2.size
          let p := (p.1 ++ host.map (·.2), p.2 ++ unmapped.map fun b => (b.1, 2))
          match placeTile t tix near old places others (seed / 2 ^ tix % 2 ^ 36) with
          | some l => (p.1 ++ l, p.2)
          | none => (p.1, p.2 ++ (near.filter fun l => l.tix == tix && decide (0 < l.size)).map fun l => (l, 1))
      | none => p
    else p) ([], [])

/-! ## The check of a placement -/

/-- Whether a block lies where a lease may place it: in the HBM of the tile that its range names, or in mapped host
space (R99, R423, R502). -/
def blockOk (s : State) (x : Task) (c : Placement) : Bool :=
  let h := heapSpan x.img.ranges c.tix
  let heap := decide (h.1 < h.2) && c.va == h.1 * 2 ^ 30
  let unit := if heap then 2 ^ 30 else pageSize
  let need := if heap then heapNeed x.img.ranges c.tix else c.size
  decide (0 < c.size) && c.va % unit == 0 && c.mpa % unit == 0 && c.size % unit == 0 &&
    (match s.bound x c.tix with
      | some t => c.mpa / 2 ^ 36 == t.val && decide (c.mpa % 2 ^ 36 + need ≤ hbmTop)
      | none => false) ||
    (!heap && decide (0 < c.size) && c.va % unit == 0 && c.mpa % unit == 0 && c.size % unit == 0 &&
      (s.bound x c.tix).isSome && decide (0xC00000000000 ≤ c.mpa) && decide (c.mpa + c.size ≤ 0xD00000000000) &&
      s.hostMapped c.mpa c.size)

/-- Whether no two blocks share memory, and no two of one tile share addresses. -/
def blocksApart : List Placement → Bool
  | [] => true
  | c :: r =>
    (r.all fun d => !meets c.mpa c.size d.mpa d.size && (c.tix != d.tix || !meets c.va c.size d.va d.size)) && blocksApart r

/-- The pieces of a task's ranges on blocks (R61). -/
def pieces (ranges : List Lease) (pl : List Placement) : List Lease :=
  ranges.flatMap fun l =>
    (cutSpans (pl.filter fun c => c.tix == l.tix) (if l.size = 0 then [] else [(l.va, l.size)])).1.map fun c =>
      { l with va := c.va, size := c.size, mpa := some c.mpa }

/-- Whether a placement meets the bounds of R502 and leaves what is inherited in place (R79). -/
def placesOk (s : State) (x : Task) (pl : List Placement) : Bool :=
  let (_, places) := s.inherits x
  (pl.all (blockOk s x)) && blocksApart pl &&
    (pl.all fun c => (s.held [x.id, x.pred]).all fun d => !meets c.mpa c.size d.mpa d.size) &&
    (pl.all fun c => places.all fun d =>
      let same := c.mpa + d.va == d.mpa + c.va
      (c.tix != d.tix || !meets c.va c.size d.va d.size || same) &&
        (!meets c.mpa c.size d.mpa d.size || (c.tix == d.tix && same))) &&
    (x.img.ranges.all fun l =>
      (s.bound x l.tix).isNone ||
        ((pieces [l] pl).foldl (fun n y => n + y.size) 0 == l.size))

/-! ## Contexts -/

/-- A task's context (R97): the lowest that no task holds, else that of the task pre-empted earliest. -/
def giveCtx (id : BitVec 16) (s : State) : State :=
  match (s.task? id).bind (·.ctx) with
  | some _ => s
  | none =>
    match (List.range 16).find? fun n => s.hub.tasks.all fun y => y.ctx != some n with
    | some n => s.modTask id fun y => { y with ctx := some n }
    | none =>
      let first := s.hub.tasks.foldl (fun (b : Option Task) y =>
        if y.stat = .preempted ∧ y.ctx.isSome then
          match b with
          | some z => if y.order < z.order then some y else b
          | none => some y
        else b) none
      match first with
      | some z => (s.modTask z.id fun y => { y with ctx := none }).modTask id fun y => { y with ctx := z.ctx }
      | none => s

/-! ## Reports -/

/-- The words of an entry of MISSING (R38). -/
def missingWords (id : BitVec 16) (reason : Nat) (l : Lease) : List DWord :=
  [BitVec.ofNat 64 (id.toNat + 2 ^ 16 * reason + 2 ^ 31 + 2 ^ 32 * l.tix), BitVec.ofNat 64 l.va, BitVec.ofNat 64 l.size]

/-- A range that holds a launch reported with its reason, once (R38, R423). -/
def reportMissing (id : BitVec 16) (reason : Nat) (s : State) (l : Lease) : State :=
  if s.hub.missing.any fun m => m.1 == id && m.2.2 == l then s
  else
    match (List.range 32).find? fun i => s.hub.missing.all fun m => m.2.1 != i with
    | some i => bar0SetD (0x40100 + 32 * i) (missingWords id reason l) (s.modHub fun h => { h with missing := h.missing ++ [(id, i, l)] })
    | none => s

/-! ## The grant -/

/-- Whether string placement of a held successor matches its predecessor's (R79). -/
def placementMatches (s : State) (img : Img) (strings : List StringId) : Bool :=
  img.nstr == strings.length &&
    (List.range img.nstr).all fun k =>
      match strings[k]? with
      | some n => (s.positions n).length == 4 || img.accepts3 k
      | none => false

/-- The strings on which a task's lease is to be placed: its own while it launches, its predecessor's while it is held
(R211, R423). -/
def leaseStrings (s : State) (x : Task) : Option (List StringId) :=
  if x.granted then none
  else if x.stat = .launching ∧ x.saves.isEmpty ∧ x.live.isEmpty then some x.strings
  else if x.stat = .queued ∧ x.pred ≠ 0 then
    (s.task? x.pred).bind fun y =>
      if (y.stat = .running ∨ y.stat = .stopping) ∧ placementMatches s x.img y.strings then some y.strings else none
  else none

/-- The memory processor looks for room for a task's ranges: a grant comes where there is room for all, and each range still
missing is reported with its reason (R423, R502). -/
def tryGrant (id : BitVec 16) (s : State) : State :=
  match s.task? id with
  | none => s
  | some x =>
    match leaseStrings s x with
    | none => s
    | some strings =>
      let (v, s) := s.fresh
      let (pl, miss) := choosePlaces s x strings [] (v.toNat / pageSize * pageSize)
      let why (l : Lease) : Nat := if (hostBlocks x l.tix).any fun b => b.1 == l then 2 else 1
      let miss := if miss.isEmpty && !placesOk s { x with strings := strings } pl then
          (x.img.ranges.filter fun l => decide (0 < l.size)).map fun l => (l, why l)
        else miss
      if miss.isEmpty then
        if s.pool.any fun e => e.2.2.1 == id.toNat && (match e.2.2.2 with
          | .leaseGrant _ => true
          | _ => false) then s
        else s.enable 0 0 id.toNat (.leaseGrant pl)
      else
        miss.foldl (fun s m => reportMissing id m.2 s m.1) (clearMissing id (fun l => !miss.any fun m => m.1 == l) s)

/-- Every lease that waits looked at again. -/
def retryGrants (s : State) : State :=
  s.hub.tasks.foldl (fun s x => if (leaseStrings s x).isSome then tryGrant x.id s else s) s

/-- LEASE_GRANT (R61, R63, R211, R423, R502): the ranges of the task whose id acts become resident and pinned at the
placement; a task that launches gets its context and goes to step 3 of R63. -/
def execLeaseGrant (pl : List Placement) (s : State) : Host.Outcome State Fault Refusal :=
  let id : BitVec 16 := BitVec.ofNat 16 s.cur.ix
  match s.task? id with
  | none => .next s
  | some x =>
    match leaseStrings s x with
    | none => .next s
    | some strings =>
      if placesOk s { x with strings := strings } pl then
        let s := s.modTask id fun y => { y with places := pl, leases := pieces y.img.ranges pl, granted := true }
        let s := clearMissing id (fun _ => true) s
        if x.stat = .launching then
          let s := giveCtx id s
          match x.slot with
          | some n => .next (s.dueN (stepAfter s.now) n.val .launch)
          | none => .next s
        else .next s
      else .next (tryGrant id s)

/-! ## The move at a resume -/

/-- An MPA in a block moved to the block of the same addresses in another placement. -/
def movedTo (old new : List Placement) (mpa : Nat) : Option Nat :=
  (old.find? fun c => decide (c.mpa ≤ mpa) && decide (mpa < c.mpa + c.size)).bind fun c =>
    let va := c.va + (mpa - c.mpa)
    (new.find? fun d => d.tix == c.tix && decide (d.va ≤ va) && decide (va < d.va + d.size)).map fun d => d.mpa + (va - d.va)

/-- Leased memory moved from one placement to another, virtual addresses kept (R88). -/
def moveMem (old new : List Placement) (m : List Host.Cell) : List Host.Cell :=
  let inside (l : List Placement) (a : Nat) : Bool := l.any fun c => decide (c.mpa ≤ a) && decide (a < c.mpa + c.size)
  let keep := m.filter fun c => !inside old c.1 && !inside new c.1
  (m.filter fun c => inside old c.1).foldl (fun a c =>
    match movedTo old new c.1 with
    | some p => memPut a p c.2
    | none => a) keep

end Sys2Proof.Machine
end

