-- ==== Sys2Proof/Machine/Launch.lean ====
section
/-!
DEFINITION. Bringing a task's tiles to their launch state, and starting it (spec/03 R60, R63, R64, R79, R80, spec/10
R258, R259).
-/
namespace Sys2Proof.Machine

/-! ## The launch state -/

/-- A core at launch (R64); its accumulator banks stay for a successor that takes over. -/
def launchCore (x : Core) (inherit : Bool) (heap : Nat × Nat) (off ctx level now : Nat) : Core :=
  {
    acc := if inherit then x.acc else {}
    badAcc := if inherit then x.badAcc else []
    heapbase := BitVec.ofNat 30 heap.1, heaplimit := BitVec.ofNat 30 heap.2, heapoff := BitVec.ofNat 18 off,
    ctx := BitVec.ofNat 4 ctx, meff := 2 + level, engFrom := now, engAt := now, quietAt := nextEc now 2, idleAt := now, watch := now }

/-- HEAPOFF of a tile (R100). -/
def heapOff (l : List Lease) (places : List Placement) (tix : Nat) : Nat :=
  let h := heapSpan l tix
  match places.find? fun c => c.tix == tix && c.va == h.1 * 2 ^ 30 && c.size == (h.2 - h.1) * 2 ^ 30 with
  | some c => if h.1 < h.2 then c.mpa / 2 ^ 30 else 0
  | none => 0

/-- RAMPDN of a load-class entry (R215). -/
def loadRampdn (w : Nat) : Nat := if w / 2 ^ 8 % 2 ^ 8 = 0 then 4 else w / 2 ^ 8 % 2 ^ 8

/-- A tile before the sections of its image are loaded (R64): what belongs to a task is as at launch, and what belongs to
the tile itself stays. -/
def launchTile (s : State) (x : Task) (t : TileId) (tix : Nat) (inherit : Bool) : Tile :=
  let y := s.tile t
  let level := (s.str (stringOf t)).level
  let off := heapOff x.img.ranges x.places tix
  let core (k : CoreId) : Core :=
    { launchCore (y.core k) inherit (heapSpan x.img.ranges tix) off (x.ctx.getD 0) level s.now with
      tileid := tileidOf s.hub.modid t (BitVec.ofNat 5 tix), coreid := y.coreidOf k }
  { y with
    cores := ⟨y.coreList.map fun k => (k.val, core k)⟩,
    store := {}, badSems := [], badWords := [], sems := {}, landing := [], wins := {}, inbs := {}, shapes := {}, asks := [], rjobs := {}, slots := {},
    staged := [], cents := {}, groups := {}, chans := {}, portq := [], nests := {}, cursors := {}, walkq := [], sevt := {},
    sevtPend := [], lim := { y.lim with battcnt := 0, rampdn := loadRampdn (x.img.loads.getD tix 0) },
    slot := x.slot, ltile := BitVec.ofNat 5 tix, cls := x.img.classes.getD tix 0, taskid := x.id, partDone := false }

/-- The scratchpads of a tile zero, and every granule of its on-die region rewritten (R64, R443). -/
def zeroPads (t : TileId) (s : State) : State :=
  let pad (a : Nat) : Bool :=
    decide (0x800000000000 + t.val * 2 ^ 39 ≤ a) && decide (a < 0x800000000000 + (t.val + 1) * 2 ^ 39) && a / 2 ^ 32 % 8 == 0
  let die (g : Nat) : Bool :=
    decide (0x800000000000 + t.val * 2 ^ 39 ≤ g) && decide (g < 0x800000000000 + (t.val + 1) * 2 ^ 39)
  { s with mem := s.mem.filter fun c => !pad c.1, bad := s.bad.filter fun g => !die g }

/-! ## The sections -/

/-- The words of a code section: the bytes past its length stay unloaded (R245, R258). -/
def codeWords (s : State) (mpa : Nat) : Tbl DWord :=
  let n := s.leAt (mpa + 16) 4
  ⟨(List.range ((n + 7) / 8)).map fun i =>
    (i,
      if 8 * (i + 1) ≤ n then s.readDWord (mpa + 32 + 8 * i)
      else BitVec.ofNat 64 (leNat (s.readBytes (mpa + 32 + 8 * i) (n - 8 * i) ++ (leBytes 8 unloaded.toNat).drop (n - 8 * i))))⟩

/-- The program counters of the four clusters at launch (R258). -/
def entryOf (s : State) (mpa : Nat) (cl : Cluster) : Pc := BitVec.ofNat 19 (s.leAt (mpa + 4 * cl.code) 4 / 8)

/-- One byte of a data record loaded: into the scratchpad of each core of CORES, or once through the tile's translation,
where that leads to memory of the module (R258). -/
def loadByte (t : TileId) (cores va : Nat) (b : Byte) (s : State) : State :=
  if va < 0x400000 then
    (s.tile t).coreList.foldl (fun s k => if cores / 2 ^ k.val % 2 = 1 then s.writeByte (s.padMpa t k va) b else s) s
  else
    match s.translate t 0 va false false with
    | .loc p =>
      match s.place p with
      | .onDie _ _ kind _ => if kind ≤ 2 then s.writeByte p b else s
      | _ => countWrite p 1 (s.writeByte p b)
    | _ => s

/-- The bytes of a data record loaded in order. -/
def loadBytes (t : TileId) (cores : Nat) : Nat → List Byte → State → State
  | _, [], s => s
  | va, b :: r, s => loadBytes t cores (va + 1) r (loadByte t cores va b s)

/-- A data section loaded, its records in order. -/
def loadData (t : TileId) (x : Sect) (s : State) : State :=
  ((x.data s).getD []).foldl (fun s r => loadBytes t r.2.2.2 r.2.1 (s.readBytes r.1 r.2.2.1) s) s

/-- A semaphore of a SEM record (R187, R258). -/
def semOf (s : State) (r : Nat) : Sem :=
  let w (i : Nat) : Word := BitVec.ofNat 32 (s.leAt (r + 8 + 4 * i) 4)
  if s.leAt (r + 1) 1 = 1 then
    { phaseMode := true, expa := (w 0).extractLsb' 16 16, arrv := (w 0).truncate 16, expb := w 1, bytes := w 2, phase := w 3 }
  else { count := w 0 }

/-- A group entry of a GROUP record (R365). -/
def groupOf (d : DWord) : Group := { v := d.getLsbD 63, gen := d.extractLsb' 48 8, handle := d.extractLsb' 42 6 }

/-- A record of a section loaded into its tile (R258). -/
def loadRec (s : State) (ty : Nat) (x : Tile) (r : Nat) : Tile :=
  let i := recIndex s ty r
  match ty with
  | 3 => { x with shapes := x.shapes.set i { recd := BitVec.ofNat 512 (s.leAt (r + 8) 64), gen := 1 } }
  | 4 => { x with nests := x.nests.set i (bodyWords s r 8) }
  | 9 => { x with sems := x.sems.set i (semOf s r) }
  | 0xA => { x with rjobs := x.rjobs.set i ((rjobOf (s.leAt (r + 8) 16)).getD {}) }
  | 0xB => { x with slots := x.slots.set i ((tslotOf (s.leAt (r + 8) 4)).getD {}) }
  | 0xC => { x with cents := x.cents.set i ((centryOf (s.leAt (r + 8) 32)).getD {}) }
  | 0xD => { x with groups := x.groups.set i (groupOf (s.readDWord (r + 8))) }
  | _ => { x with inbs := x.inbs.set i (inbOf (bodyWords s r 2)) }

/-- The records of an indexed type loaded into a tile of a class, in order. -/
def loadRecs (img : Img) (cls : Nat) (t : TileId) (s : State) (ty : Nat) : State :=
  (img.records ty cls).foldl (fun s r => s.modTile t fun x => loadRec s ty x r) s

/-- The bytes of the sections of a class read from HBM, counted (R54). -/
def countSects (img : Img) (cls : Nat) (s : State) : State :=
  (img.sects.filter fun y => y.cls == cls).foldl (fun s y => countRead y.mpa y.size s) s

/-- The sections of a class loaded into a tile in ascending order of their types (R259). -/
def loadTile (img : Img) (t : TileId) (s : State) : State :=
  let cls := (s.tile t).cls
  let s := countSects img cls s
  let code := (img.sections 1 cls).head?.getD { ty := 1, cls := cls, size := 0, mpa := 0 }
  let s := s.modTile t fun x => { x with store := codeWords s code.mpa }
  let s := s.modTile t fun x => { x with cores := x.cores.mapVals fun _ c => c.mapClu fun cl y => { y with pc := entryOf s code.mpa cl } }
  let s := (img.sections 2 cls).foldl (fun s y => loadData t y s) s
  indexedTypes.foldl (loadRecs img cls t) s

/-! ## The start -/

/-- The task tile indices of a task with their tiles. -/
def State.tixTiles (s : State) (x : Task) : List (Nat × TileId) :=
  (List.range (4 * x.strings.length)).filterMap fun i => (s.bound x i).map fun t => (i, t)

/-- Whether every circuit handle of a task's tiles is IDLE and every path of them released. -/
def handlesIdle (s : State) (x : Task) : Bool :=
  (s.taskTiles x).all fun t =>
    ((s.tile t).circs.rows.all fun p => p.2.state == .idle) && !s.hub.releasing.any fun r => r.1 == t

/-- A core of a launched task started. -/
def startCore (t : TileId) (k : CoreId) (s : State) : State :=
  scheduleCore t k (s.modCore t k fun x => x.mapClu fun _ y => { y with stat := .running })

/-- A rig program started in the fabric step that begins now (R63); `given` says that the image has a RIG section, and an empty
one has no word at its program counter (R388). -/
def startRigProgram (id : BitVec 16) (slot : SlotId) (given : Bool) (words : List DWord) (s : State) : State :=
  let s := modRig id (fun _ => { words := words, ended := !given }) s
  if given then s.due (stepAt s.now) (.rig slot) else s

/-- The tiles of a task loaded, and its cores and rig program started together (R63, R64, R80). -/
def startTask (x : Task) (slot : SlotId) (s : State) : State :=
  let inherit := x.stat = .takeover
  let tiles := s.tixTiles x
  let s := if inherit then s else tiles.foldl (fun s p => zeroPads p.2 s) s
  let s := tiles.foldl (fun s p => s.setTile p.2 (launchTile s x p.2 p.1 inherit)) s
  let s := tiles.foldl (fun s p => loadTile x.img p.2 s) (countSects x.img 0xFF s)
  let s := s.modTask x.id fun y => { y with stat := .running, launchedAt := s.now, firstExit := none, exits := [] }
  let s := startRigProgram x.id slot (x.img.sects.any fun y => y.ty == 8) (x.img.rigWords s) s
  let s := tiles.foldl (fun s p => (s.tile p.2).coreList.foldl (fun s k => startCore p.2 k s) s) s
  pokeDispatcher s

/-- Whether a stream of CHECKPOINT or RESTORE keeps tasks from starting (R55, R58). -/
def State.streaming (s : State) : Bool := s.hub.stream.any fun st => st.restore || decide (0 < st.phase)

/-- LAUNCH (R63, R79, R80): the task of the slot that acts starts in the first fabric step in which its lease is granted
and every circuit of its tiles is IDLE. -/
def execLaunch (s : State) : Host.Outcome State Fault Refusal :=
  let slot : SlotId := fin 8 s.cur.ix
  match s.slotTask slot with
  | none => .next s
  | some x =>
    if !x.granted || !(x.stat == .launching || x.stat == .takeover) || !x.saves.isEmpty || !x.live.isEmpty then .next s
    else if s.now % 32 ≠ 0 ∨ s.streaming ∨ !handlesIdle s x then .next (s.dueN (stepAfter s.now) slot.val .launch)
    else .next (startTask x slot s)

end Sys2Proof.Machine
end

