-- ==== Sys2Proof/Machine/Dispatcher.lean ====
section
/-!
DEFINITION. The dispatcher: submission and refusal (spec/09 R207 to R209), holds (R206, R211), scans, placement and
victims (R212 to R214), resumption's binding (spec/03 R87, R88, spec/21 R424), and how a task ends (spec/03 R78 to R80).
-/
namespace Sys2Proof.Machine

/-! ## Strings and placement -/

/-- Whether the dispatcher may use a string (R26). -/
def State.stringUp (s : State) (n : StringId) : Bool := (s.str n).inService && decide (3 ≤ (s.positions n).length)

/-- Whether a string offers four tiles (R27). -/
def State.full (s : State) (n : StringId) : Bool := (s.positions n).length == 4

/-- Whether a task holds a string. -/
def State.busyString (s : State) (n : StringId) : Bool := s.hub.tasks.any fun x => x.slot.isSome && x.strings.contains n

/-- Whether a string is reserved for a task other than id (R214). -/
def State.reservedString (s : State) (id : BitVec 16) (n : StringId) : Bool :=
  s.hub.reserved.any fun r => r.1 != id && r.2.contains n

/-- The strings that a task may be placed on (R212, R213). -/
def State.freeStrings (s : State) (id : BitVec 16) : List StringId :=
  (fins 8).filter fun n => s.stringUp n && !s.busyString n && !s.reservedString id n

/-- The lowest free slot (R207). -/
def State.freeSlot (s : State) : Option SlotId := (fins 8).find? fun n => (s.slotTask n).isNone

/-- One position given the first string that p accepts. -/
def takeString (p : StringId → Bool) (k : Nat) (a : List StringId × List (Nat × StringId)) :
    Option (List StringId × List (Nat × StringId)) :=
  (a.1.find? p).map fun n => (a.1.erase n, a.2 ++ [(k, n)])

/-- PLACEMENT (R213) on the strings given, by those that each position may take; none where it fails. -/
def placement (s : State) (img : Img) (ok : Nat → StringId → Bool) (free : List StringId) : Option (List StringId) :=
  let ks := List.range img.nstr
  let first := (ks.filter fun k => !img.accepts3 k).foldl (fun a k =>
    a.bind (takeString (fun n => s.full n && ok k n) k)) (some (free, []))
  let both := (ks.filter fun k => img.accepts3 k).foldl (fun a k =>
    a.bind fun b =>
      match takeString (fun n => !s.full n && ok k n) k b with
      | some c => some c
      | none => takeString (fun n => s.full n && ok k n) k b) first
  both.map fun a => ks.filterMap fun k => (a.2.find? fun p => p.1 == k).map (·.2)

/-- The tiles that a task saved, of position k. -/
def Task.savedAt (x : Task) (k : Nat) : List SaveArea := x.saves.filter fun v => v.tix / 4 == k

/-- Places for the blocks l of the save areas of a task on strings, in one piece or in pages, beside its other blocks (R424, R502); none where one finds no room. -/
def moveSaves (s : State) (x : Task) (strings : List StringId) (taken : List Placement) (l : List Placement) :
    Option (List Placement) :=
  let others := s.held [x.id]
  l.foldl (fun a c =>
    a.bind fun done =>
      match (strings[c.tix / 4]?).bind fun n => s.posTile n (c.tix % 4) with
      | some t =>
        (placeSpan c.tix (t.val * 2 ^ 36) (busyOn t (others ++ taken ++ done)) 0 (c.va, c.size)).map fun p => done ++ p
      | none => none) (some [])

/-- Whether a pre-empted task may resume with position k on a string (R87, R424): the same number of tiles, each with at
least as many present cores; the module id of then; the same string where the program rigs out of the module; and room for what
is leased and for the save areas. -/
def mayResume (s : State) (x : Task) (k : Nat) (n : StringId) : Bool :=
  let old := x.savedAt k
  let same := x.strings[k]? == some n
  (s.positions n).length == old.length && x.modid == s.hub.modid &&
    (old.all fun v =>
      match s.posTile n (v.tix % 4) with
      | some t => decide (v.tile.ncores ≤ (s.tile t).ncores)
      | none => false) &&
    (same || (!rigsOut x.rig.words &&
      let there := List.replicate k n ++ [n]
      let new := choosePlaces s x there (x.places.filter fun c => c.tix / 4 != k) 0
      (new.2.all fun p => p.1.tix / 4 != k) &&
        (moveSaves s x there new.1 (x.saveAt.filter fun c => c.tix / 4 == k)).isSome))

/-- The strings of a candidate, if placement succeeds on those given. -/
def placeTask (s : State) (x : Task) (free : List StringId) : Option (List StringId) :=
  placement s x.img (if x.stat = .preempted then mayResume s x else fun _ _ => true) free

/-! ## Submission -/

/-- The MPA that bits [47:lo] of a word name. -/
def mpaField (v : DWord) (lo : Nat) : Nat := v.toNat % 2 ^ 48 / 2 ^ lo * 2 ^ lo

/-- Whether the inventory has the strings that an image needs (R209). -/
def enoughStrings (s : State) (img : Img) : Bool :=
  let up := (fins 8).filter s.stringUp
  decide (((List.range img.nstr).filter fun k => !img.accepts3 k).length ≤ (up.filter s.full).length) &&
    decide (img.nstr ≤ up.length)

/-- The refusal of a submission whose image is valid, the first of R209 that holds; `reserved` says that a reserved field of its
descriptor is not zero. -/
def submitRefusal (s : State) (img : Img) (w1 w2 : DWord) (reserved : Bool) : Option (BitVec 16) :=
  let id : BitVec 16 := w1.extractLsb' 48 16
  let pred : BitVec 16 := w1.extractLsb' 32 16
  let hv := w1.getLsbD 31
  let htile := (w2.extractLsb' 43 5).toNat
  let six : Option (BitVec 16) := if reserved then some 6 else none
  if !loadsFit img then some 2
  else if !enoughStrings s img then some 3
  else if id = 0 ∨ (s.task? id).isSome then some 4
  else if pred ≠ 0 ∧ (hv ∨ (s.task? pred).isNone) then some 5
  else if hv then
    match s.task? (w2.extractLsb' 48 16) with
    | none => some 6
    | some y =>
      if 4 * y.img.nstr ≤ htile ∨ (y.slot.isSome ∧ (s.bound y htile).isNone) then some 6 else six
  else six

/-- Whether a reserved field of the submission descriptor at an MPA is not zero (R208, R209). -/
def descrReserved (s : State) (d : Nat) : Bool :=
  let w (i : Nat) : DWord := s.readDWord (d + 8 * i)
  (w 0).extractLsb' 48 16 != 0 || (w 0).extractLsb' 0 6 != 0 || (w 1).extractLsb' 0 31 != 0 || (w 2).extractLsb' 32 3 != 0 ||
    (w 3).extractLsb' 48 16 != 0 || (w 3).extractLsb' 0 4 != 0 || [4, 5, 6, 7].any fun i => w i != 0

/-- A submission taken from its queue's doorbell (R207 to R211). -/
def submit (s : State) (b : PrioId × DWord) : State :=
  let d := mpaField b.2 6
  let w0 := s.readDWord d
  let w1 := s.readDWord (d + 8)
  let w2 := s.readDWord (d + 16)
  let id : BitVec 16 := w1.extractLsb' 48 16
  let cpl := mpaField (s.readDWord (d + 24)) 4
  let s := countRead d 64 s
  let queued := s.hub.tasks.filter fun x => x.prio == b.1 && (x.stat == .queued || x.stat == .preempted)
  if 256 ≤ queued.length then completion cpl id 0x04 0 0 s
  else
    let s := countRead (mpaField w0 6) (s.leAt (mpaField w0 6 + 48) 8) s
    match parseImage s (mpaField w0 6) with
    | none => completion cpl id 0x03 0 1 s
    | some img =>
      match submitRefusal s img w1 w2 (descrReserved s d) with
      | some r => completion cpl id 0x03 0 r s
      | none =>
        let (n, s) := s.stamp
        let x : Task := {
          id := id, prio := b.1, pred := w1.extractLsb' 32 16,
          hold := if w1.getLsbD 31 then
              some (w2.extractLsb' 48 16, (w2.extractLsb' 43 5).toNat, (w2.extractLsb' 35 8).toNat, w2.truncate 32)
            else none,
          cpl := cpl, img := img, order := n }
        s.modHub fun h => { h with tasks := h.tasks ++ [x] }

/-- TASK_DOORBELL (R42, R207, R410): the doorbell of a queue waits for the dispatcher's cycle; before READY it is discarded
and sets EARLY, and after a module-fatal fault it is discarded. -/
def execTaskDoorbell (v : DWord) (s : State) : Host.Outcome State Fault Refusal :=
  if s.hub.stage ≠ 0xE then .next (s.modHub fun h => { h with early := true })
  else if s.hub.dead then .next s
  else
    .next (pokeDispatcher (s.modHub fun h => { h with bells := h.bells ++ [(fin 8 s.cur.ix, v)] }))

/-! ## The scan -/

/-- Whether a task comes before another in its queue (R212). -/
def earlier (x y : Task) : Bool :=
  if x.stat = y.stat then decide (x.order < y.order) else x.stat == .preempted

/-- The candidate of a queue (R212). -/
def State.candidate (s : State) (q : PrioId) : Option Task :=
  s.hub.tasks.foldl (fun b x =>
    if x.prio = q ∧ (x.stat = .preempted ∨ (x.stat = .queued ∧ x.pred = 0 ∧ x.hold.isNone)) then
      match b with
      | some y => if earlier x y then some x else b
      | none => some x
    else b) none

/-- Whether a victim comes before another (R214): from the highest queue, then the latest launch. -/
def victimFirst (x y : Task) : Bool :=
  decide (y.prio.val < x.prio.val) || (x.prio == y.prio && decide (y.launchedAt < x.launchedAt))

/-- A victim in its place among others. -/
def putVictim (x : Task) : List Task → List Task
  | [] => [x]
  | y :: r => if victimFirst x y then x :: y :: r else y :: putVictim x r

/-- The tasks that a candidate of queue q may pre-empt, in order (R214). -/
def State.victims (s : State) (q : PrioId) : List Task :=
  (s.hub.tasks.filter fun x => x.stat == .running && decide (q.val < x.prio.val)).foldl (fun l x => putVictim x l) []

/-- The pre-emption of a running task asked for in this rc (R85). -/
def requestStop (x : Task) (s : State) : State :=
  match x.slot with
  | some n => (s.modTask x.id fun y => { y with stat := .stopping }).dueN s.now n.val .preemptionRequest
  | none => s

/-- The shortest prefix of the victims with which a candidate can be placed, pre-empted, and the strings reserved (R214). -/
def preemptFor (x : Task) (s : State) : State :=
  let l := s.victims x.prio
  let free := s.freeStrings x.id
  let tries := (List.range l.length).map fun i => l.take (i + 1)
  let open' (vs : List Task) : List StringId :=
    (fins 8).filter fun n => free.contains n || (s.stringUp n && vs.any fun v => v.strings.contains n)
  match tries.find? fun vs => (placeTask s x (open' vs)).isSome with
  | none => s
  | some vs =>
    let used := (placeTask s x (open' vs)).getD []
    let kept := (fins 8).filter fun n => (used.contains n && free.contains n) || vs.any fun v => v.strings.contains n
    let s := s.modHub fun h => { h with reserved := h.reserved.filter (fun r => r.1 != x.id) ++ [(x.id, kept)] }
    vs.foldl (fun s v => requestStop v s) s

/-- A candidate bound to strings and a slot; its lease is asked for (R63, R213). -/
def launchTask (x : Task) (strings : List StringId) (slot : SlotId) (s : State) : State :=
  let s := s.modHub fun h => { h with reserved := h.reserved.filter fun r => r.1 != x.id }
  tryGrant x.id (s.modTask x.id fun y => { y with stat := .launching, strings := strings, slot := some slot })

/-- Granules of moved memory that cannot be corrected (R418, R443). -/
def badMoved (s : State) (old new : List Placement) : Option Nat :=
  (old.filter fun c => !new.contains c).findSome? fun c => s.badIn c.mpa c.size

/-- The held successors of a task lose the lease granted on its tiles, and are granted anew (R211). -/
def regrantHeld (id : BitVec 16) (s : State) : State :=
  s.modHub fun h =>
    { h with tasks := h.tasks.map fun y =>
        if y.stat = .queued ∧ y.pred = id then { y with granted := false, places := [], leases := [] } else y }

/-- A fault of the spill or of the restore: the task ends with its code (R418). -/
def faultTransfer (x : Task) (granule : Nat) (s : State) : State :=
  let r : FaultRec := {
    code := .dataUncorrectable, kind := .async, task := x.id, addr := some (true, BitVec.ofNat 60 granule),
    extra := BitVec.ofNat 64 (s.storeCode granule) }
  endByFault x.id .dataUncorrectable (writeRec r .host .taskFatal s)

/-- An MPA that a tile kept at its spill, under the new placement and on the new tile t: leased memory where it has moved to, on-die
memory that of the same logical core (R64, R88, R91). -/
def movedMpa (s : State) (v : SaveArea) (t : TileId) (old new : List Placement) (mpa : Nat) : Nat :=
  if 0x800000000000 ≤ mpa ∧ mpa < 0x900000000000 then
    let k := (v.tile.logCore (mpa / 2 ^ 35 % 16)).getD 0
    onDieMpa t.val (((s.tile t).physCore k.val).getD 0) (mpa / 2 ^ 32 % 8) (mpa % 2 ^ 32)
  else (movedTo old new mpa).getD mpa

/-- The watermark of a channel with its range and its written rows moved: the range is that of the moved rows, and the mark its
lowest row not yet written (R64, R117; log 60). -/
def Chan.moved (f : Nat → Nat) (x : Chan) : Chan :=
  match x.wm with
  | none => x
  | some (w, hi, lo) =>
    let at' (r : Nat) : Nat := f (256 * r) / 256
    let rows := (List.range ((hi - lo) / 256)).map fun i => at' (lo / 256 + i)
    let lo' := rows.foldl Nat.min (at' (lo / 256))
    let hi' := rows.foldl Nat.max 0 + 1
    let wrote := (List.range ((w - lo) / 256)).map (fun i => at' (lo / 256 + i)) ++ x.wrote.map at'
    let mark := ((List.range (hi' - lo')).find? fun i => !wrote.contains (lo' + i)).map (lo' + ·) |>.getD hi'
    { x with wm := some (256 * mark, 256 * hi', 256 * lo'), wrote := wrote.filter fun r => decide (mark ≤ r) }

/-- What a tile kept at its spill, for its resume on other tiles: watermarks and staged chunks name the places of the new binding,
and substitutes of failed ports stay where the tile is the same (R64, R88, R460). -/
def movedSave (s : State) (was strings : List StringId) (old new : List Placement) (v : SaveArea) : SaveArea :=
  match (strings[v.tix / 4]?).bind fun n => s.posTile n (v.tix % 4) with
  | none => v
  | some t =>
    let f := movedMpa s v t old new
    { v with
      tile := { v.tile with
        subst := if was[v.tix / 4]? = strings[v.tix / 4]? then v.tile.subst else []
        chans := v.tile.chans.mapVals fun _ x => x.moved f
        staged := v.tile.staged.map fun c => { c with mpa := BitVec.ofNat 48 (f c.mpa.toNat) } } }

/-- The bytes of HBM that a move reads and writes, counted (R54, R88). -/
def countMove (old new : List Placement) (s : State) : State :=
  let s := (old.filter fun c => !new.contains c).foldl (fun s c => countRead c.mpa c.size s) s
  (new.filter fun c => !old.contains c).foldl (fun s c => countWrite c.mpa c.size s) s

/-- A pre-empted candidate bound anew (R87, R88): its memory moves, and it resumes from the next fabric step on. -/
def resumeTask (x : Task) (strings : List StringId) (slot : SlotId) (s : State) : State :=
  let s := s.modHub fun h => { h with reserved := h.reserved.filter fun r => r.1 != x.id }
  let same (tix : Nat) : Bool := x.strings[tix / 4]? == strings[tix / 4]?
  let (v, s) := if strings = x.strings then (0, s) else s.fresh
  let new := (choosePlaces s x strings (x.places.filter fun c => same c.tix) (v.toNat / pageSize * pageSize)).1
  let stay := x.saveAt.filter fun c => same c.tix
  let saves := stay ++ (moveSaves s x strings (new ++ stay) (x.saveAt.filter fun c => !same c.tix)).getD []
  let bad := badMoved s (x.places ++ x.saveAt) (new ++ saves)
  let mem := moveMem (x.places ++ x.saveAt) (new ++ saves) s.mem
  let s := if strings = x.strings then s else countMove (x.places ++ x.saveAt) (new ++ saves) (regrantHeld x.id { s with mem := mem })
  let s := giveCtx x.id s
  let s := s.modTask x.id fun y =>
    { y with
      stat := .launching, strings := strings, slot := some slot, places := new, saveAt := saves
      saves := x.saves.map (movedSave s x.strings strings x.places new)
      leases := pieces y.img.ranges new }
  match bad with
  | some g => faultTransfer x g s
  | none => s.dueN (stepAfter s.now) slot.val .resume

/-- One queue in a scan (R212): a candidate whose victims are still on their way off waits, unless it can be placed without
them. -/
def scanQueue (s : State) (q : PrioId) : State :=
  match s.candidate q with
  | none => s
  | some x =>
    let mine := (s.hub.reserved.filter fun r => r.1 == x.id).flatMap (·.2)
    match placeTask s x (s.freeStrings x.id), s.freeSlot with
    | some ss, some slot => if x.stat = .preempted then resumeTask x ss slot s else launchTask x ss slot s
    | _, _ => if mine.any s.busyString then s else preemptFor x s

/-- Whether the dispatcher launches tasks now (R42, R55, R58, R410). -/
def State.dispatches (s : State) : Bool := s.hub.stage == 0xE && !s.hub.dead && s.hub.stream.isNone

/-- DISPATCHER_SCAN (R206, R207, R212, R410): at the end of a cycle with events the doorbells are taken by queue, or discarded
after a module-fatal fault, the holds that are met are released, those of new submissions too, and one scan is made; the
memory processor looks again at what it has not granted. -/
def execDispatcherScan (s : State) : Host.Outcome State Fault Refusal :=
  let s := s.modHub fun h => { h with scanned := some (s.now / 2) }
  let bells := if s.hub.dead then [] else (fins 8).flatMap fun q => s.hub.bells.filter fun b => b.1 == q
  let s := bells.foldl submit (s.modHub fun h => { h with bells := [] })
  let s := retryGrants (releaseHolds s)
  .next (if s.dispatches then (fins 8).foldl scanQueue s else s)

/-! ## The end of a task -/

/-- Whether a job of a queue still stands in it. -/
def Core.queuesEmpty (x : Core) : Bool :=
  x.mxq.isEmpty && x.hxq.isEmpty && x.sendq.isEmpty && (List.range 8).all fun c => (x.chq.get c []).isEmpty

/-- Whether a tile has ended its part of its task (R78). -/
def Tile.ended (x : Tile) : Bool :=
  (x.coreList.all fun k =>
    let y := x.core k
    y.exited.isSome && y.queuesEmpty && y.pend.all fun p => p.data.isNone) &&
    x.circs.rows.all fun p => p.2.waiting.isEmpty && p.2.sent.all fun m => !m.posted || m.delivered p.2

/-- TILE_PART_END (R78, R386): a tile that has ended its part; with the last of a task's tiles the task ends, at the next
step. The EXITs of this rc are taken first (R430). -/
def execTilePartEnd (s : State) : Host.Outcome State Fault Refusal :=
  let t := s.cur.tile
  let s := match s.tileTask t with
    | some x => x.exits.foldl (takeExit x.id) (s.modTask x.id fun y => { y with exits := [] })
    | none => s
  match s.tileTask t with
  | none => .next s
  | some x =>
    let up := (x.stat == .running || x.stat == .stopping) && !x.derigging
    if up && !(s.tile t).partDone && (s.tile t).ended then
      let s := s.modTile t fun y => { y with partDone := true }
      if (s.taskTiles x).all fun u => (s.tile u).partDone then
        match x.slot with
        | some n => .next (s.dueN (stepAfter s.now) n.val .taskEnd)
        | none => .next s
      else .next s
    else .next s

/-- The held successor that takes over from a task (R79). -/
def successor (s : State) (x : Task) (t : BitVec 16) : Option Task :=
  if t = 0 then none
  else (s.task? t).filter fun y => y.stat == .queued && y.pred == x.id && y.granted && placementMatches s y.img x.strings

/-- TASK_END (R78, R79, R210, R211, R386): the last tile of the task of a slot has ended its part; its program ends, its
circuits are derigged and its record is written, and a held successor that its EXIT names takes its tiles over. -/
def execTaskEnd (s : State) : Host.Outcome State Fault Refusal :=
  let slot : SlotId := fin 8 s.cur.ix
  match s.slotTask slot with
  | none => .next s
  | some x =>
    let t := x.firstExit.getD 0
    if !((x.stat == .running || x.stat == .stopping) && !x.derigging && (s.taskTiles x).all fun u => (s.tile u).partDone) then
      .next s
    else
      let drop (n : BitVec 16) : Bool := t != 0 && n != t
      match successor s x t with
      | some y =>
        let s := retire x 0x00 t 0 drop true s
        let s := s.modTask y.id fun z =>
          { z with stat := .takeover, strings := x.strings, slot := some slot, pred := 0 }
        .next ((giveCtx y.id s).dueN (stepAfter s.now) slot.val .launch)
      | none => .next (retire x (if t = 0 then 0x00 else 0x01) t 0 drop false s)

end Sys2Proof.Machine
end

