-- ==== Sys2Proof/Machine/Preempt.lean ====
section
/-!
DEFINITION. Pre-emption and resumption of a task (spec/03 R81 to R88, spec/17 R387, spec/21 R418, R424).
-/
namespace Sys2Proof.Machine

/-! ## The request -/

/-- PREEMPTION_REQUEST (R85, R387, R429): the request reaches every tile of the task of a slot in one rc; its rig program
executes no more words, its cores are watched, and each that can stop at once does. -/
def execPreemptionRequest (s : State) : Host.Outcome State Fault Refusal :=
  let slot : SlotId := fin 8 s.cur.ix
  match s.slotTask slot with
  | none => .next s
  | some x =>
    if x.stat ≠ .stopping ∨ x.preemptAt.isSome then .next s
    else
      let s := s.modTask x.id fun y => { y with preemptAt := some s.now, rig := { y.rig with stopReq := true } }
      let s := (s.taskTiles x).foldl (fun s t =>
        (s.tile t).coreList.foldl (fun s k =>
          let s := s.modCore t k fun c => { c with watch := s.now }
          (s.dueK s.now t k .coreStop).dueK (s.now + 320000) t k .watchdog) s) s
      .next ((s.dueN (stepAt s.now) slot.val .rigProgramStop).dueN (stepAfter s.now) slot.val .preemptionComplete)

/-- The handles of a slot, by tile. -/
def State.slotHandles (s : State) (slot : SlotId) : List (TileId × HandleId) :=
  s.handles.filter fun p => (s.circ p.1 p.2.val).slot == some slot

/-- Whether a handle keeps a rig program from its stop (R387): it is RIGGING, SETTLING or REROUTING. One that is DERIGGING while
its circuit reroutes does not (R462). -/
def Circ.unsettled (c : Circ) : Bool := c.state == .rigging || c.state == .settling || c.state == .rerouting

/-- RIG_PROGRAM_STOP (R85, R387): at a step boundary with no handle RIGGING, SETTLING or REROUTING the program of a slot
stops, with the steps left of its HOLD. -/
def execRigProgramStop (s : State) : Host.Outcome State Fault Refusal :=
  let slot : SlotId := fin 8 s.cur.ix
  match s.slotTask slot with
  | none => .next s
  | some x =>
    if x.stat ≠ .stopping ∨ !x.rig.stopReq ∨ x.rig.stopped then .next s
    else if s.now % 32 ≠ 0 ∨ (s.slotHandles slot).any fun p => (s.circ p.1 p.2.val).unsettled then
      .next (s.dueN (stepAfter s.now) slot.val .rigProgramStop)
    else
      .next (modRig x.id (fun r => { r with stopped := true, holdLeft := r.holdTo - s.now / 32, waitXport := none }) s)

/-! ## The spill -/

/-- Whether a job stands where a pre-emption may leave it (R85). -/
def Job.rests (j : Job) : Bool := j.stat == .queued || j.stat == .offered || j.stat == .frozen || j.stat == .parked

/-- Whether a core has stopped with its engines frozen (R85). -/
def Core.settled (x : Core) : Bool :=
  x.stopped && x.mxq.all Job.rests && x.hxq.all Job.rests && x.sendq.all Job.rests &&
    (List.range 8).all fun c => (x.chq.get c []).all Job.rests

/-- Whether a tile has nothing on its way (R85). -/
def Tile.settled (x : Tile) : Bool :=
  (x.coreList.all fun k => (x.core k).settled) && x.landing.isEmpty && x.portq.isEmpty && x.walkq.isEmpty && x.asks.isEmpty

/-- The live map of a core, as the number of its 32 bytes (R81); none where all that can be live is saved: a core that has
halted or exited, or waits for the supervisor, stops at no safe point that names a map (R277; log 21, log 59). -/
def liveMapOf (s : State) (x : Task) (c : Core) : Option Nat :=
  if c.halted || c.exited.isSome || c.waitsSup then none
  else some (match (x.img.records 5 0xFF)[c.liveMap]? with
    | some r => s.leAt r 32
    | none => 0)

/-- Whether bit n of a live map is set. -/
def liveBit (m : Option Nat) (n : Nat) : Bool :=
  match m with
  | some w => w / 2 ^ n % 2 == 1
  | none => true

/-- A table with only the entries whose keys p names. -/
def Tbl.only {α : Type} (t : Tbl α) (p : Nat → Bool) : Tbl α := ⟨t.rows.filter fun r => p r.1⟩

/-- A core with what is not live cleared (R64, R81). -/
def spillCore (m : Option Nat) (x : Core) : Core :=
  { x with
    s := x.s.only (liveBit m), a := x.a.only fun n => liveBit m (64 + n), v := x.v.only fun n => liveBit m (128 + n),
    e := x.e.only fun n => liveBit m (160 + n), k := x.k.only fun n => liveBit m (200 + n),
    acc := x.acc.only fun n => liveBit m (208 + n / 4096), macros := x.macros.only fun n => liveBit m (196 + n) }

/-- Whether a scratchpad row lies in a live region (R81, R103). -/
def liveRow (m : Option Nat) (x : Core) (row : Nat) : Bool :=
  (List.range 8).any fun n =>
    let d := x.rgn.get n 0
    let base := (d.extractLsb' 16 14).toNat
    liveBit m (240 + n) && d.getLsbD 63 && decide (base ≤ row) && decide (row < base + (d.extractLsb' 40 16).toNat)

/-- The rows of a core's scratchpad that hold a listed byte. -/
def padRows (s : State) (t : TileId) (k : CoreId) : List Nat :=
  let base := s.padMpa t k 0
  ((s.mem.filter fun c => decide (base ≤ c.1) && decide (c.1 < base + 0x400000)).map fun c => (c.1 - base) / 256).eraseDups

/-- The live rows of the cores of a tile (R64, R85). -/
def liveRows (s : State) (x : Task) (t : TileId) : List (CoreId × Nat) :=
  (s.tile t).coreList.flatMap fun k =>
    let c := s.core t k
    let m := liveMapOf s x c
    ((padRows s t k).filter (liveRow m c)).map fun r => (k, r)

/-- What a tile of a task saves (R64, R81, R85). -/
def spillTile (s : State) (x : Task) (tix : Nat) (t : TileId) : SaveArea :=
  let y := s.tile t
  {
    tix := tix
    tile := { y with cores := ⟨y.coreList.map fun k =>
      (k.val, { spillCore (liveMapOf s x (y.core k)) (y.core k) with engEc := (y.core k).ecNo s.now })⟩, circs := {} }
    rows := (liveRows s x t).map fun r => (r.1, r.2, s.readRow (s.padMpa t r.1 (256 * r.2))) }

/-- A register or an accumulator of a core that is live and was found uncorrectable (R81, R441). -/
def badLive (s : State) (x : Task) (t : TileId) (k : CoreId) : Option Nat :=
  let c := s.core t k
  let m := liveMapOf s x c
  let reg (cl : Cluster) (n : Nat) : Bool :=
    liveBit m (match cl with
      | .c => n
      | .m => 64 + n
      | .v => if 128 ≤ n then 200 + (n - 128) else 128 + n
      | .e => 160 + n)
  ([Cluster.c, .v, .m, .e].findSome? fun cl => ((c.clu cl).badRegs.find? (reg cl)).map fun n =>
      s.coreMpa t k 2 (regSpan cl n).1).orElse fun _ =>
    (c.badAcc.find? fun i => liveBit m (208 + i / 4096)).map fun i => s.coreMpa t k 1 (i / 4096 * 0x6000 + i % 4096 * 6)

/-- What a task spills that cannot be corrected, as an MPA (R418, R441, R443): a live row, register or accumulator, a semaphore or a
slot of the shape table. The macros, whose columns have no MPA, stand under the first byte of their core's banks (log 57). -/
def badSpill (s : State) (x : Task) : Option Nat :=
  (s.tixTiles x).findSome? fun p =>
    let y := s.tile p.2
    (((liveRows s x p.2).findSome? fun r => s.badIn (s.padMpa p.2 r.1 (256 * r.2)) 256).orElse fun _ =>
      y.coreList.findSome? fun k => badLive s x p.2 k).orElse fun _ =>
    ((y.badSems.head?.map fun n => semMpa p.2 n.toNat).orElse fun _ =>
      y.shapes.keys.findSome? fun n => s.badIn (slotMpa p.2 n) 64).orElse fun _ =>
    y.coreList.findSome? fun k =>
      if (y.core k).badMac.any fun q => liveBit (liveMapOf s x (y.core k)) (196 + q.1) then some (s.coreMpa p.2 k 1 0) else none

/-- A circuit that was LIVE, in terms of its task: the tiles of its ends by task tile index, and the ports that the task
named (R88, R460). -/
def liveCirc (s : State) (x : Task) (t : TileId) (c : Circ) : Circ :=
  let named (u : TileId) (p : BitVec 4) : BitVec 4 :=
    match (s.tile u).subst.find? fun y => BitVec.ofNat 4 y.2.1 == p && some y.2.2 == x.slot with
    | some y => BitVec.ofNat 4 y.1
    | none => p
  {
    mcast := c.mcast, ext := c.ext, inb := c.inb, port := named t c.port, pref := c.pref,
    ends := c.ends.map fun e =>
      if s.here e then
        let u : TileId := fin 32 e.tile.toNat
        { e with tile := (s.tile u).ltile, port := named u e.port }
      else e }

/-- The blocks in the HBM of its tile for the save area of a spill, in one piece or in pages: its rows, and those of what is not
rows (R85, R502; log 34), named by addresses that are no VA; none where no lease leaves room. -/
def saveArea (s : State) (taken : List Placement) (t : TileId) (v : SaveArea) : Option (List Placement) :=
  placeSpan v.tix (t.val * 2 ^ 36) (busyOn t (s.held [] ++ taken)) 0
    (2 ^ 60, alignUp (256 * (v.rows.length + Config.saveRows)) pageSize)

/-- The save areas of a task placed in turn: where they are is the memory processor's choice (R502; log 34); none where one finds
no room. -/
def saveAreas (s : State) (l : List (TileId × SaveArea)) : Option (List Placement) :=
  l.foldl (fun a p => a.bind fun done => (saveArea s done p.1 p.2).map fun c => done ++ c) (some [])

/-- The blocks of a save area written with what is spilled, in the format of the spill, which is an open choice (R55, R85; log
34). -/
def writeSave (l : List Placement) (v : SaveArea) (s : State) : State :=
  let spilled := toString (repr v)
  (l.filter fun c => c.tix == v.tix).foldl (fun s c =>
    countWrite c.mpa c.size (s.writeBytes c.mpa ((List.range c.size).map fun i => Config.saveByte spilled (c.va - 2 ^ 60 + i)))) s

/-- A task whose spill is complete off its tiles, its state in the save areas l, at the front of its queue (R85, R212, R214). Its
strings keep their throttle level: no task on them ends (R219). -/
def putAside (x : Task) (saves : List SaveArea) (l : List Placement) (s : State) : State :=
  match badSpill s x with
  | some g => faultTransfer x g s
  | none =>
    let tiles := s.tixTiles x
    let s := saves.foldl (fun s v => writeSave l v s) (s.modTask x.id fun y => { y with saveAt := l })
    let s := tiles.foldl (fun s p => freeTile p.2 s) s
    let s := s.undue fun a => match a with
      | .rig n => some n == x.slot
      | _ => false
    let (n, s) := s.stamp
    pokeDispatcher (s.modTask x.id fun y =>
      { y with
        stat := .preempted, slot := none, saves := saves, derigging := false, preemptAt := none, order := n,
        modid := s.hub.modid })

/-- PREEMPTION_COMPLETE (R85, R418): once every core of the task of a slot has stopped, its engines are frozen and its
program has stopped, the LIVE handles are recorded and its circuits derigged; once they are IDLE, and the memory processor has
room for the save areas, its tiles spill. -/
def execPreemptionComplete (s : State) : Host.Outcome State Fault Refusal :=
  let slot : SlotId := fin 8 s.cur.ix
  match s.slotTask slot with
  | none => .next s
  | some x =>
    if x.stat ≠ .stopping ∨ x.preemptAt.isNone then .next s
    else
      let ready := (s.taskTiles x).all fun t => (s.tile t).settled
      let again (s : State) : State := s.dueN (stepAfter s.now) slot.val .preemptionComplete
      if !ready ∨ !x.rig.stopped ∨ x.supFault then .next (again s)
      else if !x.derigging then
        let live := (s.slotHandles slot).filterMap fun p =>
          let c := s.circ p.1 p.2.val
          if c.state = .live then some ((s.tile p.1).ltile.toNat, p.2, liveCirc s x p.1 c) else none
        .next (again (derigTask slot (s.modTask x.id fun y => { y with derigging := true, live := live })))
      else if !(s.slotHandles slot).isEmpty then .next (again s)
      else
        let saves := (s.tixTiles x).map fun p => (p.2, spillTile s x p.1 p.2)
        match saveAreas s saves with
        | some l => .next (putAside x (saves.map Prod.snd) l s)
        | none => .next (again s)

/-! ## Resumption -/

/-- A core on the tile that a task resumes on: as it was saved, stopped, under its new binding; one that the saved tile
lacked takes no part (R87, R101). -/
def resumedCore (v : SaveArea) (k : CoreId) (off ctx level now : Nat) : Core :=
  if k.val < v.tile.ncores then
    let c := (v.tile.core k).dropAllLatches
    { c.mapClu fun _ y =>
        { y with next := 0, xq := [], xk := [], late := [], busy := {}, last := 0, pushed := 0, badRegs := [], badXq := [] } with
      lq := [], lk := [], sq := [], sk := [], pend := [], bankq := [], badLq := [], badSq := [], badAcc := [], badMac := []
      heapoff := BitVec.ofNat 18 off, ctx := BitVec.ofNat 4 ctx, meff := Nat.max c.mdivNew (2 + level), mdiv := c.mdivNew,
      engFrom := now, engAt := now, gated := false, wakeReq := false, woken := false }
  else { exited := some 0, stopped := true }

/-- A tile with what a task saved put in place of what another left there (R64, R88). -/
def resumedTile (s : State) (x : Task) (v : SaveArea) (t : TileId) : Tile :=
  let y := s.tile t
  let o := v.tile
  let off := heapOff x.img.ranges x.places v.tix
  let level := (s.str (stringOf t)).level
  { o with
    cores := ⟨y.coreList.map fun k =>
      (k.val, { resumedCore v k off (x.ctx.getD 0) level s.now with
        tileid := tileidOf s.hub.modid t (BitVec.ofNat 5 v.tix), coreid := y.coreidOf k })⟩
    circs := y.circs, homes := y.homes, evtsel := y.evtsel, evtcnt := y.evtcnt, evtLater := y.evtLater, routes := y.routes, routesWas := y.routesWas,
    lim := { y.lim with battcnt := o.lim.battcnt, rampdn := o.lim.rampdn }, strimb := y.strimb, imbs := y.imbs,
    ports := y.ports, subst := o.subst.map fun p => (p.1, p.2.1, x.slot.getD 0), soft := y.soft, softAt := y.softAt, present := y.present, inService := y.inService,
    jobCtr := Nat.max y.jobCtr o.jobCtr, lastGrant := y.lastGrant, lastWoken := y.lastWoken, slot := x.slot, partDone := false }

/-- The saved tiles of a task on its new ones (R88). -/
def restoreTiles (x : Task) (s : State) : State :=
  let s := x.saveAt.foldl (fun s c => countRead c.mpa c.size s) s
  x.saves.foldl (fun s v =>
    match s.bound x v.tix with
    | some t =>
      let s := (zeroPads t s).setTile t (resumedTile s x v t)
      v.rows.foldl (fun s r => s.writeRow (s.padMpa t r.1 (256 * r.2.1)) r.2.2) s
    | none => s) s

/-- The handles that were LIVE rigged again (R88). -/
def rerigTask (x : Task) (s : State) : State :=
  x.live.foldl (fun s l =>
    match s.bound x l.1 with
    | some t =>
      let slot := x.slot.getD 0
      let ends := l.2.2.ends.map fun e =>
        if s.here e then
          match s.bound x e.tile.toNat with
          | some u =>
            let p := (taskPort s u slot e.port.toNat).getD e.port.toNat
            { e with tile := BitVec.ofNat 5 u.val, port := BitVec.ofNat 4 p }
          | none => e
        else e
      let p := (taskPort s t slot l.2.2.port.toNat).getD l.2.2.port.toNat
      startRig t l.2.1 { l.2.2 with slot := some slot, port := BitVec.ofNat 4 p, ends := ends } s
    | none => s) s

/-- A job that was frozen goes on in its queue (R85). -/
def Job.thaw (j : Job) : Job := if j.stat = .frozen then { j with stat := .queued } else j

/-- A core restarted: its oldest held fault is taken before any word issues, its queues go on, and the hub's recoveries of its
parked queues too; one that waits for the supervisor goes on waiting (R82, R84, R88, R413, R417, R418). -/
def restartCore (t : TileId) (k : CoreId) (s : State) : State :=
  let s := s.modCore t k fun x =>
    let x := if x.exited.isSome || x.halted || x.waitsSup then x else x.mapClu fun _ y => { y with stat := .running }
    { x with
      stopped := false, quietAt := nextEc s.now x.cdiv, idleAt := s.now, watch := s.now, mxq := x.mxq.map Job.thaw,
      chq := x.chq.mapVals fun _ l => l.map Job.thaw }
  let s := takeHeld t k (scheduleCore t k s)
  let s := (List.range 11).foldl (fun s n => kickQueue t k (queueOf n) s) s
  (s.core t k).parkedQueues.foldl (fun s n =>
    match (((s.core t k).queue (queueOf n)).find? fun j => j.stat == .parked).bind (·.hub) with
    | some 64 => s.enable t k n .hubRecovery
    | some _ => s.dueU (stepAfter s.now) t k n .hubRecovery
    | none => s) s

/-- The program and the cores of a resumed task restarted together (R88, R387). -/
def restartTask (x : Task) (slot : SlotId) (s : State) : State :=
  let s := s.modTask x.id fun y =>
    { y with
      stat := .running, saves := [], live := [],
      rig := { y.rig with stopReq := false, stopped := false, count := 0, holdTo := s.now / 32 + y.rig.holdLeft, holdLeft := 0 } }
  let s := if x.rig.ended then s else s.due (stepAt s.now) (.rig slot)
  let s := (s.taskTiles x).foldl (fun s t =>
    ((s.tile t).coreList.foldl (fun s k => restartCore t k s) s).dueT s.now t .tilePartEnd) s
  pokeDispatcher s

/-- Whether the binding that a pre-empted task has been given still meets R87: its tiles or their cores may have gone since (R434,
R436). -/
def bindingHolds (s : State) (x : Task) : Bool :=
  (List.range x.strings.length).all fun k =>
    match x.strings[k]? with
    | some n => s.stringUp n && mayResume s x k n
    | none => false

/-- A task whose binding holds no longer a candidate again (R87, R436). -/
def unbind (x : Task) (s : State) : State :=
  pokeDispatcher (s.modTask x.id fun y => { y with stat := .preempted, slot := none })

/-- RESUME (R87, R88, R418, R436): once the circuits of its new tiles are IDLE, what the task of a slot saved is put back and its
LIVE handles are rigged again; in the step in which all of them are LIVE its program and its cores restart. -/
def execResume (s : State) : Host.Outcome State Fault Refusal :=
  let slot : SlotId := fin 8 s.cur.ix
  match s.slotTask slot with
  | none => .next s
  | some x =>
    let again (s : State) : State := s.dueN (stepAfter s.now) slot.val .resume
    if x.stat ≠ .launching ∨ !x.granted then .next s
    else if s.now % 32 ≠ 0 ∨ s.streaming then .next (again s)
    else if !x.saves.isEmpty then
      if !bindingHolds s x then .next (unbind x s)
      else if !handlesIdle s x then .next (again s)
      else if let some g := x.saveAt.findSome? fun c => s.badIn c.mpa c.size then .next (faultTransfer x g s)
      else
        let s := rerigTask x (restoreTiles x s)
        let s := s.modTask x.id fun y => { y with saves := [], saveAt := [] }
        if x.live.isEmpty then .next (restartTask x slot s) else .next (again s)
    else if x.live.isEmpty then .next s
    else if x.live.all fun l => (s.bound x l.1).any fun t => (s.circ t l.2.1.val).state == .live then
      .next (restartTask x slot s)
    else .next (again s)

end Sys2Proof.Machine
end

