-- ==== Sys2Proof/Machine/Hardware.lean ====
section
/-!
DEFINITION. Failures of units at run time (spec/21 R433 to R436, spec/22 R442, spec/23 R465) and the delivery of a fault
record (spec/20 R410, R413).
-/
namespace Sys2Proof.Machine

/-- FAULT_DELIVERY (R410, R412, R413, R415). -/
def execFaultDelivery (r : FaultRec) (s : State) : Host.Outcome State Fault Refusal := .next (deliver r s)

/-- HUB_FAILURE (R410): every task ends, and the dispatcher discards every doorbell until module reset. -/
def execHubFailure (s : State) : Host.Outcome State Fault Refusal :=
  .next (deliver { code := .hubFailure, kind := .async, task := 0 } s)

/-! ## Bypasses -/

/-- The queued tasks whose images the inventory no longer serves removed (R436). -/
def pruneQueued (s : State) : State :=
  s.hub.tasks.foldl (fun s x =>
    if x.stat = .queued ∧ !enoughStrings s x.img ∧ (s.task? x.id).isSome then removeQueued 256 x 0x03 3 s else s) s

/-- A handle with an end on a tile that goes out of service (R465): it is FAULTED, or, where its DERIG waits for what will not
come, derigged as a FAULTED one. -/
def loseEnd (s : State) (p : TileId × HandleId) : State :=
  match (s.circ p.1 p.2.val).state with
  | .idle => s
  | .derigging => derig p.1 p.2 (faultCirc p.1 p.2 s)
  | _ => faultCirc p.1 p.2 s

/-- The logical tile of a tile for the task bound to its string, whose tiles may not have started yet. -/
def State.tixOf (s : State) (t : TileId) : BitVec 5 :=
  match s.stringTask (stringOf t) with
  | some x => BitVec.ofNat 5 (((List.range (4 * x.strings.length)).find? fun i => s.bound x i == some t).getD 0)
  | none => s.ltileOf t

/-- A record of a failed tile or core: it names the task on the string (R434, R435). -/
def failRec (s : State) (code : FaultCode) (t : TileId) (extra : Nat) : FaultRec :=
  {
    code := code, kind := .async, task := ((s.stringTask (stringOf t)).map (·.id)).getD 0, tile := some (s.tixOf t, t),
    extra := BitVec.ofNat 64 extra }

/-- A tile bypassed with a cause of R433 (R26, R435, R436, R465): the task on its string ends and its circuits are derigged,
every other circuit that ends on a tile that is lost is FAULTED, the string goes on with three tiles at 1.35 V or, after a second
bypass, goes out of service, and the inventory changes. -/
def bypassTile (t : TileId) (cause : Nat) (s : State) : State :=
  let n := stringOf t
  let gone (u : TileId) : Bool := u == t || ((s.str n).bypassed && stringOf u == n)
  let ends (c : Circ) (u : TileId) : Bool := gone u || c.ends.any fun e => s.here e && gone (fin 32 e.tile.toNat)
  let hs := s.handles.filter fun p => ends (s.circ p.1 p.2.val) p.1
  let up := !(s.str n).bypassed
  let s := deliver (failRec s .tileBypassed t (cause + 256 * t.val)) s
  let s := hs.foldl loseEnd s
  let s := (fins 32).foldl (fun s u => if gone u then s.modTile u fun x => { x with inService := false } else s) s
  let s := s.modStr n fun x => { x with bypassed := true, millivolts := 1350, inService := x.inService && up }
  pokeDispatcher (pruneQueued (inventoryChange s))

/-- Whether the condition of a cause of R433 holds for a tile; that of cause 1, no answer to the status poll, is an input. -/
def bypassDue (s : State) (t : TileId) (cause : Nat) : Bool :=
  match cause with
  | 0 => imbalanced s (stringOf t) == some t
  | 1 => true
  | _ => decide ((s.tile t).ncores < 12)

/-- TILE_BYPASS (R433, R435): a tile in service is bypassed for a cause whose condition holds, and for no other. -/
def execTileBypass (cause : Fin 3) (s : State) : Host.Outcome State Fault Refusal :=
  let t := s.cur.tile
  if (s.tile t).inService && bypassDue s t cause.val then .next (bypassTile t cause.val s) else .next s

/-! ## Cores -/

/-- A tile without one of its present cores: those after it move up by one logical number (R27, R434). -/
def Tile.dropCore (x : Tile) (pc : CoreId) : Tile :=
  let gone := ((x.logCore pc.val).map (·.val)).getD 16
  let n := x.ncores - 1
  { x with
    present := x.present &&& ~~~(1#16 <<< pc.val)
    cores := ⟨(List.range n).map fun k => (k, x.cores.get (if k < gone then k else k + 1) {})⟩ }

/-- CORE_FAILED (R434): a present core fails its self-check; the task on the string ends, it is mapped out and the inventory changes; a
tile that would keep fewer than 12 is bypassed instead. -/
def execCoreFailed (pc : CoreId) (s : State) : Host.Outcome State Fault Refusal :=
  let t := s.cur.tile
  let x := s.tile t
  if !x.inService || !x.present.getLsbD pc.val then .next s
  else if x.ncores ≤ 12 then .next (bypassTile t 2 (s.modTile t fun y => { y with present := y.present &&& ~~~(1#16 <<< pc.val) }))
  else
    let s := deliver (failRec s .coreFailed t pc.val) s
    .next (pokeDispatcher (inventoryChange (s.modTile t fun y => y.dropCore pc)))

/-! ## Corrections -/

/-- The period in which a tile writes at most one SOFT_CORRECTED record: 1 ms, counted from module reset (R442). -/
def softPeriod : Nat := 3200000

/-- The SOFT_CORRECTED record of the corrections of a tile since its last one (R437, R442). -/
def softRecord (t : TileId) (mpa : Mpa) (store : BitVec 4) (s : State) : State :=
  let n := (s.tile t).soft
  let s := s.modTile t fun x => { x with soft := 0, softAt := some s.now }
  deliver {
    code := .softCorrected, kind := .async, task := (s.tile t).taskid, tile := some (s.ltileOf t, t),
    addr := some (true, mpa.setWidth 60), extra := BitVec.ofNat 64 (n % 2 ^ 32 + 2 ^ 32 * store.toNat) } s

/-- Whether a due step is the deferred record of a tile. -/
def isSoft (t : TileId) : Act → Bool
  | .instr u _ _ (.softCorrected _ _) => u == t
  | _ => false

/-- SOFT_CORRECTED (R441, R442): a correction is counted, and recorded at once or, where the tile has written a record in
this period, when the next one begins (index 1). -/
def execSoftCorrected (mpa : Mpa) (store : BitVec 4) (s : State) : Host.Outcome State Fault Refusal :=
  let t := s.cur.tile
  if s.cur.ix = 1 then
    if (s.tile t).soft = 0 then .next s else .next (softRecord t mpa store s)
  else
    let s := (s.count t 0x11 none 1).modTile t fun x => { x with soft := x.soft + 1 }
    match (s.tile t).softAt with
    | some n =>
      if n / softPeriod = s.now / softPeriod then
        .next ((s.undue (isSoft t)).dueU (softPeriod * (s.now / softPeriod + 1)) t 0 1 (.softCorrected mpa store))
      else .next (softRecord t mpa store s)
    | none => .next (softRecord t mpa store s)

end Sys2Proof.Machine
end

