-- ==== Sys2Proof/Machine/Host.lean ====
section
/-!
DEFINITION. The host side: the link and MSI-X (spec/02 R33, R34, spec/20 R421), BAR2 (spec/02 R31, R32, spec/04 R89, R91),
and the memory-processor mailbox (spec/02 R38).
-/
namespace Sys2Proof.Machine

/-! ## The link -/

/-- The record of a fault of the host side, which no tile and no task concerns. -/
def hostRec (code : FaultCode) (extra : DWord) : FaultRec := { code := code, kind := .async, task := 0, extra := extra }

/-- Pending vectors that are not masked sent, while the link is up (R34). -/
def sendPending (s : State) : State :=
  s.modHub fun h =>
    if h.linkUp then
      { h with
        msixOut := h.msixOut ++ h.msixPend.filter fun n => !h.msixMask.get n true
        msixPend := h.msixPend.filter fun n => h.msixMask.get n true }
    else h

/-- LINK_DOWN (R421): messages are held, records are kept. -/
def execLinkDown (s : State) : Host.Outcome State Fault Refusal :=
  .next (deliver (hostRec .linkDown 0) (s.modHub fun h => { h with linkUp := false, linkRecs := false }))

/-- LINK_RETRAIN (R34, R421): the held messages go, vector 0 where a record has arrived meanwhile; a lower width than 16
or a lower rate than 64 is recorded. -/
def execLinkRetrain (width : BitVec 5) (rate : BitVec 8) (s : State) : Host.Outcome State Fault Refusal :=
  let s := if !s.hub.linkUp && s.hub.linkRecs then raiseVec 0 s else s
  let s := sendPending (s.modHub fun h => { h with linkUp := true, linkRecs := false })
  if width.toNat < 16 ∨ rate.toNat < 64 then
    .next (deliver (hostRec .linkDegraded (BitVec.ofNat 64 (width.toNat + 256 * rate.toNat))) s)
  else .next s

/-- The mask of a vector written (R34). -/
def setMask (n : Nat) (b : Bool) (s : State) : State := sendPending (s.modHub fun h => { h with msixMask := h.msixMask.set n b })

/-- MSIX_UNMASK (R34). -/
def execMsixUnmask (vec : VectorId) (s : State) : Host.Outcome State Fault Refusal := .next (setMask vec.val false s)

/-! ## BAR2 -/

/-- The MPA that an access through BAR2 reaches, where its slot maps it, permits it and it is in no hole (R31, R32, R89,
R91). -/
def State.aperture (s : State) (off : BitVec 36) (write : Bool) : Option Nat :=
  let x := s.hub.slots2.get (off.toNat / 2 ^ 30) {}
  let p := x.base + off.toNat % 2 ^ 30 / 4 * 4
  if x.mapped && (if write then x.wr else x.rd) then
    match s.place p with
    | .hole => none
    | .onDie _ _ kind _ => if write then (if kind ≤ 2 ∨ kind = 5 then some p else none) else if kind ≤ 4 then some p else none
    | _ => some p
  else none

/-- The record of an uncorrectable granule that the host finds (R437, R443). -/
def hostBad (s : State) (g : Nat) : FaultRec :=
  { hostRec .dataUncorrectable (BitVec.ofNat 64 (s.storeCode g)) with addr := some (true, BitVec.ofNat 60 g) }

/-- A host read of a word (R32): all ones where nothing serves it. What it returns of uncorrectable data is left open
(log 6). -/
def readAperture (off : BitVec 36) (s : State) : State :=
  match s.aperture off false with
  | none => deliver (hostRec .apertureUnmapped 0) (s.modHub fun h => { h with read2 := some (BitVec.allOnes 32) })
  | some p =>
    match s.badIn p 4 with
    | some g =>
      let (v, s) := s.fresh
      deliver (hostBad s g) (s.modHub fun h => { h with read2 := some (v.truncate 32) })
    | none => askRows (asUnit .host) [p] <| countRead p 4 (s.modHub fun h => { h with read2 := some (s.readWord p) })

/-- A host write of a word (R32). -/
def writeAperture (off : BitVec 36) (x : Word) (s : State) : State :=
  match s.aperture off true with
  | none => deliver (hostRec .apertureUnmapped 0) s
  | some p =>
    match s.badPart p 4 with
    | some g => deliver (hostBad s g) s
    | none => performWord p x (askRows (asUnit .host) [p] s)

/-- An access held during a stream served (R55, R58). -/
def serveHeld (s : State) (a : BitVec 36 × Option Word) : State :=
  match a.2 with
  | some x => writeAperture a.1 x s
  | none => readAperture a.1 s

/-- Every access held served, in order (R55, R58). -/
def flushHeld (s : State) : State := s.hub.held2.foldl serveHeld (s.modHub fun h => { h with held2 := [] })

/-- An access kept until the command under way completes (R55, R58). -/
def holdAccess (off : BitVec 36) (x : Option Word) (s : State) : State :=
  s.modHub fun h => { h with held2 := h.held2 ++ [(off, x)] }

/-- Whether RESTORE is under way (R58). -/
def State.restoring (s : State) : Bool := (s.hub.stream.map (·.restore)).getD false

/-- BAR2_READ (R31, R32, R58, R177): BAR2 answers in READY (R40); a read stays behind the writes that a stream holds. -/
def execBar2Read (off : BitVec 36) (s : State) : Host.Outcome State Fault Refusal :=
  if s.hub.stage ≠ 0xE then .next (s.modHub fun h => { h with read2 := none })
  else if s.restoring || !s.hub.held2.isEmpty then .next (holdAccess off none s)
  else .next (readAperture off s)

/-- BAR2_WRITE (R31, R32, R55, R58). -/
def execBar2Write (off : BitVec 36) (x : Word) (s : State) : Host.Outcome State Fault Refusal :=
  if s.hub.stage ≠ 0xE then .next s
  else if s.hub.stream.isSome then .next (holdAccess off (some x) s)
  else .next (writeAperture off x s)

/-! ## The memory-processor mailbox -/

/-- n bytes of REQ from an offset on, as a number. -/
def State.req (s : State) (off n : Nat) : Nat := leNat (s.hub.bar0Bytes (0x40000 + off) n)

/-- The reply to the mailbox's request (R38): OPC and TAG copied, V last, BUSY cleared, vector 12 raised. -/
def mailReply (status : Nat) (result : DWord) (perm : Word) (s : State) : State :=
  let w0 : DWord := BitVec.ofNat 64 (s.req 0 4 + 2 ^ 32 * status + 2 ^ 63)
  let s := bar0SetD 0x40080 [w0, result, perm.setWidth 64, 0, 0, 0, 0, 0] s
  raiseVec 12 (s.modHub fun h => { h with mailBusy := false })

/-- A request of the mailbox whose reserved bytes and unused fields are zero (R38); another completes with INVALID. -/
def mailReq (unused : Bool) (body : State → State) (s : State) : Host.Outcome State Fault Refusal :=
  if !s.hub.mailBusy then .next s
  else if unused || s.req 32 32 != 0 then .next (mailReply 1 0 0 s)
  else .next (body s)

/-- MAPSLOT (R31, R38). -/
def execMapslot (s : State) : Host.Outcome State Fault Refusal :=
  let arg := s.req 4 4
  let base := s.req 8 8
  mailReq (arg / 2 ^ 10 != 0 || arg / 2 ^ 6 % 4 != 0 || s.req 16 8 != 0 || s.req 24 8 != 0) (fun s =>
    if base % 2 ^ 30 ≠ 0 ∨ 2 ^ 48 ≤ base ∨ s.place base = .hole then mailReply 1 0 0 s
    else
      mailReply 0 0 0 (s.modHub fun h =>
        { h with slots2 := h.slots2.set (arg % 64) {
            mapped := true, base := base, rd := arg / 2 ^ 8 % 2 == 1, wr := arg / 2 ^ 9 % 2 == 1 } })) s

/-- UNMAPSLOT (R31, R38). -/
def execUnmapslot (s : State) : Host.Outcome State Fault Refusal :=
  let arg := s.req 4 4
  mailReq (arg / 2 ^ 6 != 0 || s.req 8 8 != 0 || s.req 16 8 != 0 || s.req 24 8 != 0) (fun s =>
    if (s.hub.slots2.get (arg % 64) {}).mapped then
      mailReply 0 0 0 (s.modHub fun h => { h with slots2 := h.slots2.set (arg % 64) {} })
    else mailReply 2 0 0 s) s

/-- XLATE (R38): the MPA and the permissions of a VA in the leases of the task that holds a context, on its lowest tile
that maps it; whether the range is unified is left open (log 6). -/
def execXlate (s : State) : Host.Outcome State Fault Refusal :=
  let arg := s.req 4 4
  let va := s.req 8 8
  mailReq (arg / 2 ^ 4 != 0 || s.req 16 8 != 0 || s.req 24 8 != 0) (fun s =>
    match s.hub.tasks.find? fun x => x.ctx == some (arg % 16) with
    | none => mailReply 2 0 0 s
    | some x =>
      match x.leases.find? fun l => decide (l.va ≤ va) && decide (va < l.va + l.size) with
      | none => mailReply 2 0 0 s
      | some l =>
        let (v, s) := s.fresh
        let perm : Word := (0 : BitVec 29) ++ v.extractLsb' 63 1 ++ BitVec.ofBool l.wr ++ BitVec.ofBool l.rd
        mailReply 0 (BitVec.ofNat 64 (l.mpa.getD 0 + (va - l.va))) perm s) s

/-- Whether a range is one of host space in whole pages of 64 KiB (R38, R89). R38 does not say what SIZE 0 does: it is refused with
INVALID (DESIGN CHOICE, log 36). -/
def hostRange (mpa n : Nat) : Bool :=
  mpa % pageSize == 0 && n % pageSize == 0 && decide (0 < n) && decide (0xC00000000000 ≤ mpa) &&
    decide (mpa + n ≤ 0xD00000000000)

/-- Whether a lease holds a byte of a range (R38). -/
def State.leaseHolds (s : State) (mpa n : Nat) : Bool := (s.held []).any fun c => meets c.mpa c.size mpa n

/-- The mappings of host space with a range cut out. -/
def unmapHost (mpa n : Nat) (l : List (Nat × Nat × Nat)) : List (Nat × Nat × Nat) :=
  l.flatMap fun e =>
    let stop := e.2.1 + e.2.2
    let lo := Nat.min stop (Nat.max e.2.1 mpa)
    let hi := Nat.max e.2.1 (Nat.min stop (mpa + n))
    if !meets e.2.1 e.2.2 mpa n then [e]
    else
      (if e.2.1 < lo then [(e.1, e.2.1, lo - e.2.1)] else []) ++
        if hi < stop then [(e.1 + (hi - e.2.1), hi, stop - hi)] else []

/-- HOSTMAP (R38, R423): the host bus mapping of a range of host space; a range that a lease holds does not move (R99). -/
def execHostmap (s : State) : Host.Outcome State Fault Refusal :=
  let bus := s.req 8 8
  let mpa := s.req 16 8
  let n := s.req 24 8
  mailReq (s.req 4 4 != 0) (fun s =>
    if bus % pageSize ≠ 0 ∨ !hostRange mpa n then mailReply 1 0 0 s
    else if s.leaseHolds mpa n then mailReply 3 0 0 s
    else
      mailReply 0 0 0 (retryGrants (s.modHub fun h => { h with hostmap := unmapHost mpa n h.hostmap ++ [(bus, mpa, n)] }))) s

/-- HOSTUNMAP (R38): a range that a lease holds stays mapped. -/
def execHostunmap (s : State) : Host.Outcome State Fault Refusal :=
  let mpa := s.req 16 8
  let n := s.req 24 8
  mailReq (s.req 4 4 != 0 || s.req 8 8 != 0) (fun s =>
    if !hostRange mpa n then mailReply 1 0 0 s
    else if s.leaseHolds mpa n then mailReply 3 0 0 s
    else if !s.hostMapped mpa n then mailReply 2 0 0 s
    else mailReply 0 0 0 (s.modHub fun h => { h with hostmap := unmapHost mpa n h.hostmap })) s

/-- The doorbell of the mailbox (R38): ignored while a request is served; a request of no assigned OPC completes with
INVALID. -/
def mailDoorbell (s : State) : State :=
  if s.hub.mailBusy ∨ s.hub.stage ≠ 0xE then s
  else
    let s := s.modHub fun h => { h with mailBusy := true }
    match s.req 0 2 with
    | 1 => s.dueN s.now 0 .mapslot
    | 2 => s.dueN s.now 0 .unmapslot
    | 3 => s.dueN s.now 0 .xlate
    | 4 => s.dueN s.now 0 .hostmap
    | 5 => s.dueN s.now 0 .hostunmap
    | _ => mailReply 1 0 0 s

end Sys2Proof.Machine
end

