-- ==== Sys2Proof/Machine/MArith.lean ====
section
/-!
DEFINITION. The address words of the M cluster (spec/14 R316, R317).
-/
namespace Sys2Proof.Machine

/-- A 32-bit address word (R317). -/
def mAlu (h : Hdr) (d : BitVec 7) (w : Bool) (cs : List (BitVec 7)) (op : List Word → Word) (s : State) :
    Host.Outcome State Fault Refusal :=
  word .m h (srcs .m (dstOk .m d) cs fun l s =>
    held .m (if w then [d.toNat] else []) (fun s => .done (putRes .m 1 d w (op l) s)) s) s

/-- A 64-bit result in a pair: both registers under W, bits [31:0] pushed (R317). -/
def putPair (d : BitVec 7) (w : Bool) (v : BitVec 64) (s : State) : State :=
  let t := s.deliverAt .m 1
  s.modCc fun x =>
    let bits : Row := BitVec.ofNat 2048 0xFFFFFFFF
    ((if w then ((x.keep .m d.toNat bits s.now t).keep .m (d.toNat + 1) bits s.now t).setPair d.toNat v else x).modClu .m fun y => y.push (v.truncate 32)).owe .m
      (if w then [d.toNat, d.toNat + 1] else []) true t

/-- A 64-bit address word (R317). -/
def mAlu64 (h : Hdr) (d a : BitVec 7) (w : Bool) (cs : List (BitVec 7)) (op : BitVec 64 → List Word → BitVec 64)
    (s : State) : Host.Outcome State Fault Refusal :=
  word .m h (fun s =>
    let v := s.cc.pair a.toNat
    let ks := if w then [d.toNat, d.toNat + 1] else []
    srcs .m (pairOk d && pairOk a) cs (fun l s => reads .m [a.toNat, a.toNat + 1] ks (fun s => .done (putPair d w (op v l) s)) s) s) s

/-- AADD (R317). -/
def execAadd (h : Hdr) (f : RR) (s : State) : Host.Outcome State Fault Refusal :=
  mAlu h f.d f.w [f.a, f.b] (fun l => arg l 0 + arg l 1) s

/-- AADDI (R317). -/
def execAaddi (h : Hdr) (f : RI) (s : State) : Host.Outcome State Fault Refusal :=
  mAlu h f.d f.w [f.a] (fun l => arg l 0 + f.imm) s

/-- ASUB (R317). -/
def execAsub (h : Hdr) (f : RR) (s : State) : Host.Outcome State Fault Refusal :=
  mAlu h f.d f.w [f.a, f.b] (fun l => arg l 0 - arg l 1) s

/-- AADD64 (R317): F[0] selects the zero extension of B. -/
def execAadd64 (h : Hdr) (f : RR) (s : State) : Host.Outcome State Fault Refusal :=
  mAlu64 h f.d f.a f.w [f.b] (fun v l =>
    v + (if f.f.getLsbD 0 then (arg l 0).setWidth 64 else (arg l 0).signExtend 64)) s

/-- AADDI64 (R317). -/
def execAaddi64 (h : Hdr) (f : RI) (s : State) : Host.Outcome State Fault Refusal :=
  mAlu64 h f.d f.a f.w [] (fun v _ => v + f.imm.signExtend 64) s

/-- AMOV (R317). -/
def execAmov (h : Hdr) (f : RR) (s : State) : Host.Outcome State Fault Refusal :=
  mAlu h f.d f.w [f.a] (fun l => arg l 0) s

/-- AMOVI (R317). -/
def execAmovi (h : Hdr) (f : RI) (s : State) : Host.Outcome State Fault Refusal :=
  mAlu h f.d f.w [] (fun _ => f.imm) s

/-- ASHLI (R317). -/
def execAshli (h : Hdr) (f : RI) (s : State) : Host.Outcome State Fault Refusal :=
  mAlu h f.d f.w [f.a] (fun l => arg l 0 <<< (f.imm.toNat % 32)) s

/-- AAND (R317). -/
def execAand (h : Hdr) (f : RR) (s : State) : Host.Outcome State Fault Refusal :=
  mAlu h f.d f.w [f.a, f.b] (fun l => arg l 0 &&& arg l 1) s

/-- ACMP (R317). -/
def execAcmp (h : Hdr) (f : RR) (s : State) : Host.Outcome State Fault Refusal :=
  word .m h (srcs .m (idxOk f.d && decide (f.f.toNat % 16 ≤ 10)) [f.a, f.b] fun l s =>
    .done (putGuard .m 1 f.d.toNat (condHolds (f.f.toNat % 16) (arg l 0) (arg l 1)) s)) s

end Sys2Proof.Machine
end

