-- ==== Sys2Proof/Machine/Registers.lean ====
section
/-!
DEFINITION. BAR0: the inventory block (spec/02 R37), attestation (spec/02 R45 to R47), and writes to registers (spec/00 R7,
spec/02 R30 to R51, spec/20 R419).
-/
namespace Sys2Proof.Machine

/-! ## The inventory block -/

/-- The byte FEEDn of a string (R37). -/
def feedByte (s : State) (n : StringId) : Nat := (if (s.str n).light then 0x80 else 0) + (s.str n).lamp

/-- The 2-bit code of a fibre port's state (R37). -/
def FState.code : FState → Nat
  | .dark => 0
  | .probing => 1
  | .aligned => 2
  | .fopen => 3

/-- The word PORTn of a port (R37). -/
def portWord (y : Port) : Nat :=
  y.count false + 16 * y.count true + (if y.spared false then 256 else 0) + (if y.spared true then 512 else 0) + if y.out then 1024 else 0

/-- The sum of f over 0 to n - 1. -/
def sumTo (n : Nat) (f : Nat → Nat) : Nat := (List.range n).foldl (fun a i => a + f i) 0

/-- A word of the inventory block, by its offset (R37); 0 before READY. The ports of a tile that is not in service are dark
(R435). -/
def invWord (s : State) (o : Nat) : Nat :=
  let h := s.hub
  if h.stage ≠ 0xE then 0
  else if o = 0 then h.invseq.toNat
  else if o = 4 then h.lampOk.toNat
  else if o = 8 ∨ o = 0xC then sumTo 4 fun i => feedByte s (fin 8 (o - 8 + i)) * 2 ^ (8 * i)
  else if o = 0x10 then
    sumTo 8 fun n =>
      let x : StringId := fin 8 n
      if s.stringUp x then 2 ^ n + (if s.full x then 0 else 2 ^ (8 + n)) else 0
  else if o = 0x14 then h.stageOk.toNat
  else if 0x20 ≤ o ∧ o < 0xA0 then
    let x := s.tile (fin 32 ((o - 0x20) / 4))
    (if x.inService then 2 ^ 31 else 0) + x.present.toNat
  else if 0xA0 ≤ o ∧ o < 0x120 then
    let i := (o - 0xA0) / 4
    let n : StringId := fin 8 (i / 4)
    match (if s.stringUp n then s.posTile n (i % 4) else none) with
    | some t => 2 ^ 31 + t.val
    | none => 0
  else if 0x200 ≤ o ∧ o < 0xA00 then
    let i := (o - 0x200) / 4
    let x := s.tile (fin 32 (i / 16))
    if x.inService then portWord (x.port (i % 16)) else 1024
  else if 0xA00 ≤ o ∧ o < 0xA10 then sumTo 16 fun i => (s.fib (4 * (o - 0xA00) + i)).state.code * 4 ^ i
  else 0

/-- The bytes over which the inventory digest is taken (R37, R46). -/
def invBytes (s : State) : List Byte := (List.range 0x284).flatMap fun i => leBytes 4 (invWord s (4 * i))

/-! ## Attestation -/

/-- The doorbell of the attestation mailbox (R46, R47): ignored while a request is served; else the nonce is captured. -/
def attestDoorbell (s : State) : State :=
  if s.hub.astat = 1 then s
  else
    (s.modHub fun h => { h with astat := 1, capNonce := h.bar0Bytes 0x100000 32 }).dueN s.now 0 .attestationRequest

/-- ATTESTATION_REQUEST (R46, R47): the security engine serves the request; when it completes is left open. -/
def execAttestationRequest (s : State) : Host.Outcome State Fault Refusal :=
  if s.hub.astat = 1 ∧ !(s.pool.any fun e => e.2.2.2 == .attestationComplete) then .next (s.enable 0 0 0 .attestationComplete)
  else .next s

/-- The 200 bytes of a report (R46, R47). -/
def reportBytes (s : State) : List Byte :=
  s.hub.capNonce ++ leBytes 4 s.hub.modid.toNat ++ leBytes 4 s.hub.leafIx ++
    ((List.range 4).flatMap fun i => leBytes 32 (shake256 (s.hub.phys.images.get i {}).bytes).toNat) ++ leBytes 32 (shake256 (invBytes s)).toNat

/-- The 2,820 bytes of the XMSS signature over a report under a leaf index (R45, R47): the index, highest byte first as RFC 8391
writes it, and 2,816 bytes of randomness, chain values and path (log 11). -/
def signatureOf (leaf : Nat) (report : List Byte) : List Byte :=
  (leBytes 4 leaf).reverse ++ (List.range 2816).map (Config.xmssByte leaf report)

/-- ATTESTATION_COMPLETE (R45, R46, R47): the report and its signature under the next leaf index, or EXHAUSTED. -/
def execAttestationComplete (s : State) : Host.Outcome State Fault Refusal :=
  if s.hub.astat ≠ 1 then .next s
  else if 2 ^ 20 ≤ s.hub.leafIx then
    .next (raiseVec 3 (s.modHub fun h => { h with astat := 3, report := [], signature := [] }))
  else
    let r := reportBytes s
    .next (raiseVec 3 (s.modHub fun h =>
      { h with astat := 2, report := r, signature := signatureOf h.leafIx r, leafIx := h.leafIx + 1 }))

/-! ## Register writes -/

/-- Whether a count that the host writes is not beyond the count it follows (R51, R419). -/
def countOk (x limit : Word) : Bool := !(limit - x).slt 0

/-- A word of BAR0 that software writes and reads back. -/
def bar0Put (o : Nat) (x : Word) (s : State) : State := s.modHub fun h => { h with bar0 := h.bar0.set (o / 4) x }

/-- The management queue looked at, once start-up has ended (R40, R48). -/
def mgmtKick (s : State) : State := if s.hub.stage = 0xE then mgmtLook s else s

/-- REGISTER_WRITE (R7, R30, R34, R38, R41, R47, R50, R51, R419): a word written at an offset of BAR0, under the access code
of what lies there; every other offset ignores it. -/
def execRegisterWrite (off : BitVec 24) (x : Word) (s : State) : Host.Outcome State Fault Refusal :=
  let o := off.toNat / 4 * 4
  let h := s.hub
  if o = 0x10 then .next (if x.getLsbD 27 then s.modHub fun h => { h with early := false } else s)
  else if o = 0x20000 then
    .next (if (x - h.cmdcons).toNat ≤ 511 then mgmtKick (s.modHub fun h => { h with cmdprod := x }) else s)
  else if 0x20040 ≤ o ∧ o < 0x28000 then .next (bar0Put o x s)
  else if o = 0x28004 then
    .next (if countOk x h.cplprod then mgmtKick (s.modHub fun h => { h with cplcons := x }) else s)
  else if o = 0x30004 then .next (if countOk x h.faultProd then s.modHub fun h => { h with faultCons := x } else s)
  else if 0x40000 ≤ o ∧ o < 0x40040 then .next (bar0Put o x s)
  else if o = 0x40040 then .next (if x.getLsbD 0 then mailDoorbell s else s)
  else if 0x50000 ≤ o ∧ o < 0x58000 then
    let s := bar0Put o x s
    .next (if o % 16 = 12 then setMask ((o - 0x50000) / 16) (x.getLsbD 0) s else s)
  else if 0x60000 ≤ o ∧ o < 0x60000 + 4 * 2032 then .next (bar0Put o (x &&& 0xFFFFFCFF) s)
  else if 0x100000 ≤ o ∧ o < 0x100020 then .next (bar0Put o x s)
  else if o = 0x100020 then .next (if x.getLsbD 0 then attestDoorbell s else s)
  else .next s

end Sys2Proof.Machine
end

