-- ==== Sys2Proof/Machine/Stream.lean ====
section
/-!
DEFINITION. The commands ABORT, SETMODID, CHECKPOINT and RESTORE of the management queue (spec/02 R52, R55 to R58).
-/
namespace Sys2Proof.Machine

/-- ARG of the command under way (R50). -/
def State.cmdArg (s : State) : BitVec 16 := (s.cmdWord 0).extractLsb' 32 16

/-- ABORT (R52): the task that ARG names ends or is removed with status ABORTED. -/
def execAbort (s : State) : Host.Outcome State Fault Refusal :=
  if s.hub.cmd.isNone then .next s
  else
    match s.task? s.cmdArg with
    | none => .next (mgmtDone 5 0 0 [] s)
    | some x =>
      let s := if x.slot.isSome then retire x 0x06 0 0 (fun _ => true) false s else pokeDispatcher (removeQueued 256 x 0x06 0 s)
      .next (mgmtDone 0 0 0 [] s)

/-- SETMODID (R35, R52): the stored module id, in force from the next module reset. -/
def execSetmodid (s : State) : Host.Outcome State Fault Refusal :=
  if s.hub.cmd.isNone then .next s
  else .next (mgmtDone 0 0 0 [] (s.modHub fun h => { h with stored := s.cmdArg.truncate 10 }))

/-! ## Streams -/

/-- The fibre ports that a mask names, rising. -/
def maskPorts (m : BitVec 64) : List FibreId := (fins 64).filter fun f => m.getLsbD f.val

/-- Whether every named port is OPEN with a valid entry in the active table (R57); a command that names none has nothing to
carry its stream. -/
def portsReady (s : State) (m : BitVec 64) : Bool :=
  m != 0 && (maskPorts m).all fun f => (s.fib f.val).state == .fopen && (s.route f.val).getLsbD 31

/-- The peer that the active table's entry of a fibre port names (R163). -/
def State.peerOf (s : State) (f : FibreId) : End :=
  let w := s.route f.val
  { md := w.extractLsb' 21 10, tile := w.extractLsb' 16 5, port := w.extractLsb' 12 4 }

/-- The circuit of a stream for one fibre port rigged (R57, R58): from, or for a restore to, the lowest free port of physical
tile f mod 32, on its lowest IDLE handle. -/
def rigStream (restore : Bool) (s : State) (f : FibreId) : State :=
  let t : TileId := fin 32 f.val
  let free (q : Nat) : Bool :=
    !((s.tile t).port q).out && s.pathed.all fun o => !(s.joins o.1 o.2.2).contains (Config.tilePort t.val q)
  let h := (fins 64).find? fun h => (s.circ t h.val).state == .idle
  match (if (s.tile t).inService then (List.range 16).find? free else none), h with
  | some q, some h =>
    let s := startRig t h { ext := true, inb := restore, via := some f, port := BitVec.ofNat 4 q, ends := [s.peerOf f] } s
    s.modHub fun x => { x with stream := x.stream.map fun st => { st with rigged := st.rigged ++ [(t, h)] } }
  | _, _ => s

/-- A stream at an end: the command completes, its circuits are derigged, what was held is served, and the dispatcher goes
on (R55, R57, R58). -/
def endStream (st : Stream) (status : Nat) (r0 r1 : DWord) (digest : List DWord) (s : State) : State :=
  let s := st.rigged.foldl (fun s p => derig p.1 p.2 s) s
  let s := mgmtDone status r0 r1 digest (s.modHub fun h => { h with stream := none })
  pokeDispatcher (flushHeld s)

/-- The four words of a digest. -/
def digestWords (d : BitVec 256) : List DWord := (List.range 4).map fun i => d.extractLsb' (64 * i) 64

/-- Whether every circuit of a stream is in a state. -/
def streamIn (s : State) (st : Stream) (x : HState) : Bool :=
  st.rigged.length == (maskPorts st.pmask).length && st.rigged.all fun p => (s.circ p.1 p.2.val).state == x

/-- Whether a circuit of a stream has failed for good (R57). -/
def streamLost (s : State) (st : Stream) : Bool :=
  st.rigged.any fun p =>
    let c := (s.circ p.1 p.2.val).state
    c == .faulted || c == .idle

/-- A stream whose circuits are rigged, with its command looked at again 200 steps later (R57, R162). -/
def startStream (st : Stream) (again : Instr) (s : State) : State :=
  let s := s.modHub fun h => { h with stream := some { st with phase := 1, startAt := s.now } }
  ((maskPorts st.pmask).foldl (rigStream st.restore) s).dueN (s.now + 6400) 0 again

/-! ## CHECKPOINT -/

/-- Chunks of 4 KiB in the HBM of a tile and in a scratchpad (R57). -/
def hbmChunks : Nat := 2 ^ 24
/-- Chunks of 4 KiB in a scratchpad. -/
def padChunks : Nat := 1024

/-- The tiles in service, rising. -/
def State.tilesUp (s : State) : List TileId := (fins 32).filter fun t => (s.tile t).inService

/-- The present cores of the tiles in service, as physical numbers, in ascending on-die MPA (R57). -/
def State.padsUp (s : State) : List (TileId × Nat) :=
  s.tilesUp.flatMap fun t => ((List.range 16).filter fun c => (s.tile t).present.getLsbD c).map fun c => (t, c)

/-- The memory chunks of a stream: the HBM of every physical tile, in service or not, then the scratchpads (R57). -/
def State.memChunks (s : State) : Nat := 32 * hbmChunks + s.padsUp.length * padChunks

/-- The MPA of memory chunk n of a stream (R57). -/
def State.chunkMpa (s : State) (n : Nat) : Nat :=
  let m := 32 * hbmChunks
  if n < m then n * 4096
  else
    let p := s.padsUp.getD ((n - m) / padChunks) (0, 0)
    onDieMpa p.1.val p.2 0 ((n - m) % padChunks * 4096)

/-- The payload of state chunk i: hub firmware defines it (R57; log 6). -/
def stateRows (base i : Nat) : List Row :=
  (List.range 16).map fun r => mkRow fun j => (Config.freeValue (base + 1024 * i + 64 * r + j)).truncate 32

/-- The payload and the MPA field of chunk n of a stream, the closing chunk after the last. -/
def chunkOf (s : State) (st : Stream) (tasks n : Nat) : List Row × Nat :=
  let m := s.memChunks
  if n < m then
    let a := s.chunkMpa n
    ((List.range 16).map fun i => s.readRow (a + 256 * i), a)
  else if n < m + tasks then (stateRows st.base (n - m), 0xFFFFFFFFFE00)
  else ([BitVec.ofNat 2048 (st.sponge.digest.toNat + 2 ^ 256 * (m + tasks))], 0xFFFFFFFFFF00)

/-- The tasks that a checkpoint's state chunks carry: those that its first step has pre-empted, one chunk each (R57). -/
def State.asideTasks (s : State) : List Task :=
  s.hub.tasks.filter fun x => x.stat == .preempted && s.hub.stream.any fun st => st.tasks.contains x.id

/-- The chunks of a stream handed to their circuits in stream order, while each circuit has taken its last (R57). -/
def pourStream : Nat → State → State
  | 0, s => s
  | n + 1, s =>
    match s.hub.stream with
    | none => s
    | some st =>
      let tasks := s.asideTasks.length
      match st.rigged[st.sent % st.rigged.length]? with
      | none => s
      | some p =>
        if s.memChunks + tasks < st.sent ∨ !(s.circ p.1 p.2.val).waiting.isEmpty then s
        else
          let (rows, a) := chunkOf s st tasks st.sent
          let s := if st.sent < s.memChunks then countRead a 4096 s else s
          let side : List Word := [BitVec.ofNat 32 st.sent, st.sid.truncate 32, st.sid.extractLsb' 32 32]
          let m : Msg := { blankMsg with
            mpa := BitVec.ofNat 48 a, nrow := BitVec.ofNat 4 (rows.length - 1), pay := rows, side := side }
          let bytes := rows.flatMap fun r => leBytes 256 r.toNat
          let s := s.modHub fun h =>
            { h with stream := some { st with
                sent := st.sent + 1
                sponge := if st.sent < s.memChunks + tasks then st.sponge.absorb bytes else st.sponge } }
          pourStream n (admitMsg p.1 p.2.val { msg := m, ty := .chunk, core := 0, clus := 3, posted := true } s)

/-- Whether every chunk of a stream has been sent and acknowledged (R57). -/
def streamDone (s : State) (st : Stream) : Bool :=
  decide (s.memChunks + s.asideTasks.length < st.sent) && st.rigged.all fun p => (s.circ p.1 p.2.val).drained

/-- CHECKPOINT (R55, R57): its ports are checked; every running task is pre-empted; one circuit for each port is rigged; and
the chunks go in stream order. It is looked at in every fabric step. -/
def execCheckpoint (s : State) : Host.Outcome State Fault Refusal :=
  let again (s : State) : State := s.dueN (stepAfter s.now) 0 .checkpoint
  let stop (s : State) : State :=
    let l := (s.hub.tasks.filter fun x => x.stat == .running || x.stat == .stopping).map (·.id)
    let s := s.modHub fun h =>
      { h with stream := h.stream.map fun st => { st with tasks := st.tasks ++ l.filter fun n => !st.tasks.contains n } }
    (s.hub.tasks.filter fun x => x.stat == .running).foldl (fun s x => requestStop x s) s
  match s.hub.stream with
  | none =>
    if s.hub.cmd.isNone then .next s
    else if !portsReady s (s.cmdWord 2) then .next (mgmtDone 1 0 0 [] s)
    else
      let st : Stream := { pmask := s.cmdWord 2, sid := s.cmdWord 3 }
      .next (again (stop (s.modHub fun h => { h with stream := some st })))
  | some st =>
    if st.restore then .next s
    else
      match st.phase with
      | 0 =>
        let s := stop s
        if s.hub.tasks.any fun x => x.slot.isSome && (x.stat != .launching || x.granted) then .next (again s)
        else .next (startStream (s.hub.stream.getD st) .checkpoint s)
      | 1 =>
        if s.now < st.startAt + 6400 then .next s
        else if !streamIn s st .live then .next (endStream st 8 0 0 [] s)
        else
          let tasks := s.asideTasks
          let base := s.freeCtr
          let s := { s with freeCtr := base + 1024 * tasks.length }
          let s := s.modHub fun h =>
            { h with
              kept := h.kept.filter (fun k => k.1 != st.sid) ++ [(st.sid, h.secver, base, tasks)]
              stream := some { st with phase := 2, base := base } }
          .next (again s)
      | _ =>
        if streamLost s st then .next (endStream st 8 0 0 [] s)
        else if streamDone s st then .next (s.dueN s.now 0 .checkpointComplete)
        else .next (again (pourStream st.rigged.length s))

/-- CHECKPOINT_COMPLETE (R51, R57). -/
def execCheckpointComplete (s : State) : Host.Outcome State Fault Refusal :=
  match s.hub.stream with
  | none => .next s
  | some st =>
    if !st.restore && st.phase == 2 && streamDone s st then
      let r0 := BitVec.ofNat 64 (s.memChunks * 4096)
      .next (endStream st 0 r0 (BitVec.ofNat 64 st.sent) (digestWords st.sponge.digest) s)
    else .next s

/-! ## RESTORE -/

/-- Whether the closing chunk and every chunk that it counts have arrived (R58). -/
def allArrived (st : Stream) : Bool :=
  match st.closing with
  | some (_, n) => st.chunks.length ≥ n && (List.range n).all fun i => st.chunks.any fun c => c.1 == i
  | none => false

/-- RESTORE (R58): accepted while no task is in the module; one inbound-only half for each port is rigged, and chunks are
taken as they come. It is looked at in every fabric step. Two answers are the model's choice (log 52): with a named port that
is not ready and a task in the module it is BAD_STATE, the ports being checked first; and a circuit that fails after it was
LIVE ends the command with LINK, as R57 has it for CHECKPOINT. -/
def execRestore (s : State) : Host.Outcome State Fault Refusal :=
  let again (s : State) : State := s.dueN (stepAfter s.now) 0 .restore
  match s.hub.stream with
  | none =>
    if s.hub.cmd.isNone then .next s
    else if !portsReady s (s.cmdWord 2) then .next (mgmtDone 1 0 0 [] s)
    else if !s.hub.tasks.isEmpty then .next (mgmtDone 6 0 0 [] s)
    else .next (startStream { restore := true, pmask := s.cmdWord 2, sid := s.cmdWord 3 } .restore s)
  | some st =>
    if !st.restore then .next s
    else if st.phase = 1 then
      if s.now < st.startAt + 6400 then .next s
      else if !streamIn s st .live then .next (endStream st 8 0 0 [] s)
      else .next (again (s.modHub fun h => { h with stream := some { st with phase := 2 } }))
    else if streamLost s st then .next (endStream st 8 0 0 [] s)
    else if allArrived st then .next (s.dueN s.now 0 .restoreComplete)
    else .next (again s)

/-- The chunk of a SEQ. -/
def Stream.chunkAt (st : Stream) (n : Nat) : Nat × List Row :=
  match st.chunks.find? fun c => c.1 == n with
  | some c => c.2
  | none => (0, [])

/-- The digest of R57 over the n chunks that have arrived, in stream order. -/
def arrivedDigest (st : Stream) (n : Nat) : BitVec 256 :=
  ((List.range n).foldl (fun (p : Sponge) i => p.absorb ((st.chunkAt i).2.flatMap fun r => leBytes 256 r.toNat)) {}).digest

/-- The tasks that the state chunks of a stream stand for, under firmware of the security version that made them (R57). -/
def arrivedTasks (s : State) (st : Stream) (n : Nat) : Option (List Task) :=
  let rows := ((List.range n).map st.chunkAt).filter fun c => c.1 == 0xFFFFFFFFFE00
  (s.hub.kept.find? fun k =>
    k.1 == st.sid && k.2.1 == s.hub.secver && k.2.2.2.length == rows.length &&
      (List.range rows.length).all fun i => (rows.getD i (0, [])).2 == stateRows k.2.2.1 i).map fun k => k.2.2.2

/-- RESTORE_COMPLETE (R58): the digests are compared; on a match every task that the state chunks name is pre-empted in its
queue again. -/
def execRestoreComplete (s : State) : Host.Outcome State Fault Refusal :=
  match s.hub.stream with
  | none => .next s
  | some st =>
    match st.closing with
    | some (d, n) =>
      if st.restore && allArrived st then
        let mem := (((List.range n).map st.chunkAt).filter fun c => c.1 != 0xFFFFFFFFFE00).foldl (fun a c => a + 256 * c.2.length) 0
        let digest := arrivedDigest st n
        let finish (status : Nat) (s : State) : State :=
          endStream st status (BitVec.ofNat 64 mem) (BitVec.ofNat 64 (n + 1)) (digestWords digest) s
        match (if digest = d then arrivedTasks s st n else none) with
        | some l => .next (finish 0 (s.modHub fun h => { h with tasks := h.tasks ++ l.map fun x => { x with ctx := none } }))
        | none => .next (finish 7 s)
      else .next s
    | none => .next s

end Sys2Proof.Machine
end

