-- ==== Sys2Proof/Machine/Startup.lean ====
section
/-!
DEFINITION. Module reset and start-up (spec/02 R35, R39 to R44, spec/20 R420), the answer to configuration requests, and
what BAR0 reads as (spec/02 R30, R36, R41).
-/
namespace Sys2Proof.Machine

/-! ## Reset -/

/-- MODULE RESET (R35, R43): every register and block at its reset value and every task gone; what stays is the
stored id, the leaf index of the security engine, what is outside the module, the condition of its units and the counters of
open choices. -/
def moduleReset (s : State) : State :=
  { State.reset with
    agenda := []
    freeCtr := s.freeCtr
    hub := { State.reset.hub with
      stored := s.hub.stored
      leafIx := s.hub.leafIx
      phys := s.hub.phys
      kept := s.hub.kept } }

/-- The limit of a start-up stage in rc (R39). -/
def stageLimit : Nat → Nat
  | 1 => 160000000
  | 2 => 6400000000
  | 3 => 640000000
  | 4 => 320000000
  | 5 => 1600000000
  | 6 => 3200000000
  | _ => 3200000

/-- A stage entered (R39, R41); when within its limit it ends is left open (log 6). -/
def enterStage (n : Nat) (s : State) : State :=
  let (v, s) := s.fresh
  (s.modHub fun h => { h with stage := n }).dueN (s.now + v.toNat % (stageLimit n + 1)) n .powerUp

/-- Start-up ends in FAILED with a cause (R40, R41). -/
def startFails (cause : Nat) (s : State) : State := s.modHub fun h => { h with stage := 0xF, cause := cause, startRecs := [] }

/-- A start-up record kept with its time until READY (R420). -/
def startRec (code : FaultCode) (t : Option TileId) (fab : Option FabricRec) (extra : Nat) (s : State) : State :=
  let r : FaultRec := {
    code := code, kind := .startUp, tile := t.map fun t => (0, t), fab := fab, extra := BitVec.ofNat 64 extra,
    time := some s.now }
  s.modHub fun h => { h with startRecs := h.startRecs ++ [r] }

/-! ## The stages -/

/-- The cause of R41 for which firmware image n is refused, 0 for a good one (R44): its signature, which in the format of RFC 8391
for XMSS-SHAKE256_20_256 has 2,820 bytes, or a security version below the fuse counter. -/
def imageFault (p : Phys) (n : Nat) : Nat :=
  let i := p.images.get n {}
  if i.sig.length ≠ 2820 ∨ Config.xmssGood i.bytes i.sig = false then 1 else if i.version.toNat < p.fuse.toNat then 2 else 0

/-- Stage 1 (R35, R36, R40, R41, R44): the stored id is in force, and hub firmware is verified; SECVER is its version, 0 where CAUSE
is 1. The three images that verified hub firmware loads do not decide how start-up ends (R40; log 11). -/
def stageFirmware (s : State) : State :=
  let s := s.modHub fun h => { h with modid := h.stored }
  let v := (s.hub.phys.images.get 0 {}).version
  match imageFault s.hub.phys 0 with
  | 0 => enterStage 2 (s.modHub fun h => { h with secver := v })
  | 1 => startFails 1 s
  | n => startFails n (s.modHub fun h => { h with secver := v })

/-- The tiles of a string out of service. -/
def darken (n : StringId) (s : State) : State :=
  (fins 32).foldl (fun s t => if stringOf t = n then s.modTile t fun x => { x with inService := false } else s)
    (s.modStr n fun x => { x with inService := false })

/-- Stage 2 for one string (R26, R39, R420): its own lamp, else a spare, else no light. -/
def startLamp (s : State) (n : StringId) : State :=
  let light (l : Nat) (s : State) : State :=
    (s.modStr n fun x => { x with lamp := l }).modHub fun h => { h with lampOk := h.lampOk ||| (1#10 <<< l) }
  if !s.hub.phys.lamps.contains n.val then light n.val s
  else
    match s.spareLamp with
    | some l => startRec .startLamp none none n.val (light l s)
    | none =>
      startRec .startLamp none none (n.val + 256) (darken n (s.modStr n fun x => { x with lamp := n.val, light := false }))

/-- The rings of one direction of a port that fail to lock in stage 3 (R39, R420): L8 first, then the data lines, then
L9; a record for a ring on the spare line, one for a degraded direction with the lowest line that it lacks, and one for
L9. -/
def startRing (t : TileId) (p : Nat) (s : State) (rx : Bool) : State :=
  let lines := [8, 0, 1, 2, 3, 4, 5, 6, 7, 9].filter fun line =>
    s.hub.phys.rings.contains (512 * t.val + 32 * p + (if rx then 16 else 0) + line)
  let data := lines.filter (· < 8)
  let named := if lines.contains 8 then data.take 1 else data.take 2
  let s := s.modPort t p fun y =>
    let y := lines.foldl (fun y line => if line = 9 then y else y.loseLine line rx) y
    { y with out := y.out || lines.contains 9 || decide (y.count rx < 4) }
  (named ++ lines.filter (· == 9)).foldl (fun s line =>
    startRec .startRing (some t) (some { port := BitVec.ofNat 4 p, line := BitVec.ofNat 4 line }) 0 s) s

/-- Stage 3 for one tile (R26, R39, R420). -/
def startRings (s : State) (t : TileId) : State :=
  if !(s.tile t).inService then s
  else
    (List.range 16).foldl (fun s p => [false, true].foldl (startRing t p) s) s

/-- Stage 4 (R26, R39, R420). -/
def startMesh (s : State) : State :=
  (List.range 21).foldl (fun s n =>
    if s.hub.phys.stages.contains n then startRec .startMesh none none n s
    else s.modHub fun h => { h with stageOk := h.stageOk ||| (1#21 <<< n) }) s

/-- A tile bypassed during start-up, in stage 5 or 6 (R26, R39, R41, R420). -/
def startBypass (t : TileId) (stage : Nat) (s : State) : State :=
  let n := stringOf t
  let second := (s.str n).bypassed
  let s := (startRec .startTile (some t) none stage s).modHub fun h => { h with failt := h.failt + 1 }
  let s := (s.modTile t fun x => { x with inService := false }).modStr n fun x =>
    { x with bypassed := true, millivolts := 1350 }
  if second then darken n s else s

/-- Stage 5 for one tile (R26, R39, R420): failed cores are mapped out, and a tile below 12, or one that fails itself, is
bypassed. -/
def startTile (s : State) (t : TileId) : State :=
  if !(s.tile t).inService then s
  else
    let bad := s.hub.phys.cores.get t.val 0
    let s := (List.range 16).foldl (fun s c => if bad.getLsbD c then startRec .startCore (some t) none c s else s) s
    let s := s.modTile t fun x => { x with present := ~~~bad }
    if (s.tile t).ncores < 12 ∨ s.hub.phys.tiles.contains t.val then startBypass t 5 s else s

/-- Stage 6 for one tile (R39, R420). -/
def startHbm (s : State) (t : TileId) : State :=
  if (s.tile t).inService ∧ s.hub.phys.hbm.contains t.val then startBypass t 6 s else s

/-- Whether a string remains in service (R40). -/
def State.someString (s : State) : Bool := (fins 8).any fun n => (s.str n).inService

/-- The stage after stage n, unless no string remains (R39, R40). -/
def stageDone (n : Nat) (s : State) : State := if s.someString then enterStage (n + 1) s else startFails 3 s

/-- A record of start-up enters the HOST ring (R420). -/
def flushStart (s : State) (r : FaultRec) : State := writeRec r .host .corrected s

/-- READY (R28, R37, R42, R48, R216, R420, R450): the map is the first inventory, the records enter the ring, and what runs
by itself begins. -/
def becomeReady (s : State) : State :=
  let s := inventoryChange (s.modHub fun h => { h with stage := 0xE })
  let s := s.hub.startRecs.foldl flushStart (s.modHub fun h => { h with startRecs := [] })
  let s := (fins 8).foldl (fun s n =>
    if (s.str n).inService then
      let (v, s) := freeSamples s
      s.dueN (3200 * (s.now / 3200 + 1)) n.val (.governorSample v)
    else s) s
  let s := (fins 32).foldl (fun s t =>
    if (s.tile t).inService then s.dueT (204800 * (s.now / 204800 + 1)) t .allowanceAudit else s) s
  mgmtKick (pokeDispatcher s)

/-- The end of start-up stage n (R39, R40). -/
def endStage (n : Nat) (s : State) : State :=
  if s.hub.stage ≠ n then s
  else
    match n with
    | 1 => stageFirmware s
    | 2 => stageDone 2 ((fins 8).foldl startLamp s)
    | 3 => stageDone 3 ((fins 32).foldl startRings s)
    | 4 => stageDone 4 (startMesh s)
    | 5 => stageDone 5 ((fins 32).foldl startTile s)
    | 6 => stageDone 6 ((fins 32).foldl startHbm s)
    | 7 => becomeReady s
    | _ => s

/-! ## The events -/

/-- POWER_UP (R39, R43): module reset and stage 1; with an index from 1 to 7, the end of that stage of the start-up
under way. -/
def execPowerUp (s : State) : Host.Outcome State Fault Refusal :=
  if s.cur.ix = 0 then .next (enterStage 1 (moduleReset s)) else .next (endStage s.cur.ix s)

/-- FUNDAMENTAL_RESET (R43). -/
def execFundamentalReset (s : State) : Host.Outcome State Fault Refusal := .next (enterStage 1 (moduleReset s))

/-- FUNCTION_LEVEL_RESET (R43). -/
def execFunctionLevelReset (s : State) : Host.Outcome State Fault Refusal := .next (enterStage 1 (moduleReset s))

/-- CONFIGURATION_REQUEST (R39): answered with Configuration Request Retry Status until stage 1 has ended. -/
def execConfigurationRequest (s : State) : Host.Outcome State Fault Refusal :=
  .next (s.modHub fun h => { h with cfg := some (decide (h.stage ≤ 1)) })

/-! ## What BAR0 reads as -/

/-- BOOTSTAT (R41). -/
def Hub.bootstat (h : Hub) : Word :=
  BitVec.ofNat 4 h.stage ++ BitVec.ofBool h.early ++ BitVec.ofNat 6 h.failt ++
    BitVec.ofNat 5 ((List.range 10).filter fun l => h.lampOk.getLsbD l).length ++ BitVec.ofNat 4 h.cause ++ (0 : BitVec 12)

/-- The bits of a word of BAR0 that are no Reserved field and so read as written (R8): in a slot of the command ring (R50) and
in REQ (R38), which hold what was written for the checks of their commands. -/
def bar0Shown (o : Nat) : Word :=
  if 0x20040 ≤ o ∧ o < 0x28000 then
    match o % 64 / 4 with
    | 0 => 0xFF00FFFF
    | 1 => 0xFF80FFFF
    | 2 => 0
    | 3 => 0xFFFFFF80
    | n => if n < 8 then 0xFFFFFFFF else 0
  else if 0x40020 ≤ o ∧ o < 0x40040 then 0
  else 0xFFFFFFFF

/-- A word of the read-only copies of the event counters (R30, R53): which one stands where the spec leaves open (log 49). -/
def State.counterCopy (s : State) (o : Nat) : Word :=
  match Config.counterCopy o with
  | some (t, i, high) =>
    let v := (s.tile (fin 32 t)).evtcnt.get (i % 16) 0
    if high then (v.extractLsb' 32 16).setWidth 32 else v.truncate 32
  | none => 0

/-- A word that a host read of BAR0 answers, by its offset (R8, R30, R36, R37, R38, R41, R47, R50, R51, R419). -/
def State.bar0Word (s : State) (o : Nat) : Word :=
  let h := s.hub
  let bytes (f : Nat → Nat) : Word := BitVec.ofNat 32 (sumTo 4 fun i => f i * 2 ^ (8 * i))
  if o = 0 then 0x960
  else if o = 4 then (0 : BitVec 6) ++ h.stored ++ (0 : BitVec 6) ++ h.modid
  else if o = 8 then h.secver.setWidth 32
  else if o = 0x10 then h.bootstat
  else if 0x1000 ≤ o ∧ o < 0x2000 then BitVec.ofNat 32 (invWord s (o - 0x1000))
  else if o = 0x20000 then h.cmdprod
  else if o = 0x20004 then h.cmdcons
  else if o = 0x28000 then h.cplprod
  else if o = 0x28004 then h.cplcons
  else if o = 0x30000 then h.faultProd
  else if o = 0x30004 then h.faultCons
  else if o = 0x30008 then h.faultLost
  else if o = 0x40044 then if h.mailBusy then 1 else 0
  else if 0x50000 ≤ o ∧ o < 0x58000 ∧ o % 16 = 12 then if h.msixMask.get ((o - 0x50000) / 16) true then 1 else 0
  else if 0x58000 ≤ o ∧ o < 0x58100 then
    BitVec.ofNat 32 (sumTo 32 fun i => if h.msixPend.contains (8 * (o - 0x58000) + i) then 2 ^ i else 0)
  else if o = 0x100024 then BitVec.ofNat 32 h.astat
  else if 0x100100 ≤ o ∧ o < 0x1001C8 then bytes fun i => (h.report.getD (o - 0x100100 + i) 0).toNat
  else if 0x100200 ≤ o ∧ o < 0x100D04 then bytes fun i => (h.signature.getD (o - 0x100200 + i) 0).toNat
  else if 0x200000 ≤ o ∧ o < 0x210000 then s.counterCopy (o - 0x200000)
  else h.bar0.get (o / 4) 0 &&& bar0Shown o

end Sys2Proof.Machine
end

