-- ==== Sys2Proof/Machine/VMove.lean ====
section
/-!
DEFINITION. Conversion, movement, mask and accumulator words of the V cluster (spec/13 R301 to R315).
-/
namespace Sys2Proof.Machine

/-! ## Rows as bits -/

/-- len bits of a row from bit off. -/
def rowBits (r : Row) (off len : Nat) : Nat := r.toNat / 2 ^ off % 2 ^ len

/-- The row with len bits from bit off replaced. -/
def setRowBits (r : Row) (off len v : Nat) : Row :=
  BitVec.ofNat 2048 (r.toNat - rowBits r off len * 2 ^ off + (v % 2 ^ len) * 2 ^ off)

/-- n elements of w bits packed from the low end. -/
def packElems (w n : Nat) (g : Nat → Nat) : Nat :=
  ((List.range n).map g).foldr (fun x a => x % 2 ^ w + 2 ^ w * a) 0

/-- A row as the new value of every lane of D. -/
def vwhole (n : Nat) (d : BitVec 7) (w : Bool) (r : Row) (fl : Fl) (s : State) : Eff :=
  vput n d w (BitVec.allOnes 64) r fl s

/-- The row with len bits from bit off set. -/
def spanBits (off len : Nat) : Row := BitVec.ofNat 2048 ((2 ^ len - 1) * 2 ^ off)

/-- FN as a number (R239). -/
def fnBits (f : RR) : Nat := f.f.toNat % 2 ^ 17

/-! ## Conversion -/

/-- A format of VCVT (R302): its width, 0 for a code it does not take. -/
def cvtWidth (code : Nat) : Nat := if isMx code ∨ code = 0x18 then 0 else fmtWidth code

/-- How VCVT reads an inline constant in A (R237, R302): a float of 32 or 16 bits in its format, anything else as an integer. For
E4M3 and E5M2 no rule gives an inline constant an encoding: the 32-bit integer is taken (DESIGN CHOICE, log 63). -/
def cvtPos (code : Nat) : Pos :=
  if code = 8 then .fp32 else if code = 9 then .fp16 else if code = 0x0A then .bf16 else .int

/-- VCVT (R302). -/
def execVcvt (h : Hdr) (f : RR) (s : State) : Host.Outcome State Fault Refusal :=
  word .v h (fun s =>
    let sf := fnBits f % 32
    let tf := fnBits f / 32 % 32
    let sp := fnBits f / 1024 % 4
    let tp := fnBits f / 4096 % 4
    let sw := cvtWidth sf
    let tw := cvtWidth tf
    let ok := sw != 0 && tw != 0 && decide (sp * sw < 32) && decide (tp * tw < 32)
    vsrcs (vdstOk f.d && ok) [vKm f] [(cvtPos sf, f.a)] (fun l s =>
      let m := s.lanes f
      let bits := (List.range 64).foldl (fun (r : Row) e =>
        if m.getLsbD e then r ||| spanBits (tw * (64 * tp + e)) tw else r) 0
      let (r, fl) := (List.range 64).foldl (fun (p : Row × Fl) e =>
        if m.getLsbD e then
          let (v, fl) := convert sf tf (vRnd f) (vSat f) (rowBits (rarg l 0) (sw * (64 * sp + e)) sw)
          (setRowBits p.1 (tw * (64 * tp + e)) tw v, p.2.or fl)
        else p) (0, {})
      vplace 4 f.d f.w bits r fl s) s) s

/-- The incoming scale: byte 255 of C (R303). -/
def prevScale (r : Row) : Int := sextNat 8 (rowBits r 2040 8)

/-- The format code of VQUANT and VDEQ: F[17] and FN[0] (R304). -/
def mxCode (f : RR) : Nat := (if vSat f then 2 else 0) + fnBits f % 2

/-- POS of VQUANT and VDEQ, FN[8:2]. -/
def mxPos (f : RR) : Nat := fnBits f / 4 % 128

/-- Whether an element position lies in a row: POS x L + L ≤ 256 bytes (R304). -/
def mxPosOk (f : RR) : Bool := decide ((mxPos f + 1) * (8 * mxWidth (mxCode f)) ≤ 256)

/-- Block b of a row of FP32 lanes, as values. -/
def blockVals (r : Row) (b : Nat) : List FV :=
  (List.range 32).map fun i => fp32.decode (lane r (32 * b + i)).toNat

/-- VQUANT (R304). -/
def execVquant (h : Hdr) (f : RR) (s : State) : Host.Outcome State Fault Refusal :=
  word .v h (fun s =>
    let w := mxWidth (mxCode f)
    let sc := f.f.getLsbD 1
    let ok := mxCode f != 3 && (if sc then decide (mxPos f ≤ 84) else mxPosOk f)
    vsrcs (vdstOk f.d && ok) [] [(.fp32, f.a), (.int, f.c)] (fun l => paced { ec := 8, group := 3, every := 2 } (fun s =>
      let prev := prevScale (rarg l 1)
      let x0 := blockVals (rarg l 0) 0
      let x1 := blockVals (rarg l 0) 1
      let s0 := blockScale w prev x0
      let s1 := blockScale w s0 x1
      if sc then
        let r := setRowBits 0 (24 * mxPos f) 24 (slotBits prev s0 + 4096 * slotBits s0 s1)
        vplace 8 f.d f.w (spanBits (24 * mxPos f) 24 ||| spanBits 2040 8) (setRowBits r 2040 8 (truncInt 8 s1)) {} s
      else
        let q := x0.map (quantElem w (vRnd f) s0) ++ x1.map (quantElem w (vRnd f) s1)
        let bits := q.foldr (fun x a => x.1 + 2 ^ w * a) 0
        vplace 8 f.d f.w (spanBits (64 * w * mxPos f) (64 * w)) (setRowBits 0 (64 * w * mxPos f) (64 * w) bits)
          (q.foldl (fun a x => a.or x.2) {}) s)) s) s

/-- VDEQ (R305). -/
def execVdeq (h : Hdr) (f : RR) (s : State) : Host.Outcome State Fault Refusal :=
  word .v h (fun s =>
    let w := mxWidth (mxCode f)
    let sc := f.f.getLsbD 1
    let p := fnBits f / 1024 % 128
    let ok := mxCode f != 3 && decide (p ≤ 84) && (sc || mxPosOk f)
    let cs : List (Pos × BitVec 7) := (if sc then [] else [(.int, f.a)]) ++ [(.int, f.b), (.int, f.c)]
    vsrcs (vdstOk f.d && ok) (if sc then [] else [vKm f]) cs (fun l s =>
      let base := if sc then 0 else 1
      let slots := rarg l base
      let nib (n : Nat) : Nat := rowBits slots (24 * p + 4 * n) 4
      let s0 := slotScale (prevScale (rarg l (base + 1))) (nib 0) (nib 1) (nib 2)
      let s1 := slotScale s0 (nib 3) (nib 4) (nib 5)
      if sc then vplace 4 f.d f.w (spanBits 2040 8) (setRowBits 0 2040 8 (truncInt 8 s1)) {} s
      else
        let m := s.lanes f
        let (r, fl) := flagLanes m fun i =>
          let v := sextNat w (rowBits (rarg l 0) (64 * w * mxPos f + w * i) w)
          fl32 (fp32.round (vRnd f) false ((intV v).scale (if i < 32 then s0 else s1)))
        vput 4 f.d f.w m r fl s) s) s

/-! ## Sign compression -/

/-- u of VSGN1 for every lane, with flags (R143, step 1). -/
def sgnU (a b : Row) : Row × Fl :=
  flagLanes (BitVec.allOnes 64) fun i => fl32 (fp32.addB 0 false (lane a i).toNat (lane b i).toNat)

/-- scale of VSGN1 with flags (R143, step 2): a sixty-fourth of the tree sum of the magnitudes. -/
def sgnScale (u : Row) : Word × Fl :=
  let mags := mkRow fun i => lane u i &&& 0x7FFFFFFF
  let (t, fl) := treeFold (fun x y (a : Fl) =>
    let (b, fl) := fp32.addB 0 false x.toNat y.toNat
    (BitVec.ofNat 32 b, a.or fl)) 0 (BitVec.allOnes 64) mags {}
  let (b, fd) := fp32.round 0 false ((fp32.decode t.toNat).scale (-6))
  (BitVec.ofNat 32 b, fl.or fd)

/-- VSGN1 (R143, R204, R306). -/
def execVsgn1 (h : Hdr) (f : RR) (s : State) : Host.Outcome State Fault Refusal :=
  word .v h (fun s =>
    vsrcs (vdstOk f.d) [] [(.fp32, f.a), (.fp32, f.b)] (fun l => paced { ec := 14, group := 4, every := 4 } (fun s =>
      let (u, fu) := sgnU (rarg l 0) (rarg l 1)
      let (sc, fs) := sgnScale u
      if f.f.getLsbD 0 then
        let g := fnBits f / 2 % 16
        let signs := packElems 1 64 fun i => if (lane u i).getLsbD 31 then 1 else 0
        let r := setRowBits 0 (64 * g) 64 signs
        vplace 14 f.d f.w (spanBits (64 * g) 64 ||| spanBits (1024 + 32 * g) 32) (setRowBits r (1024 + 32 * g) 32 sc.toNat)
          {} s
      else
        let (r, fe) := flagLanes (BitVec.allOnes 64) fun i =>
          if (lane u i).getLsbD 31 then fl32 (fp32.addB 0 false (lane u i).toNat sc.toNat)
          else fl32 (fp32.subB 0 false (lane u i).toNat sc.toNat)
        vwhole 14 f.d f.w r (fu.or (fs.or fe)) s)) s) s

/-- VXSGN1 (R307). -/
def execVxsgn1 (h : Hdr) (f : RR) (s : State) : Host.Outcome State Fault Refusal :=
  vpure { ec := 2 } h f [.int] (fun l i =>
    let g := fnBits f / 2 % 16
    let sc : Word := BitVec.ofNat 32 (rowBits (rarg l 0) (1024 + 32 * g) 32)
    if rowBits (rarg l 0) (64 * g + i) 1 = 1 then sc ^^^ 0x80000000 else sc) s

/-! ## Movement -/

/-- VMOV (R308). -/
def execVmov (h : Hdr) (f : RR) (s : State) : Host.Outcome State Fault Refusal :=
  vpure { ec := 1 } h f [.int] (fun l i => lane (rarg l 0) i) s

/-- The sources of a word that may name its lane by B (R308). -/
def laneSrcs (f : RR) : List (Pos × BitVec 7) :=
  if f.f.getLsbD 6 then [(.int, f.a), (.int, f.b)] else [(.int, f.a)]

/-- The lane that such a word names (R308). -/
def laneNum (f : RR) (l : List Row) : Nat := if f.f.getLsbD 6 then (lane (rarg l 1) 0).toNat % 64 else f.f.toNat % 64

/-- VBCAST (R308). -/
def execVbcast (h : Hdr) (f : RR) (s : State) : Host.Outcome State Fault Refusal :=
  word .v h (fun s =>
    vsrcs (vdstOk f.d) [vKm f] (laneSrcs f) (fun l s =>
      vput 1 f.d f.w (s.lanes f) (splat (lane (rarg l 0) (laneNum f l))) {} s) s) s

/-- VSEL (R308): field C holds the mask code. -/
def execVsel (h : Hdr) (f : RR) (s : State) : Host.Outcome State Fault Refusal :=
  word .v h (fun s =>
    vsrcs (vdstOk f.d && idxOk f.c) [vKm f, f.c.toNat] [(.int, f.a), (.int, f.b)] (fun l s =>
      vput 1 f.d f.w (s.lanes f) (blend (s.cc.mask f.c.toNat) (rarg l 0) (rarg l 1)) {} s) s) s

/-- VIOTA (R308). -/
def execViota (h : Hdr) (f : RR) (s : State) : Host.Outcome State Fault Refusal :=
  word .v h (fun s =>
    vsrcs (vdstOk f.d && idxOk f.c) [vKm f, f.c.toNat] [(.int, f.a)] (fun l s =>
      let k := s.cc.mask f.c.toNat
      vput 1 f.d f.w (s.lanes f) (mkRow fun i =>
        lane (rarg l 0) i + BitVec.ofNat 32 ((List.range i).filter fun j => k.getLsbD j).length) {} s) s) s

/-- VEXTL (R308): a lane pushed into the xq of a cluster when it delivers. Whether an entry not yet delivered makes the queue full is
not said: it counts from its issue (DESIGN CHOICE, log 63), so that a queue never holds more than its 8 entries. -/
def execVextl (h : Hdr) (f : RR) (s : State) : Host.Outcome State Fault Refusal :=
  word .v h (fun s =>
    let dst := Cluster.ofCode f.d.toNat
    vsrcs (decide (f.d.toNat < 4)) [] (laneSrcs f) (fun l s =>
      if 8 ≤ (s.cc.clu dst).xq.length then .stall 4
      else
        let t := s.deliverAt .v 1
        let k := s.cc.knows s.ct.jobCtr .v
        .done (s.modCc fun x =>
          (x.modClu dst fun y => y.enq (4 * t + 1) (lane (rarg l 0) (laneNum f l)) k).owe .v [] false t)) s) s

/-- VINSL (R308): only lane L, if it is active. -/
def execVinsl (h : Hdr) (f : RR) (s : State) : Host.Outcome State Fault Refusal :=
  word .v h (fun s =>
    vsrcs (vdstOk f.d) [vKm f] (laneSrcs f) (fun l s =>
      let n := laneNum f l
      vput 1 f.d f.w (s.lanes f &&& (1#64 <<< n)) (splat (lane (rarg l 0) 0)) {} s) s) s

/-- VPERM (R309). -/
def execVperm (h : Hdr) (f : RR) (s : State) : Host.Outcome State Fault Refusal :=
  vpure { ec := 2 } h f [.int, .int] (fun l i =>
    let b := lane (rarg l 1) i
    if f.f.getLsbD 0 && b.getLsbD 31 then 0 else lane (rarg l 0) (b.toNat % 64)) s

/-- VROTM (R310). -/
def execVrotm (h : Hdr) (f : RR) (s : State) : Host.Outcome State Fault Refusal :=
  word .v h (fun s =>
    let fixed := f.f.getLsbD 8
    let cs : List (Pos × BitVec 7) := [(.int, f.a), (.int, f.b)] ++ if fixed then [] else [(.int, f.c)]
    vsrcs (vdstOk f.d) [vKm f] cs (fun l s =>
      let o := if fixed then f.f.toNat % 256 else (lane (rarg l 2) 0).toNat % 256
      let r : BitVec 2048 := ((rarg l 1 ++ rarg l 0 : BitVec 4096) >>> (8 * o)).truncate 2048
      vput 2 f.d f.w (s.lanes f) r {} s) s) s

/-- Element e of width w of a row. -/
def rowElem (r : Row) (w e : Nat) : Nat := rowBits r (w * e) w

/-- VZIP's row (R311). -/
def zipRow (w h : Nat) (a b : Row) : Row :=
  let n := 2048 / w
  BitVec.ofNat 2048 (packElems w n fun e => rowElem (if e % 2 = 0 then a else b) w (e / 2 + h * (n / 2)))

/-- VUNZIP's row (R311). -/
def unzipRow (w h : Nat) (a b : Row) : Row :=
  let n := 2048 / w
  BitVec.ofNat 2048 (packElems w n fun e => rowElem (if e < n / 2 then a else b) w (2 * (e % (n / 2)) + h))

/-- VZIP (R311). -/
def execVzip (h : Hdr) (f : RR) (s : State) : Host.Outcome State Fault Refusal :=
  word .v h (fun s =>
    vsrcs (vdstOk f.d && decide (f.f.toNat % 4 < 3)) [vKm f] [(.int, f.a), (.int, f.b)] (fun l s =>
      vput 2 f.d f.w (s.lanes f)
        (zipRow (8 * 2 ^ (f.f.toNat % 4)) (f.f.toNat / 4 % 2) (rarg l 0) (rarg l 1)) {} s) s) s

/-- VUNZIP (R311). -/
def execVunzip (h : Hdr) (f : RR) (s : State) : Host.Outcome State Fault Refusal :=
  word .v h (fun s =>
    vsrcs (vdstOk f.d && decide (f.f.toNat % 4 < 3)) [vKm f] [(.int, f.a), (.int, f.b)] (fun l s =>
      vput 2 f.d f.w (s.lanes f)
        (unzipRow (8 * 2 ^ (f.f.toNat % 4)) (f.f.toNat / 4 % 2) (rarg l 0) (rarg l 1)) {} s) s) s

/-! ## Masks -/

/-- A mask word: its masks checked, its result written and pushed (R312). -/
def maskWord (h : Hdr) (f : RR) (ms : List (BitVec 7)) (op : BitVec 64 → BitVec 64 → BitVec 64) (s : State) :
    Host.Outcome State Fault Refusal :=
  word .v h (fun s =>
    if maskDst f.d && ms.all idxOk then
      reads .v (ms.map fun m => 128 + m.toNat) [] (fun s =>
        let r := op (s.cc.mask f.a.toNat) (s.cc.mask f.b.toNat)
        vmaskPut 1 f.d f.w (BitVec.allOnes 64) (fun i => r.getLsbD i) s) s
    else s.reserved) s

/-- KAND (R312). -/
def execKand (h : Hdr) (f : RR) (s : State) : Host.Outcome State Fault Refusal :=
  maskWord h f [f.a, f.b] (fun a b => a &&& b) s
/-- KOR (R312). -/
def execKor (h : Hdr) (f : RR) (s : State) : Host.Outcome State Fault Refusal :=
  maskWord h f [f.a, f.b] (fun a b => a ||| b) s
/-- KXOR (R312). -/
def execKxor (h : Hdr) (f : RR) (s : State) : Host.Outcome State Fault Refusal :=
  maskWord h f [f.a, f.b] (fun a b => a ^^^ b) s
/-- KNOT (R312). -/
def execKnot (h : Hdr) (f : RR) (s : State) : Host.Outcome State Fault Refusal :=
  maskWord h f [f.a] (fun a _ => ~~~a) s

/-- The number of set bits of a mask. -/
def maskCount (m : BitVec 64) : Nat := ((List.range 64).filter fun i => m.getLsbD i).length

/-- KPOP (R312). -/
def execKpop (h : Hdr) (f : RR) (s : State) : Host.Outcome State Fault Refusal :=
  word .v h (fun s =>
    if vdstOk f.d && idxOk f.a then
      reads .v [128 + f.a.toNat] [] (fun s =>
        vwhole 1 f.d f.w (splat (BitVec.ofNat 32 (maskCount (s.cc.mask f.a.toNat)))) {} s) s
    else s.reserved) s

/-- KTEST (R312). -/
def execKtest (h : Hdr) (f : RR) (s : State) : Host.Outcome State Fault Refusal :=
  word .v h (fun s =>
    if idxOk f.d && idxOk f.a && idxOk f.b then
      reads .v [128 + f.a.toNat, 128 + f.b.toNat] [] (fun s =>
        let a := s.cc.mask f.a.toNat
        let b := s.cc.mask f.b.toNat
        let t := if f.f.getLsbD 0 then (a &&& b) == b else (a &&& b) != 0
        let r := s.deliverAt .v 1
        .done (s.modCc fun x =>
          ((if f.w then x.modClu .v fun y => y.setGuard f.d.toNat t else x).pushV
            (splat (if t then 1 else 0))).owe .v [] true r)) s
    else s.reserved) s

/-! ## Accumulator rows -/

/-- The row that VACCRD and VACCWR address (R313). -/
def accRow (f : RI) (a : Row) : Nat := ((lane a 0).toNat % 64 + f.imm.toNat / 16 % 64) % 64

/-- KM of VACCRD and VACCWR (R313). -/
def accKm (f : RI) : Nat := f.imm.toNat / 1024 % 8

/-- The active lanes of VACCRD and VACCWR (R313). -/
def State.accLanes (s : State) (f : RI) : BitVec 64 := s.cc.mask (accKm f)

/-- The engine cycles of a VACCRD or VACCWR of latency n: no fewer, and none before the matrix engine's step boundary (R301,
R314). The bank holds from the first rc of a matrix step on what it holds at its end (R95), so that the word meets at its
issue what stands at that boundary. -/
def accEc (n : Nat) (s : State) : Nat := Nat.max n ((s.cc.stepBoundary s.now - s.now + s.cc.cdiv - 1) / s.cc.cdiv)

/-- A VACCRD or VACCWR that delivers n engine cycles after its issue waits for the boundary whatever the divisor (R228, R314). -/
def accFloor (n : Nat) (s : State) : State :=
  s.modCc fun x => x.putFloor .v s.now (s.deliverAt .v n) (x.stepBoundary s.now)

/-- MODE of VACCRD and VACCWR (R313). -/
def accMode (f : RI) : Nat := f.f5.toNat % 4

/-- The fault of a word that reads an uncorrectable accumulator (R441, R443). -/
def State.badElem (s : State) (g : Nat) : Eff :=
  .fault { s.recNow .dataUncorrectable 2 with addr := some (true, BitVec.ofNat 60 g) }

/-- VACCRD (R131, R313). -/
def execVaccrd (h : Hdr) (f : RI) (s : State) : Host.Outcome State Fault Refusal :=
  word .v h (fun s =>
    vsrcs (vdstOk f.d && decide (accMode f < 3)) [accKm f] [(.int, f.a)] (fun l => paced { ec := 6, group := 5, every := 2 }
      (fun s =>
      let m := s.accLanes f
      let row := accRow f (rarg l 0)
      let bank := f.imm.toNat % 16
      if let some g := s.badAccRow s.cur.tile s.cur.core bank row m then s.badElem g else
      let (r, fl) := flagLanes m fun c =>
        let x := s.cc.accEl bank row c
        match accMode f with
        | 0 => fl32 (acc48ToFp32 (f.f5.toNat / 4 % 4) (f.f5.getLsbD 4) x)
        | 1 => (x.truncate 32, {})
        | _ => ((x.extractLsb' 32 16).setWidth 32, {})
      vput (accEc 6 s) f.d f.w m r fl (accFloor (accEc 6 s) s))) s) s
where
  /-- The drain to FP32 (R131) with a rounding mode. -/
  acc48ToFp32 (mode : Nat) (sat : Bool) (x : Acc) : Nat × Fl := fp32.round mode sat (acc48.decode x.toNat)

/-- Whether a code is a source of VACCWR: a register, a latch or lq (R315). -/
def accSrcOk (c : BitVec 7) : Bool := decide (c.toNat < 32) || (decide (0x40 ≤ c.toNat) && decide (c.toNat ≤ 0x44))

/-- VACCWR (R313): it pushes nothing. Where A and D both name lq, A takes the older row: R237 and R288 order A, B and C alone (DESIGN
CHOICE, log 63). -/
def execVaccwr (h : Hdr) (f : RI) (s : State) : Host.Outcome State Fault Refusal :=
  word .v h (fun s =>
    vsrcs (accSrcOk f.d && decide (accMode f < 3)) [accKm f] [(.int, f.a), (.int, f.d)] (fun l =>
      paced { ec := 2, group := 6, every := 2 } (fun s =>
      let m := s.accLanes f
      let row := accRow f (rarg l 0)
      let bank := f.imm.toNat % 16
      if let some g := if accMode f = 0 then none else s.badAccRow s.cur.tile s.cur.core bank row m then s.badElem g else
      let t := s.deliverAt .v (accEc 2 s)
      let s := accFloor (accEc 2 s) s
      .done (s.modCc fun x => Core.owe (x := (List.range 64).foldl (fun x c =>
        if m.getLsbD c then
          let old := x.accEl bank row c
          let w := lane (rarg l 1) c
          let new : Acc := match accMode f with
            | 0 => BitVec.ofNat 48 (acc48.round 0 false (fp32.decode w.toNat)).1
            | 1 => old.extractLsb' 32 16 ++ w
            | _ => (w.truncate 16 : BitVec 16) ++ (old.truncate 32 : BitVec 32)
          x.setAcc bank row c new
        else x) x) .v [] false t))) s) s

end Sys2Proof.Machine
end

