-- ==== Sys2Proof/Machine/Dispatch.lean ====
section
/-!
DEFINITION. One arm per instruction: the opcode table against the meanings.
-/
namespace Sys2Proof.Machine

/-- The effect of an instruction on a state. -/
def exec (i : Instr) (s : State) : Host.Outcome State Fault Refusal :=
  match i with
  | .add h f => Sys2Proof.Machine.execAdd h f s
  | .addi h f => Sys2Proof.Machine.execAddi h f s
  | .sub h f => Sys2Proof.Machine.execSub h f s
  | .mul h f => Sys2Proof.Machine.execMul h f s
  | .mulh h f => Sys2Proof.Machine.execMulh h f s
  | .mulhu h f => Sys2Proof.Machine.execMulhu h f s
  | .mad h f => Sys2Proof.Machine.execMad h f s
  | .div h f => Sys2Proof.Machine.execDiv h f s
  | .divu h f => Sys2Proof.Machine.execDivu h f s
  | .rem h f => Sys2Proof.Machine.execRem h f s
  | .remu h f => Sys2Proof.Machine.execRemu h f s
  | .and h f => Sys2Proof.Machine.execAnd h f s
  | .andi h f => Sys2Proof.Machine.execAndi h f s
  | .or h f => Sys2Proof.Machine.execOr h f s
  | .ori h f => Sys2Proof.Machine.execOri h f s
  | .xor h f => Sys2Proof.Machine.execXor h f s
  | .xori h f => Sys2Proof.Machine.execXori h f s
  | .andn h f => Sys2Proof.Machine.execAndn h f s
  | .shl h f => Sys2Proof.Machine.execShl h f s
  | .shli h f => Sys2Proof.Machine.execShli h f s
  | .shr h f => Sys2Proof.Machine.execShr h f s
  | .shri h f => Sys2Proof.Machine.execShri h f s
  | .sar h f => Sys2Proof.Machine.execSar h f s
  | .sari h f => Sys2Proof.Machine.execSari h f s
  | .rotl h f => Sys2Proof.Machine.execRotl h f s
  | .min h f => Sys2Proof.Machine.execMin h f s
  | .max h f => Sys2Proof.Machine.execMax h f s
  | .minu h f => Sys2Proof.Machine.execMinu h f s
  | .maxu h f => Sys2Proof.Machine.execMaxu h f s
  | .clz h f => Sys2Proof.Machine.execClz h f s
  | .popc h f => Sys2Proof.Machine.execPopc h f s
  | .brev h f => Sys2Proof.Machine.execBrev h f s
  | .extr h f => Sys2Proof.Machine.execExtr h f s
  | .insr h f => Sys2Proof.Machine.execInsr h f s
  | .mov h f => Sys2Proof.Machine.execMov h f s
  | .movi h f => Sys2Proof.Machine.execMovi h f s
  | .sel h f => Sys2Proof.Machine.execSel h f s
  | .cmp h f => Sys2Proof.Machine.execCmp h f s
  | .cmpi h f => Sys2Proof.Machine.execCmpi h f s
  | .jmp h f => Sys2Proof.Machine.execJmp h f s
  | .call h f => Sys2Proof.Machine.execCall h f s
  | .ret h f => Sys2Proof.Machine.execRet h f s
  | .semsig h f => Sys2Proof.Machine.execSemsig h f s
  | .semwait h f => Sys2Proof.Machine.execSemwait h f s
  | .semtry h f => Sys2Proof.Machine.execSemtry h f s
  | .semset h f => Sys2Proof.Machine.execSemset h f s
  | .semrd h f => Sys2Proof.Machine.execSemrd h f s
  | .barrive h f => Sys2Proof.Machine.execBarrive h f s
  | .bexpect h f => Sys2Proof.Machine.execBexpect h f s
  | .bwait h f => Sys2Proof.Machine.execBwait h f s
  | .iter h f => Sys2Proof.Machine.execIter h f s
  | .exit h f => Sys2Proof.Machine.execExit h f s
  | .safept h f => Sys2Proof.Machine.execSafept h f s
  | .sevt h f => Sys2Proof.Machine.execSevt h f s
  | .trap h f => Sys2Proof.Machine.execTrap h f s
  | .eret h f => Sys2Proof.Machine.execEret h f s
  | .rdsr h f => Sys2Proof.Machine.execRdsr h f s
  | .wrsr h f => Sys2Proof.Machine.execWrsr h f s
  | .clkdiv h f => Sys2Proof.Machine.execClkdiv h f s
  | .rdcnt h f => Sys2Proof.Machine.execRdcnt h f s
  | .halt h f => Sys2Proof.Machine.execHalt h f s
  | .br h f => Sys2Proof.Machine.execBr h f s
  | .loop h f => Sys2Proof.Machine.execLoop h f s
  | .xput h f => Sys2Proof.Machine.execXput h f s
  | .gop h f => Sys2Proof.Machine.execGop h f s
  | .nop h f => Sys2Proof.Machine.execNop h f s
  | .vfadd h f => Sys2Proof.Machine.execVfadd h f s
  | .vfsub h f => Sys2Proof.Machine.execVfsub h f s
  | .vfmul h f => Sys2Proof.Machine.execVfmul h f s
  | .vfma h f => Sys2Proof.Machine.execVfma h f s
  | .vfmin h f => Sys2Proof.Machine.execVfmin h f s
  | .vfmax h f => Sys2Proof.Machine.execVfmax h f s
  | .vfcmp h f => Sys2Proof.Machine.execVfcmp h f s
  | .vfsum h f => Sys2Proof.Machine.execVfsum h f s
  | .vfrcp h f => Sys2Proof.Machine.execVfrcp h f s
  | .vfrsq h f => Sys2Proof.Machine.execVfrsq h f s
  | .vfexp2 h f => Sys2Proof.Machine.execVfexp2 h f s
  | .vflog2 h f => Sys2Proof.Machine.execVflog2 h f s
  | .vftanh h f => Sys2Proof.Machine.execVftanh h f s
  | .vhadd h f => Sys2Proof.Machine.execVhadd h f s
  | .vhmul h f => Sys2Proof.Machine.execVhmul h f s
  | .vhfma h f => Sys2Proof.Machine.execVhfma h f s
  | .vhdot2 h f => Sys2Proof.Machine.execVhdot2 h f s
  | .vadd h f => Sys2Proof.Machine.execVadd h f s
  | .vsub h f => Sys2Proof.Machine.execVsub h f s
  | .vmul h f => Sys2Proof.Machine.execVmul h f s
  | .vmulh h f => Sys2Proof.Machine.execVmulh h f s
  | .vmin h f => Sys2Proof.Machine.execVmin h f s
  | .vmax h f => Sys2Proof.Machine.execVmax h f s
  | .vand h f => Sys2Proof.Machine.execVand h f s
  | .vor h f => Sys2Proof.Machine.execVor h f s
  | .vxor h f => Sys2Proof.Machine.execVxor h f s
  | .vshl h f => Sys2Proof.Machine.execVshl h f s
  | .vshr h f => Sys2Proof.Machine.execVshr h f s
  | .vsar h f => Sys2Proof.Machine.execVsar h f s
  | .vicmp h f => Sys2Proof.Machine.execVicmp h f s
  | .vadds h f => Sys2Proof.Machine.execVadds h f s
  | .vsubs h f => Sys2Proof.Machine.execVsubs h f s
  | .vired h f => Sys2Proof.Machine.execVired h f s
  | .vcvt h f => Sys2Proof.Machine.execVcvt h f s
  | .vquant h f => Sys2Proof.Machine.execVquant h f s
  | .vdeq h f => Sys2Proof.Machine.execVdeq h f s
  | .vsgn1 h f => Sys2Proof.Machine.execVsgn1 h f s
  | .vxsgn1 h f => Sys2Proof.Machine.execVxsgn1 h f s
  | .vmov h f => Sys2Proof.Machine.execVmov h f s
  | .vbcast h f => Sys2Proof.Machine.execVbcast h f s
  | .vsel h f => Sys2Proof.Machine.execVsel h f s
  | .vperm h f => Sys2Proof.Machine.execVperm h f s
  | .vrotm h f => Sys2Proof.Machine.execVrotm h f s
  | .vzip h f => Sys2Proof.Machine.execVzip h f s
  | .vunzip h f => Sys2Proof.Machine.execVunzip h f s
  | .viota h f => Sys2Proof.Machine.execViota h f s
  | .vextl h f => Sys2Proof.Machine.execVextl h f s
  | .vinsl h f => Sys2Proof.Machine.execVinsl h f s
  | .kand h f => Sys2Proof.Machine.execKand h f s
  | .kor h f => Sys2Proof.Machine.execKor h f s
  | .kxor h f => Sys2Proof.Machine.execKxor h f s
  | .knot h f => Sys2Proof.Machine.execKnot h f s
  | .kpop h f => Sys2Proof.Machine.execKpop h f s
  | .ktest h f => Sys2Proof.Machine.execKtest h f s
  | .vaccrd h f => Sys2Proof.Machine.execVaccrd h f s
  | .vaccwr h f => Sys2Proof.Machine.execVaccwr h f s
  | .aadd h f => Sys2Proof.Machine.execAadd h f s
  | .aaddi h f => Sys2Proof.Machine.execAaddi h f s
  | .asub h f => Sys2Proof.Machine.execAsub h f s
  | .aadd64 h f => Sys2Proof.Machine.execAadd64 h f s
  | .aaddi64 h f => Sys2Proof.Machine.execAaddi64 h f s
  | .amov h f => Sys2Proof.Machine.execAmov h f s
  | .amovi h f => Sys2Proof.Machine.execAmovi h f s
  | .ashli h f => Sys2Proof.Machine.execAshli h f s
  | .aand h f => Sys2Proof.Machine.execAand h f s
  | .acmp h f => Sys2Proof.Machine.execAcmp h f s
  | .vld h f => Sys2Proof.Machine.execVld h f s
  | .vst h f => Sys2Proof.Machine.execVst h f s
  | .sld h f => Sys2Proof.Machine.execSld h f s
  | .sst h f => Sys2Proof.Machine.execSst h f s
  | .vstm h f => Sys2Proof.Machine.execVstm h f s
  | .amoadd h f => Sys2Proof.Machine.execAmoadd h f s
  | .amomin h f => Sys2Proof.Machine.execAmomin h f s
  | .amomax h f => Sys2Proof.Machine.execAmomax h f s
  | .amoand h f => Sys2Proof.Machine.execAmoand h f s
  | .amoor h f => Sys2Proof.Machine.execAmoor h f s
  | .amoxor h f => Sys2Proof.Machine.execAmoxor h f s
  | .amoswp h f => Sys2Proof.Machine.execAmoswp h f s
  | .amocas h f => Sys2Proof.Machine.execAmocas h f s
  | .amofadd h f => Sys2Proof.Machine.execAmofadd h f s
  | .fence h f => Sys2Proof.Machine.execFence h f s
  | .xfence h f => Sys2Proof.Machine.execXfence h f s
  | .wmwait h f => Sys2Proof.Machine.execWmwait h f s
  | .winset h f => Sys2Proof.Machine.execWinset h f s
  | .winrd h f => Sys2Proof.Machine.execWinrd h f s
  | .rgnset h f => Sys2Proof.Machine.execRgnset h f s
  | .eadd h f => Sys2Proof.Machine.execEadd h f s
  | .eaddi h f => Sys2Proof.Machine.execEaddi h f s
  | .emov h f => Sys2Proof.Machine.execEmov h f s
  | .emovi h f => Sys2Proof.Machine.execEmovi h f s
  | .ecmp h f => Sys2Proof.Machine.execEcmp h f s
  | .shset h f => Sys2Proof.Machine.execShset h f s
  | .shmod h f => Sys2Proof.Machine.execShmod h f s
  | .shinv h f => Sys2Proof.Machine.execShinv h f s
  | .mplant h f => Sys2Proof.Machine.execMplant h f s
  | .mma h f => Sys2Proof.Machine.execMma h f s
  | .mdrain h f => Sys2Proof.Machine.execMdrain h f s
  | .mdrainSend h f => Sys2Proof.Machine.execMdrainSend h f s
  | .mzero h f => Sys2Proof.Machine.execMzero h f s
  | .msave h f => Sys2Proof.Machine.execMsave h f s
  | .mrest h f => Sys2Proof.Machine.execMrest h f s
  | .mbatt h f => Sys2Proof.Machine.execMbatt h f s
  | .cpy h f => Sys2Proof.Machine.execCpy h f s
  | .cpyd h f => Sys2Proof.Machine.execCpyd h f s
  | .cpyr h f => Sys2Proof.Machine.execCpyr h f s
  | .cpym h f => Sys2Proof.Machine.execCpym h f s
  | .wmset h f => Sys2Proof.Machine.execWmset h f s
  | .cwait h f => Sys2Proof.Machine.execCwait h f s
  | .cstat h f => Sys2Proof.Machine.execCstat h f s
  | .send h f => Sys2Proof.Machine.execSend h f s
  | .ctset h f => Sys2Proof.Machine.execCtset h f s
  | .ctready h f => Sys2Proof.Machine.execCtready h f s
  | .grpset h f => Sys2Proof.Machine.execGrpset h f s
  | .gfree h f => Sys2Proof.Machine.execGfree h f s
  | .pace h f => Sys2Proof.Machine.execPace h f s
  | .nops r => Sys2Proof.Machine.execNops r s
  | .rig r => Sys2Proof.Machine.execRig r s
  | .rigm r => Sys2Proof.Machine.execRigm r s
  | .derig r => Sys2Proof.Machine.execDerig r s
  | .hold r => Sys2Proof.Machine.execHold r s
  | .waitev r => Sys2Proof.Machine.execWaitev r s
  | .sigev r => Sys2Proof.Machine.execSigev r s
  | .jmps r => Sys2Proof.Machine.execJmps r s
  | .loops r => Sys2Proof.Machine.execLoops r s
  | .xportDrain r => Sys2Proof.Machine.execXportDrain r s
  | .xportDark r => Sys2Proof.Machine.execXportDark r s
  | .xportProbe r => Sys2Proof.Machine.execXportProbe r s
  | .xportOpen r => Sys2Proof.Machine.execXportOpen r s
  | .rtsw r => Sys2Proof.Machine.execRtsw r s
  | .ends r => Sys2Proof.Machine.execEnds r s
  | .probeComplete loss => Sys2Proof.Machine.execProbeComplete loss s
  | .row src m => Sys2Proof.Machine.execRow src m s
  | .shortStore src m => Sys2Proof.Machine.execShortStore src m s
  | .shortAtomic src m => Sys2Proof.Machine.execShortAtomic src m s
  | .shortLoad src m => Sys2Proof.Machine.execShortLoad src m s
  | .reply src m => Sys2Proof.Machine.execReply src m s
  | .chunk src m => Sys2Proof.Machine.execChunk src m s
  | .reductionContribution src m => Sys2Proof.Machine.execReductionContribution src m s
  | .multicastArrival src m => Sys2Proof.Machine.execMulticastArrival src m s
  | .statusFlit leaf ack allowc => Sys2Proof.Machine.execStatusFlit leaf ack allowc s
  | .negativeResponse leaf ack allowc nseq code => Sys2Proof.Machine.execNegativeResponse leaf ack allowc nseq code s
  | .commit src sq => Sys2Proof.Machine.execCommit src sq s
  | .keepalive leaf rcv allowc perf => Sys2Proof.Machine.execKeepalive leaf rcv allowc perf s
  | .controlSlot src => Sys2Proof.Machine.execControlSlot src s
  | .keepaliveSend src => Sys2Proof.Machine.execKeepaliveSend src s
  | .leafSlot src => Sys2Proof.Machine.execLeafSlot src s
  | .ringDetune line rx => Sys2Proof.Machine.execRingDetune line rx s
  | .stripingChange line rx => Sys2Proof.Machine.execStripingChange line rx s
  | .controlRingDetune rx => Sys2Proof.Machine.execControlRingDetune rx s
  | .mziFail stage el => Sys2Proof.Machine.execMziFail stage el s
  | .governorSample imb => Sys2Proof.Machine.execGovernorSample imb s
  | .faultDelivery r => Sys2Proof.Machine.execFaultDelivery r s
  | .taskDoorbell v => Sys2Proof.Machine.execTaskDoorbell v s
  | .leaseGrant pl => Sys2Proof.Machine.execLeaseGrant pl s
  | .coreFailed pc => Sys2Proof.Machine.execCoreFailed pc s
  | .tileBypass cause => Sys2Proof.Machine.execTileBypass cause s
  | .softCorrected mpa store => Sys2Proof.Machine.execSoftCorrected mpa store s
  | .linkRetrain width rate => Sys2Proof.Machine.execLinkRetrain width rate s
  | .msixUnmask vec => Sys2Proof.Machine.execMsixUnmask vec s
  | .bar2Read off => Sys2Proof.Machine.execBar2Read off s
  | .bar2Write off x => Sys2Proof.Machine.execBar2Write off x s
  | .registerWrite off x => Sys2Proof.Machine.execRegisterWrite off x s
  | .rigRetry => Sys2Proof.Machine.execRigRetry s
  | .settlingEnd => Sys2Proof.Machine.execSettlingEnd s
  | .pathBlocked => Sys2Proof.Machine.execPathBlocked s
  | .pathRelease => Sys2Proof.Machine.execPathRelease s
  | .derigComplete => Sys2Proof.Machine.execDerigComplete s
  | .drainComplete => Sys2Proof.Machine.execDrainComplete s
  | .probeTimeout => Sys2Proof.Machine.execProbeTimeout s
  | .messageSend => Sys2Proof.Machine.execMessageSend s
  | .chunkApply => Sys2Proof.Machine.execChunkApply s
  | .resendTimeout => Sys2Proof.Machine.execResendTimeout s
  | .allowanceAudit => Sys2Proof.Machine.execAllowanceAudit s
  | .lampFail => Sys2Proof.Machine.execLampFail s
  | .lampRelight => Sys2Proof.Machine.execLampRelight s
  | .reroute => Sys2Proof.Machine.execReroute s
  | .extPortLoss => Sys2Proof.Machine.execExtPortLoss s
  | .peerAbsentTimeout => Sys2Proof.Machine.execPeerAbsentTimeout s
  | .semaphoreFileCycle => Sys2Proof.Machine.execSemaphoreFileCycle s
  | .walkerCycle => Sys2Proof.Machine.execWalkerCycle s
  | .limiterStep => Sys2Proof.Machine.execLimiterStep s
  | .matrixDivisorChange => Sys2Proof.Machine.execMatrixDivisorChange s
  | .matrixJobOffer => Sys2Proof.Machine.execMatrixJobOffer s
  | .matrixJobStart => Sys2Proof.Machine.execMatrixJobStart s
  | .matrixJobComplete => Sys2Proof.Machine.execMatrixJobComplete s
  | .channelJobStart => Sys2Proof.Machine.execChannelJobStart s
  | .copyChunk => Sys2Proof.Machine.execCopyChunk s
  | .carderBlock => Sys2Proof.Machine.execCarderBlock s
  | .copyJobComplete => Sys2Proof.Machine.execCopyJobComplete s
  | .sendJobStart => Sys2Proof.Machine.execSendJobStart s
  | .firingComplete => Sys2Proof.Machine.execFiringComplete s
  | .watermarkStallEnd => Sys2Proof.Machine.execWatermarkStallEnd s
  | .hubRecovery => Sys2Proof.Machine.execHubRecovery s
  | .clusterDeadlock => Sys2Proof.Machine.execClusterDeadlock s
  | .watchdog => Sys2Proof.Machine.execWatchdog s
  | .dispatcherScan => Sys2Proof.Machine.execDispatcherScan s
  | .launch => Sys2Proof.Machine.execLaunch s
  | .preemptionRequest => Sys2Proof.Machine.execPreemptionRequest s
  | .coreStop => Sys2Proof.Machine.execCoreStop s
  | .engineFreeze => Sys2Proof.Machine.execEngineFreeze s
  | .rigProgramStop => Sys2Proof.Machine.execRigProgramStop s
  | .preemptionComplete => Sys2Proof.Machine.execPreemptionComplete s
  | .resume => Sys2Proof.Machine.execResume s
  | .tilePartEnd => Sys2Proof.Machine.execTilePartEnd s
  | .taskEnd => Sys2Proof.Machine.execTaskEnd s
  | .coreGate => Sys2Proof.Machine.execCoreGate s
  | .wakeRequest => Sys2Proof.Machine.execWakeRequest s
  | .inrushGrant => Sys2Proof.Machine.execInrushGrant s
  | .coreWake => Sys2Proof.Machine.execCoreWake s
  | .hubFailure => Sys2Proof.Machine.execHubFailure s
  | .powerUp => Sys2Proof.Machine.execPowerUp s
  | .fundamentalReset => Sys2Proof.Machine.execFundamentalReset s
  | .functionLevelReset => Sys2Proof.Machine.execFunctionLevelReset s
  | .linkDown => Sys2Proof.Machine.execLinkDown s
  | .mapslot => Sys2Proof.Machine.execMapslot s
  | .unmapslot => Sys2Proof.Machine.execUnmapslot s
  | .xlate => Sys2Proof.Machine.execXlate s
  | .hostmap => Sys2Proof.Machine.execHostmap s
  | .hostunmap => Sys2Proof.Machine.execHostunmap s
  | .attestationRequest => Sys2Proof.Machine.execAttestationRequest s
  | .attestationComplete => Sys2Proof.Machine.execAttestationComplete s
  | .mgmtXportDrain => Sys2Proof.Machine.execMgmtXportDrain s
  | .mgmtXportDark => Sys2Proof.Machine.execMgmtXportDark s
  | .mgmtXportProbe => Sys2Proof.Machine.execMgmtXportProbe s
  | .mgmtXportOpen => Sys2Proof.Machine.execMgmtXportOpen s
  | .checkpoint => Sys2Proof.Machine.execCheckpoint s
  | .checkpointComplete => Sys2Proof.Machine.execCheckpointComplete s
  | .restore => Sys2Proof.Machine.execRestore s
  | .restoreComplete => Sys2Proof.Machine.execRestoreComplete s
  | .abort => Sys2Proof.Machine.execAbort s
  | .setmodid => Sys2Proof.Machine.execSetmodid s
  | .memoryPortApply => Sys2Proof.Machine.execMemoryPortApply s
  | .configurationRequest => Sys2Proof.Machine.execConfigurationRequest s

end Sys2Proof.Machine
end

