-- ==== Sys2Proof/Machine/Step.lean ====
section
/-!
DEFINITION. One step of the machine, and a probe word placed where the next step fetches.
-/
namespace Sys2Proof.Machine

/-- ONE STEP: the due step at the head of the agenda, else what `idle` says. -/
def step (s : State) : Host.Outcome State Fault Refusal := stepWith exec s

/-- The state with the word w as the one the next step fetches and runs: by the byte above the word, a word of
cluster C, V, M or E of core 0 of tile 0, or a rig word (log 9). -/
def State.withFetchWord (s : State) (nbits w : Nat) : State :=
  let x : DWord := BitVec.ofNat 64 w
  let u : Nat := if nbits ≤ 64 then 0 else (w / 2 ^ 64) % 256
  if u = 4 then placeRig s x else placeWord s (Cluster.ofCode u) x

end Sys2Proof.Machine
end

