-- ==== Sys2Proof/Laws/Encoding.lean ====
section
/-!
SUPPORT. The fields of packed words: each field of a format is read back from the word it was packed into (spec/10
R232, R233, R246).
-/
namespace Sys2Proof.Laws

theorem field_lo {a b : Nat} (x : BitVec a) (y : BitVec b) {s l : Nat} (h : s + l ≤ b) :
    (no_index (x ++ y)).extractLsb' s l = y.extractLsb' s l := BitVec.extractLsb'_append_eq_of_add_le h

theorem field_hi {a b : Nat} (x : BitVec a) (y : BitVec b) {s l : Nat} (h : b ≤ s) :
    (no_index (x ++ y)).extractLsb' s l = x.extractLsb' (s - b) l := BitVec.extractLsb'_append_eq_of_le h

theorem bit_lo {a b : Nat} (x : BitVec a) (y : BitVec b) {i : Nat} (h : i < b) :
    (no_index (x ++ y)).getLsbD i = y.getLsbD i := by
  rw [BitVec.getLsbD_append]; simp [h]

theorem bit_hi {a b : Nat} (x : BitVec a) (y : BitVec b) {i : Nat} (h : b ≤ i) :
    (no_index (x ++ y)).getLsbD i = x.getLsbD (i - b) := by
  rw [BitVec.getLsbD_append]; simp [Nat.not_lt.mpr h]

theorem hdrOf_packHdr (op : BitVec 7) (h : Hdr) (b : BitVec 52) : hdrOf (packHdr op h b) = h := by
  cases h
  simp [-BitVec.getLsbD_eq_getElem, hdrOf, packHdr, field, bit, field_lo, field_hi, bit_lo, bit_hi]

theorem opOf_packHdr (op : BitVec 7) (h : Hdr) (b : BitVec 52) : opOf (packHdr op h b) = op := by
  simp [opOf, packHdr, field, field_lo, field_hi]

theorem rrOf_packHdr (op : BitVec 7) (h : Hdr) (f : RR) : rrOf (packHdr op h f.bits) = f := by
  cases f
  simp [-BitVec.getLsbD_eq_getElem, rrOf, RR.bits, packHdr, field, bit, field_lo, field_hi, bit_lo, bit_hi]

theorem riOf_packHdr (op : BitVec 7) (h : Hdr) (f : RI) : riOf (packHdr op h f.bits) = f := by
  cases f
  simp [-BitVec.getLsbD_eq_getElem, riOf, RI.bits, packHdr, field, bit, field_lo, field_hi, bit_lo, bit_hi]

theorem memOf_packHdr (op : BitVec 7) (h : Hdr) (f : MemF) : memOf (packHdr op h f.bits) = f := by
  cases f
  simp [-BitVec.getLsbD_eq_getElem, memOf, MemF.bits, packHdr, field, bit, field_lo, field_hi, bit_lo, bit_hi]


theorem brOf_packHdr (op : BitVec 7) (h : Hdr) (f : BrF) : brOf (packHdr op h f.bits) = f := by
  cases f
  simp [brOf, BrF.bits, packHdr, field, field_lo, field_hi]

theorem engOf_packHdr (op : BitVec 7) (h : Hdr) (f : EngF) : engOf (packHdr op h f.bits) = f := by
  cases f
  simp [-BitVec.getLsbD_eq_getElem, engOf, EngF.bits, packHdr, field, bit, field_lo, field_hi, bit_lo, bit_hi]


theorem nopOf_packHdr (op : BitVec 7) (h : Hdr) (f : BitVec 52) : field (packHdr op h f) 0 52 = f := by
  simp [packHdr, field, field_lo]

theorem md12_packHdr (op : BitVec 7) (h : Hdr) (f : EngF) :
    bit (packHdr op h f.bits) 12 = f.md.getLsbD 12 := by
  simp [-BitVec.getLsbD_eq_getElem, bit, EngF.bits, packHdr, bit_lo]

theorem rigOf_packRig (op : BitVec 6) (r : RigW) : rigOf (packRig op r) = r := by
  cases r
  simp [rigOf, packRig, field, field_lo, field_hi]

theorem sop_packRig (op : BitVec 6) (r : RigW) : field (packRig op r) 58 6 = op := by
  simp [packRig, field, field_hi]

theorem cmd_packRig (op : BitVec 6) (r : RigW) : field (packRig op r) 44 2 = r.cmd := by
  simp [packRig, field, field_lo, RigW.cmd]

end Sys2Proof.Laws
end

