-- ==== Sys2Proof/Laws/PerInstr.lean ====
section
/-!
SUPPORT. Families of statements made per instruction: RoundTrip says that a well-formed instruction is what each of
its units decodes from its word, and that a machine event has no word (spec/10 R232, R233, R240 to R246).
-/
namespace Sys2Proof.Laws.RoundTrip

set_option Elab.async false

/-- What RoundTrip says of one instruction. -/
def Statement (i : Instr) : Prop :=
  i.wf = true →
    (∀ u ∈ i.units, ∃ w, encode i = some w ∧ decode u w = .ok i) ∧ (i.units = [] → encode i = none)

/-- An instruction with a word that its units decode. -/
theorem of_word {i : Instr} (l : List FetchUnit) {w : BitVec 64} (hu : i.units = l) (he : encode i = some w)
    (hl : l ≠ []) (hd : i.wf = true → ∀ u ∈ l, decode u w = .ok i) : Statement i := by
  intro hw
  rw [hu]
  exact ⟨fun u h => ⟨w, he, hd hw u h⟩, fun h => absurd h hl⟩

/-- A machine event. -/
theorem of_event {i : Instr} (hu : i.units = []) (he : encode i = none) : Statement i := by
  intro _
  rw [hu]
  exact ⟨fun u h => absurd h (by simp), fun _ => he⟩

theorem add (h : Hdr) (f : RR) : Statement (.add h f) :=
  of_word [.cluster .c] rfl rfl (by simp) (by
    simp [decode, decodeSpace, decodeC, opOf_packHdr, hdrOf_packHdr, rrOf_packHdr])
theorem addi (h : Hdr) (f : RI) : Statement (.addi h f) :=
  of_word [.cluster .c] rfl rfl (by simp) (by
    simp [decode, decodeSpace, decodeC, opOf_packHdr, hdrOf_packHdr, riOf_packHdr])
theorem sub (h : Hdr) (f : RR) : Statement (.sub h f) :=
  of_word [.cluster .c] rfl rfl (by simp) (by
    simp [decode, decodeSpace, decodeC, opOf_packHdr, hdrOf_packHdr, rrOf_packHdr])
theorem mul (h : Hdr) (f : RR) : Statement (.mul h f) :=
  of_word [.cluster .c] rfl rfl (by simp) (by
    simp [decode, decodeSpace, decodeC, opOf_packHdr, hdrOf_packHdr, rrOf_packHdr])
theorem mulh (h : Hdr) (f : RR) : Statement (.mulh h f) :=
  of_word [.cluster .c] rfl rfl (by simp) (by
    simp [decode, decodeSpace, decodeC, opOf_packHdr, hdrOf_packHdr, rrOf_packHdr])
theorem mulhu (h : Hdr) (f : RR) : Statement (.mulhu h f) :=
  of_word [.cluster .c] rfl rfl (by simp) (by
    simp [decode, decodeSpace, decodeC, opOf_packHdr, hdrOf_packHdr, rrOf_packHdr])
theorem mad (h : Hdr) (f : RR) : Statement (.mad h f) :=
  of_word [.cluster .c] rfl rfl (by simp) (by
    simp [decode, decodeSpace, decodeC, opOf_packHdr, hdrOf_packHdr, rrOf_packHdr])
theorem div (h : Hdr) (f : RR) : Statement (.div h f) :=
  of_word [.cluster .c] rfl rfl (by simp) (by
    simp [decode, decodeSpace, decodeC, opOf_packHdr, hdrOf_packHdr, rrOf_packHdr])
theorem divu (h : Hdr) (f : RR) : Statement (.divu h f) :=
  of_word [.cluster .c] rfl rfl (by simp) (by
    simp [decode, decodeSpace, decodeC, opOf_packHdr, hdrOf_packHdr, rrOf_packHdr])
theorem rem (h : Hdr) (f : RR) : Statement (.rem h f) :=
  of_word [.cluster .c] rfl rfl (by simp) (by
    simp [decode, decodeSpace, decodeC, opOf_packHdr, hdrOf_packHdr, rrOf_packHdr])
theorem remu (h : Hdr) (f : RR) : Statement (.remu h f) :=
  of_word [.cluster .c] rfl rfl (by simp) (by
    simp [decode, decodeSpace, decodeC, opOf_packHdr, hdrOf_packHdr, rrOf_packHdr])
theorem and (h : Hdr) (f : RR) : Statement (.and h f) :=
  of_word [.cluster .c] rfl rfl (by simp) (by
    simp [decode, decodeSpace, decodeC, opOf_packHdr, hdrOf_packHdr, rrOf_packHdr])
theorem andi (h : Hdr) (f : RI) : Statement (.andi h f) :=
  of_word [.cluster .c] rfl rfl (by simp) (by
    simp [decode, decodeSpace, decodeC, opOf_packHdr, hdrOf_packHdr, riOf_packHdr])
theorem or (h : Hdr) (f : RR) : Statement (.or h f) :=
  of_word [.cluster .c] rfl rfl (by simp) (by
    simp [decode, decodeSpace, decodeC, opOf_packHdr, hdrOf_packHdr, rrOf_packHdr])
theorem ori (h : Hdr) (f : RI) : Statement (.ori h f) :=
  of_word [.cluster .c] rfl rfl (by simp) (by
    simp [decode, decodeSpace, decodeC, opOf_packHdr, hdrOf_packHdr, riOf_packHdr])
theorem xor (h : Hdr) (f : RR) : Statement (.xor h f) :=
  of_word [.cluster .c] rfl rfl (by simp) (by
    simp [decode, decodeSpace, decodeC, opOf_packHdr, hdrOf_packHdr, rrOf_packHdr])
theorem xori (h : Hdr) (f : RI) : Statement (.xori h f) :=
  of_word [.cluster .c] rfl rfl (by simp) (by
    simp [decode, decodeSpace, decodeC, opOf_packHdr, hdrOf_packHdr, riOf_packHdr])
theorem andn (h : Hdr) (f : RR) : Statement (.andn h f) :=
  of_word [.cluster .c] rfl rfl (by simp) (by
    simp [decode, decodeSpace, decodeC, opOf_packHdr, hdrOf_packHdr, rrOf_packHdr])
theorem shl (h : Hdr) (f : RR) : Statement (.shl h f) :=
  of_word [.cluster .c] rfl rfl (by simp) (by
    simp [decode, decodeSpace, decodeC, opOf_packHdr, hdrOf_packHdr, rrOf_packHdr])
theorem shli (h : Hdr) (f : RI) : Statement (.shli h f) :=
  of_word [.cluster .c] rfl rfl (by simp) (by
    simp [decode, decodeSpace, decodeC, opOf_packHdr, hdrOf_packHdr, riOf_packHdr])
theorem shr (h : Hdr) (f : RR) : Statement (.shr h f) :=
  of_word [.cluster .c] rfl rfl (by simp) (by
    simp [decode, decodeSpace, decodeC, opOf_packHdr, hdrOf_packHdr, rrOf_packHdr])
theorem shri (h : Hdr) (f : RI) : Statement (.shri h f) :=
  of_word [.cluster .c] rfl rfl (by simp) (by
    simp [decode, decodeSpace, decodeC, opOf_packHdr, hdrOf_packHdr, riOf_packHdr])
theorem sar (h : Hdr) (f : RR) : Statement (.sar h f) :=
  of_word [.cluster .c] rfl rfl (by simp) (by
    simp [decode, decodeSpace, decodeC, opOf_packHdr, hdrOf_packHdr, rrOf_packHdr])
theorem sari (h : Hdr) (f : RI) : Statement (.sari h f) :=
  of_word [.cluster .c] rfl rfl (by simp) (by
    simp [decode, decodeSpace, decodeC, opOf_packHdr, hdrOf_packHdr, riOf_packHdr])
theorem rotl (h : Hdr) (f : RR) : Statement (.rotl h f) :=
  of_word [.cluster .c] rfl rfl (by simp) (by
    simp [decode, decodeSpace, decodeC, opOf_packHdr, hdrOf_packHdr, rrOf_packHdr])
theorem min (h : Hdr) (f : RR) : Statement (.min h f) :=
  of_word [.cluster .c] rfl rfl (by simp) (by
    simp [decode, decodeSpace, decodeC, opOf_packHdr, hdrOf_packHdr, rrOf_packHdr])
theorem max (h : Hdr) (f : RR) : Statement (.max h f) :=
  of_word [.cluster .c] rfl rfl (by simp) (by
    simp [decode, decodeSpace, decodeC, opOf_packHdr, hdrOf_packHdr, rrOf_packHdr])
theorem minu (h : Hdr) (f : RR) : Statement (.minu h f) :=
  of_word [.cluster .c] rfl rfl (by simp) (by
    simp [decode, decodeSpace, decodeC, opOf_packHdr, hdrOf_packHdr, rrOf_packHdr])
theorem maxu (h : Hdr) (f : RR) : Statement (.maxu h f) :=
  of_word [.cluster .c] rfl rfl (by simp) (by
    simp [decode, decodeSpace, decodeC, opOf_packHdr, hdrOf_packHdr, rrOf_packHdr])
theorem clz (h : Hdr) (f : RR) : Statement (.clz h f) :=
  of_word [.cluster .c] rfl rfl (by simp) (by
    simp [decode, decodeSpace, decodeC, opOf_packHdr, hdrOf_packHdr, rrOf_packHdr])
theorem popc (h : Hdr) (f : RR) : Statement (.popc h f) :=
  of_word [.cluster .c] rfl rfl (by simp) (by
    simp [decode, decodeSpace, decodeC, opOf_packHdr, hdrOf_packHdr, rrOf_packHdr])
theorem brev (h : Hdr) (f : RR) : Statement (.brev h f) :=
  of_word [.cluster .c] rfl rfl (by simp) (by
    simp [decode, decodeSpace, decodeC, opOf_packHdr, hdrOf_packHdr, rrOf_packHdr])
theorem extr (h : Hdr) (f : RR) : Statement (.extr h f) :=
  of_word [.cluster .c] rfl rfl (by simp) (by
    simp [decode, decodeSpace, decodeC, opOf_packHdr, hdrOf_packHdr, rrOf_packHdr])
theorem insr (h : Hdr) (f : RR) : Statement (.insr h f) :=
  of_word [.cluster .c] rfl rfl (by simp) (by
    simp [decode, decodeSpace, decodeC, opOf_packHdr, hdrOf_packHdr, rrOf_packHdr])
theorem mov (h : Hdr) (f : RR) : Statement (.mov h f) :=
  of_word [.cluster .c] rfl rfl (by simp) (by
    simp [decode, decodeSpace, decodeC, opOf_packHdr, hdrOf_packHdr, rrOf_packHdr])
theorem movi (h : Hdr) (f : RI) : Statement (.movi h f) :=
  of_word [.cluster .c] rfl rfl (by simp) (by
    simp [decode, decodeSpace, decodeC, opOf_packHdr, hdrOf_packHdr, riOf_packHdr])
theorem sel (h : Hdr) (f : RR) : Statement (.sel h f) :=
  of_word [.cluster .c] rfl rfl (by simp) (by
    simp [decode, decodeSpace, decodeC, opOf_packHdr, hdrOf_packHdr, rrOf_packHdr])
theorem cmp (h : Hdr) (f : RR) : Statement (.cmp h f) :=
  of_word [.cluster .c] rfl rfl (by simp) (by
    simp [decode, decodeSpace, decodeC, opOf_packHdr, hdrOf_packHdr, rrOf_packHdr])
theorem cmpi (h : Hdr) (f : RI) : Statement (.cmpi h f) :=
  of_word [.cluster .c] rfl rfl (by simp) (by
    simp [decode, decodeSpace, decodeC, opOf_packHdr, hdrOf_packHdr, riOf_packHdr])
theorem jmp (h : Hdr) (f : RR) : Statement (.jmp h f) :=
  of_word [.cluster .c] rfl rfl (by simp) (by
    simp [decode, decodeSpace, decodeC, opOf_packHdr, hdrOf_packHdr, rrOf_packHdr])
theorem call (h : Hdr) (f : BrF) : Statement (.call h f) :=
  of_word [.cluster .c] rfl rfl (by simp) (by
    simp [decode, decodeSpace, decodeC, opOf_packHdr, hdrOf_packHdr, brOf_packHdr])
theorem ret (h : Hdr) (f : BrF) : Statement (.ret h f) :=
  of_word [.cluster .c] rfl rfl (by simp) (by
    simp [decode, decodeSpace, decodeC, opOf_packHdr, hdrOf_packHdr, brOf_packHdr])
theorem semsig (h : Hdr) (f : RI) : Statement (.semsig h f) :=
  of_word [.cluster .c] rfl rfl (by simp) (by
    simp [decode, decodeSpace, decodeC, opOf_packHdr, hdrOf_packHdr, riOf_packHdr])
theorem semwait (h : Hdr) (f : RI) : Statement (.semwait h f) :=
  of_word [.cluster .c] rfl rfl (by simp) (by
    simp [decode, decodeSpace, decodeC, opOf_packHdr, hdrOf_packHdr, riOf_packHdr])
theorem semtry (h : Hdr) (f : RI) : Statement (.semtry h f) :=
  of_word [.cluster .c] rfl rfl (by simp) (by
    simp [decode, decodeSpace, decodeC, opOf_packHdr, hdrOf_packHdr, riOf_packHdr])
theorem semset (h : Hdr) (f : RI) : Statement (.semset h f) :=
  of_word [.cluster .c] rfl rfl (by simp) (by
    simp [decode, decodeSpace, decodeC, opOf_packHdr, hdrOf_packHdr, riOf_packHdr])
theorem semrd (h : Hdr) (f : RI) : Statement (.semrd h f) :=
  of_word [.cluster .c] rfl rfl (by simp) (by
    simp [decode, decodeSpace, decodeC, opOf_packHdr, hdrOf_packHdr, riOf_packHdr])
theorem barrive (h : Hdr) (f : RI) : Statement (.barrive h f) :=
  of_word [.cluster .c] rfl rfl (by simp) (by
    simp [decode, decodeSpace, decodeC, opOf_packHdr, hdrOf_packHdr, riOf_packHdr])
theorem bexpect (h : Hdr) (f : RI) : Statement (.bexpect h f) :=
  of_word [.cluster .c] rfl rfl (by simp) (by
    simp [decode, decodeSpace, decodeC, opOf_packHdr, hdrOf_packHdr, riOf_packHdr])
theorem bwait (h : Hdr) (f : RI) : Statement (.bwait h f) :=
  of_word [.cluster .c] rfl rfl (by simp) (by
    simp [decode, decodeSpace, decodeC, opOf_packHdr, hdrOf_packHdr, riOf_packHdr])
theorem iter (h : Hdr) (f : RI) : Statement (.iter h f) :=
  of_word [.cluster .c] rfl rfl (by simp) (by
    simp [decode, decodeSpace, decodeC, opOf_packHdr, hdrOf_packHdr, riOf_packHdr])
theorem exit (h : Hdr) (f : RI) : Statement (.exit h f) :=
  of_word [.cluster .c] rfl rfl (by simp) (by
    simp [decode, decodeSpace, decodeC, opOf_packHdr, hdrOf_packHdr, riOf_packHdr])
theorem safept (h : Hdr) (f : RI) : Statement (.safept h f) :=
  of_word [.cluster .c] rfl rfl (by simp) (by
    simp [decode, decodeSpace, decodeC, opOf_packHdr, hdrOf_packHdr, riOf_packHdr])
theorem sevt (h : Hdr) (f : RI) : Statement (.sevt h f) :=
  of_word [.cluster .c] rfl rfl (by simp) (by
    simp [decode, decodeSpace, decodeC, opOf_packHdr, hdrOf_packHdr, riOf_packHdr])
theorem trap (h : Hdr) (f : RI) : Statement (.trap h f) :=
  of_word [.cluster .c] rfl rfl (by simp) (by
    simp [decode, decodeSpace, decodeC, opOf_packHdr, hdrOf_packHdr, riOf_packHdr])
theorem eret (h : Hdr) (f : RR) : Statement (.eret h f) :=
  of_word [.cluster .c] rfl rfl (by simp) (by
    simp [decode, decodeSpace, decodeC, opOf_packHdr, hdrOf_packHdr, rrOf_packHdr])
theorem rdsr (h : Hdr) (f : RI) : Statement (.rdsr h f) :=
  of_word [.cluster .c] rfl rfl (by simp) (by
    simp [decode, decodeSpace, decodeC, opOf_packHdr, hdrOf_packHdr, riOf_packHdr])
theorem wrsr (h : Hdr) (f : RI) : Statement (.wrsr h f) :=
  of_word [.cluster .c] rfl rfl (by simp) (by
    simp [decode, decodeSpace, decodeC, opOf_packHdr, hdrOf_packHdr, riOf_packHdr])
theorem clkdiv (h : Hdr) (f : RI) : Statement (.clkdiv h f) :=
  of_word [.cluster .c] rfl rfl (by simp) (by
    simp [decode, decodeSpace, decodeC, opOf_packHdr, hdrOf_packHdr, riOf_packHdr])
theorem rdcnt (h : Hdr) (f : RR) : Statement (.rdcnt h f) :=
  of_word [.cluster .c] rfl rfl (by simp) (by
    simp [decode, decodeSpace, decodeC, opOf_packHdr, hdrOf_packHdr, rrOf_packHdr])
theorem halt (h : Hdr) (f : RR) : Statement (.halt h f) :=
  of_word [.cluster .c] rfl rfl (by simp) (by
    simp [decode, decodeSpace, decodeC, opOf_packHdr, hdrOf_packHdr, rrOf_packHdr])
theorem br (h : Hdr) (f : BrF) : Statement (.br h f) :=
  of_word [.cluster .c, .cluster .v, .cluster .m, .cluster .e] rfl rfl (by simp) (by
    simp [decode, decodeCommon, opOf_packHdr, hdrOf_packHdr, brOf_packHdr])
theorem loop (h : Hdr) (f : BrF) : Statement (.loop h f) :=
  of_word [.cluster .c, .cluster .v, .cluster .m, .cluster .e] rfl rfl (by simp) (by
    simp [decode, decodeCommon, opOf_packHdr, hdrOf_packHdr, brOf_packHdr])
theorem xput (h : Hdr) (f : RR) : Statement (.xput h f) :=
  of_word [.cluster .c, .cluster .v, .cluster .m, .cluster .e] rfl rfl (by simp) (by
    simp [decode, decodeCommon, opOf_packHdr, hdrOf_packHdr, rrOf_packHdr])
theorem gop (h : Hdr) (f : RR) : Statement (.gop h f) :=
  of_word [.cluster .c, .cluster .v, .cluster .m, .cluster .e] rfl rfl (by simp) (by
    simp [decode, decodeCommon, opOf_packHdr, hdrOf_packHdr, rrOf_packHdr])
theorem nop (h : Hdr) (f : BitVec 52) : Statement (.nop h f) :=
  of_word [.cluster .c, .cluster .v, .cluster .m, .cluster .e] rfl rfl (by simp) (by
    simp [decode, decodeCommon, opOf_packHdr, hdrOf_packHdr, nopOf_packHdr])
theorem vfadd (h : Hdr) (f : RR) : Statement (.vfadd h f) :=
  of_word [.cluster .v] rfl rfl (by simp) (by
    simp [decode, decodeSpace, decodeV, opOf_packHdr, hdrOf_packHdr, rrOf_packHdr])
theorem vfsub (h : Hdr) (f : RR) : Statement (.vfsub h f) :=
  of_word [.cluster .v] rfl rfl (by simp) (by
    simp [decode, decodeSpace, decodeV, opOf_packHdr, hdrOf_packHdr, rrOf_packHdr])
theorem vfmul (h : Hdr) (f : RR) : Statement (.vfmul h f) :=
  of_word [.cluster .v] rfl rfl (by simp) (by
    simp [decode, decodeSpace, decodeV, opOf_packHdr, hdrOf_packHdr, rrOf_packHdr])
theorem vfma (h : Hdr) (f : RR) : Statement (.vfma h f) :=
  of_word [.cluster .v] rfl rfl (by simp) (by
    simp [decode, decodeSpace, decodeV, opOf_packHdr, hdrOf_packHdr, rrOf_packHdr])
theorem vfmin (h : Hdr) (f : RR) : Statement (.vfmin h f) :=
  of_word [.cluster .v] rfl rfl (by simp) (by
    simp [decode, decodeSpace, decodeV, opOf_packHdr, hdrOf_packHdr, rrOf_packHdr])
theorem vfmax (h : Hdr) (f : RR) : Statement (.vfmax h f) :=
  of_word [.cluster .v] rfl rfl (by simp) (by
    simp [decode, decodeSpace, decodeV, opOf_packHdr, hdrOf_packHdr, rrOf_packHdr])
theorem vfcmp (h : Hdr) (f : RR) : Statement (.vfcmp h f) :=
  of_word [.cluster .v] rfl rfl (by simp) (by
    simp [decode, decodeSpace, decodeV, opOf_packHdr, hdrOf_packHdr, rrOf_packHdr])
theorem vfsum (h : Hdr) (f : RR) : Statement (.vfsum h f) :=
  of_word [.cluster .v] rfl rfl (by simp) (by
    simp [decode, decodeSpace, decodeV, opOf_packHdr, hdrOf_packHdr, rrOf_packHdr])
theorem vfrcp (h : Hdr) (f : RR) : Statement (.vfrcp h f) :=
  of_word [.cluster .v] rfl rfl (by simp) (by
    simp [decode, decodeSpace, decodeV, opOf_packHdr, hdrOf_packHdr, rrOf_packHdr])
theorem vfrsq (h : Hdr) (f : RR) : Statement (.vfrsq h f) :=
  of_word [.cluster .v] rfl rfl (by simp) (by
    simp [decode, decodeSpace, decodeV, opOf_packHdr, hdrOf_packHdr, rrOf_packHdr])
theorem vfexp2 (h : Hdr) (f : RR) : Statement (.vfexp2 h f) :=
  of_word [.cluster .v] rfl rfl (by simp) (by
    simp [decode, decodeSpace, decodeV, opOf_packHdr, hdrOf_packHdr, rrOf_packHdr])
theorem vflog2 (h : Hdr) (f : RR) : Statement (.vflog2 h f) :=
  of_word [.cluster .v] rfl rfl (by simp) (by
    simp [decode, decodeSpace, decodeV, opOf_packHdr, hdrOf_packHdr, rrOf_packHdr])
theorem vftanh (h : Hdr) (f : RR) : Statement (.vftanh h f) :=
  of_word [.cluster .v] rfl rfl (by simp) (by
    simp [decode, decodeSpace, decodeV, opOf_packHdr, hdrOf_packHdr, rrOf_packHdr])
theorem vhadd (h : Hdr) (f : RR) : Statement (.vhadd h f) :=
  of_word [.cluster .v] rfl rfl (by simp) (by
    simp [decode, decodeSpace, decodeV, opOf_packHdr, hdrOf_packHdr, rrOf_packHdr])
theorem vhmul (h : Hdr) (f : RR) : Statement (.vhmul h f) :=
  of_word [.cluster .v] rfl rfl (by simp) (by
    simp [decode, decodeSpace, decodeV, opOf_packHdr, hdrOf_packHdr, rrOf_packHdr])
theorem vhfma (h : Hdr) (f : RR) : Statement (.vhfma h f) :=
  of_word [.cluster .v] rfl rfl (by simp) (by
    simp [decode, decodeSpace, decodeV, opOf_packHdr, hdrOf_packHdr, rrOf_packHdr])
theorem vhdot2 (h : Hdr) (f : RR) : Statement (.vhdot2 h f) :=
  of_word [.cluster .v] rfl rfl (by simp) (by
    simp [decode, decodeSpace, decodeV, opOf_packHdr, hdrOf_packHdr, rrOf_packHdr])
theorem vadd (h : Hdr) (f : RR) : Statement (.vadd h f) :=
  of_word [.cluster .v] rfl rfl (by simp) (by
    simp [decode, decodeSpace, decodeV, opOf_packHdr, hdrOf_packHdr, rrOf_packHdr])
theorem vsub (h : Hdr) (f : RR) : Statement (.vsub h f) :=
  of_word [.cluster .v] rfl rfl (by simp) (by
    simp [decode, decodeSpace, decodeV, opOf_packHdr, hdrOf_packHdr, rrOf_packHdr])
theorem vmul (h : Hdr) (f : RR) : Statement (.vmul h f) :=
  of_word [.cluster .v] rfl rfl (by simp) (by
    simp [decode, decodeSpace, decodeV, opOf_packHdr, hdrOf_packHdr, rrOf_packHdr])
theorem vmulh (h : Hdr) (f : RR) : Statement (.vmulh h f) :=
  of_word [.cluster .v] rfl rfl (by simp) (by
    simp [decode, decodeSpace, decodeV, opOf_packHdr, hdrOf_packHdr, rrOf_packHdr])
theorem vmin (h : Hdr) (f : RR) : Statement (.vmin h f) :=
  of_word [.cluster .v] rfl rfl (by simp) (by
    simp [decode, decodeSpace, decodeV, opOf_packHdr, hdrOf_packHdr, rrOf_packHdr])
theorem vmax (h : Hdr) (f : RR) : Statement (.vmax h f) :=
  of_word [.cluster .v] rfl rfl (by simp) (by
    simp [decode, decodeSpace, decodeV, opOf_packHdr, hdrOf_packHdr, rrOf_packHdr])
theorem vand (h : Hdr) (f : RR) : Statement (.vand h f) :=
  of_word [.cluster .v] rfl rfl (by simp) (by
    simp [decode, decodeSpace, decodeV, opOf_packHdr, hdrOf_packHdr, rrOf_packHdr])
theorem vor (h : Hdr) (f : RR) : Statement (.vor h f) :=
  of_word [.cluster .v] rfl rfl (by simp) (by
    simp [decode, decodeSpace, decodeV, opOf_packHdr, hdrOf_packHdr, rrOf_packHdr])
theorem vxor (h : Hdr) (f : RR) : Statement (.vxor h f) :=
  of_word [.cluster .v] rfl rfl (by simp) (by
    simp [decode, decodeSpace, decodeV, opOf_packHdr, hdrOf_packHdr, rrOf_packHdr])
theorem vshl (h : Hdr) (f : RR) : Statement (.vshl h f) :=
  of_word [.cluster .v] rfl rfl (by simp) (by
    simp [decode, decodeSpace, decodeV, opOf_packHdr, hdrOf_packHdr, rrOf_packHdr])
theorem vshr (h : Hdr) (f : RR) : Statement (.vshr h f) :=
  of_word [.cluster .v] rfl rfl (by simp) (by
    simp [decode, decodeSpace, decodeV, opOf_packHdr, hdrOf_packHdr, rrOf_packHdr])
theorem vsar (h : Hdr) (f : RR) : Statement (.vsar h f) :=
  of_word [.cluster .v] rfl rfl (by simp) (by
    simp [decode, decodeSpace, decodeV, opOf_packHdr, hdrOf_packHdr, rrOf_packHdr])
theorem vicmp (h : Hdr) (f : RR) : Statement (.vicmp h f) :=
  of_word [.cluster .v] rfl rfl (by simp) (by
    simp [decode, decodeSpace, decodeV, opOf_packHdr, hdrOf_packHdr, rrOf_packHdr])
theorem vadds (h : Hdr) (f : RR) : Statement (.vadds h f) :=
  of_word [.cluster .v] rfl rfl (by simp) (by
    simp [decode, decodeSpace, decodeV, opOf_packHdr, hdrOf_packHdr, rrOf_packHdr])
theorem vsubs (h : Hdr) (f : RR) : Statement (.vsubs h f) :=
  of_word [.cluster .v] rfl rfl (by simp) (by
    simp [decode, decodeSpace, decodeV, opOf_packHdr, hdrOf_packHdr, rrOf_packHdr])
theorem vired (h : Hdr) (f : RR) : Statement (.vired h f) :=
  of_word [.cluster .v] rfl rfl (by simp) (by
    simp [decode, decodeSpace, decodeV, opOf_packHdr, hdrOf_packHdr, rrOf_packHdr])
theorem vcvt (h : Hdr) (f : RR) : Statement (.vcvt h f) :=
  of_word [.cluster .v] rfl rfl (by simp) (by
    simp [decode, decodeSpace, decodeV, opOf_packHdr, hdrOf_packHdr, rrOf_packHdr])
theorem vquant (h : Hdr) (f : RR) : Statement (.vquant h f) :=
  of_word [.cluster .v] rfl rfl (by simp) (by
    simp [decode, decodeSpace, decodeV, opOf_packHdr, hdrOf_packHdr, rrOf_packHdr])
theorem vdeq (h : Hdr) (f : RR) : Statement (.vdeq h f) :=
  of_word [.cluster .v] rfl rfl (by simp) (by
    simp [decode, decodeSpace, decodeV, opOf_packHdr, hdrOf_packHdr, rrOf_packHdr])
theorem vsgn1 (h : Hdr) (f : RR) : Statement (.vsgn1 h f) :=
  of_word [.cluster .v] rfl rfl (by simp) (by
    simp [decode, decodeSpace, decodeV, opOf_packHdr, hdrOf_packHdr, rrOf_packHdr])
theorem vxsgn1 (h : Hdr) (f : RR) : Statement (.vxsgn1 h f) :=
  of_word [.cluster .v] rfl rfl (by simp) (by
    simp [decode, decodeSpace, decodeV, opOf_packHdr, hdrOf_packHdr, rrOf_packHdr])
theorem vmov (h : Hdr) (f : RR) : Statement (.vmov h f) :=
  of_word [.cluster .v] rfl rfl (by simp) (by
    simp [decode, decodeSpace, decodeV, opOf_packHdr, hdrOf_packHdr, rrOf_packHdr])
theorem vbcast (h : Hdr) (f : RR) : Statement (.vbcast h f) :=
  of_word [.cluster .v] rfl rfl (by simp) (by
    simp [decode, decodeSpace, decodeV, opOf_packHdr, hdrOf_packHdr, rrOf_packHdr])
theorem vsel (h : Hdr) (f : RR) : Statement (.vsel h f) :=
  of_word [.cluster .v] rfl rfl (by simp) (by
    simp [decode, decodeSpace, decodeV, opOf_packHdr, hdrOf_packHdr, rrOf_packHdr])
theorem vperm (h : Hdr) (f : RR) : Statement (.vperm h f) :=
  of_word [.cluster .v] rfl rfl (by simp) (by
    simp [decode, decodeSpace, decodeV, opOf_packHdr, hdrOf_packHdr, rrOf_packHdr])
theorem vrotm (h : Hdr) (f : RR) : Statement (.vrotm h f) :=
  of_word [.cluster .v] rfl rfl (by simp) (by
    simp [decode, decodeSpace, decodeV, opOf_packHdr, hdrOf_packHdr, rrOf_packHdr])
theorem vzip (h : Hdr) (f : RR) : Statement (.vzip h f) :=
  of_word [.cluster .v] rfl rfl (by simp) (by
    simp [decode, decodeSpace, decodeV, opOf_packHdr, hdrOf_packHdr, rrOf_packHdr])
theorem vunzip (h : Hdr) (f : RR) : Statement (.vunzip h f) :=
  of_word [.cluster .v] rfl rfl (by simp) (by
    simp [decode, decodeSpace, decodeV, opOf_packHdr, hdrOf_packHdr, rrOf_packHdr])
theorem viota (h : Hdr) (f : RR) : Statement (.viota h f) :=
  of_word [.cluster .v] rfl rfl (by simp) (by
    simp [decode, decodeSpace, decodeV, opOf_packHdr, hdrOf_packHdr, rrOf_packHdr])
theorem vextl (h : Hdr) (f : RR) : Statement (.vextl h f) :=
  of_word [.cluster .v] rfl rfl (by simp) (by
    simp [decode, decodeSpace, decodeV, opOf_packHdr, hdrOf_packHdr, rrOf_packHdr])
theorem vinsl (h : Hdr) (f : RR) : Statement (.vinsl h f) :=
  of_word [.cluster .v] rfl rfl (by simp) (by
    simp [decode, decodeSpace, decodeV, opOf_packHdr, hdrOf_packHdr, rrOf_packHdr])
theorem kand (h : Hdr) (f : RR) : Statement (.kand h f) :=
  of_word [.cluster .v] rfl rfl (by simp) (by
    simp [decode, decodeSpace, decodeV, opOf_packHdr, hdrOf_packHdr, rrOf_packHdr])
theorem kor (h : Hdr) (f : RR) : Statement (.kor h f) :=
  of_word [.cluster .v] rfl rfl (by simp) (by
    simp [decode, decodeSpace, decodeV, opOf_packHdr, hdrOf_packHdr, rrOf_packHdr])
theorem kxor (h : Hdr) (f : RR) : Statement (.kxor h f) :=
  of_word [.cluster .v] rfl rfl (by simp) (by
    simp [decode, decodeSpace, decodeV, opOf_packHdr, hdrOf_packHdr, rrOf_packHdr])
theorem knot (h : Hdr) (f : RR) : Statement (.knot h f) :=
  of_word [.cluster .v] rfl rfl (by simp) (by
    simp [decode, decodeSpace, decodeV, opOf_packHdr, hdrOf_packHdr, rrOf_packHdr])
theorem kpop (h : Hdr) (f : RR) : Statement (.kpop h f) :=
  of_word [.cluster .v] rfl rfl (by simp) (by
    simp [decode, decodeSpace, decodeV, opOf_packHdr, hdrOf_packHdr, rrOf_packHdr])
theorem ktest (h : Hdr) (f : RR) : Statement (.ktest h f) :=
  of_word [.cluster .v] rfl rfl (by simp) (by
    simp [decode, decodeSpace, decodeV, opOf_packHdr, hdrOf_packHdr, rrOf_packHdr])
theorem vaccrd (h : Hdr) (f : RI) : Statement (.vaccrd h f) :=
  of_word [.cluster .v] rfl rfl (by simp) (by
    simp [decode, decodeSpace, decodeV, opOf_packHdr, hdrOf_packHdr, riOf_packHdr])
theorem vaccwr (h : Hdr) (f : RI) : Statement (.vaccwr h f) :=
  of_word [.cluster .v] rfl rfl (by simp) (by
    simp [decode, decodeSpace, decodeV, opOf_packHdr, hdrOf_packHdr, riOf_packHdr])
theorem aadd (h : Hdr) (f : RR) : Statement (.aadd h f) :=
  of_word [.cluster .m] rfl rfl (by simp) (by
    simp [decode, decodeSpace, decodeM, opOf_packHdr, hdrOf_packHdr, rrOf_packHdr])
theorem aaddi (h : Hdr) (f : RI) : Statement (.aaddi h f) :=
  of_word [.cluster .m] rfl rfl (by simp) (by
    simp [decode, decodeSpace, decodeM, opOf_packHdr, hdrOf_packHdr, riOf_packHdr])
theorem asub (h : Hdr) (f : RR) : Statement (.asub h f) :=
  of_word [.cluster .m] rfl rfl (by simp) (by
    simp [decode, decodeSpace, decodeM, opOf_packHdr, hdrOf_packHdr, rrOf_packHdr])
theorem aadd64 (h : Hdr) (f : RR) : Statement (.aadd64 h f) :=
  of_word [.cluster .m] rfl rfl (by simp) (by
    simp [decode, decodeSpace, decodeM, opOf_packHdr, hdrOf_packHdr, rrOf_packHdr])
theorem aaddi64 (h : Hdr) (f : RI) : Statement (.aaddi64 h f) :=
  of_word [.cluster .m] rfl rfl (by simp) (by
    simp [decode, decodeSpace, decodeM, opOf_packHdr, hdrOf_packHdr, riOf_packHdr])
theorem amov (h : Hdr) (f : RR) : Statement (.amov h f) :=
  of_word [.cluster .m] rfl rfl (by simp) (by
    simp [decode, decodeSpace, decodeM, opOf_packHdr, hdrOf_packHdr, rrOf_packHdr])
theorem amovi (h : Hdr) (f : RI) : Statement (.amovi h f) :=
  of_word [.cluster .m] rfl rfl (by simp) (by
    simp [decode, decodeSpace, decodeM, opOf_packHdr, hdrOf_packHdr, riOf_packHdr])
theorem ashli (h : Hdr) (f : RI) : Statement (.ashli h f) :=
  of_word [.cluster .m] rfl rfl (by simp) (by
    simp [decode, decodeSpace, decodeM, opOf_packHdr, hdrOf_packHdr, riOf_packHdr])
theorem aand (h : Hdr) (f : RR) : Statement (.aand h f) :=
  of_word [.cluster .m] rfl rfl (by simp) (by
    simp [decode, decodeSpace, decodeM, opOf_packHdr, hdrOf_packHdr, rrOf_packHdr])
theorem acmp (h : Hdr) (f : RR) : Statement (.acmp h f) :=
  of_word [.cluster .m] rfl rfl (by simp) (by
    simp [decode, decodeSpace, decodeM, opOf_packHdr, hdrOf_packHdr, rrOf_packHdr])
theorem vld (h : Hdr) (f : MemF) : Statement (.vld h f) :=
  of_word [.cluster .m] rfl rfl (by simp) (by
    simp [decode, decodeSpace, decodeM, opOf_packHdr, hdrOf_packHdr, memOf_packHdr])
theorem vst (h : Hdr) (f : MemF) : Statement (.vst h f) :=
  of_word [.cluster .m] rfl rfl (by simp) (by
    simp [decode, decodeSpace, decodeM, opOf_packHdr, hdrOf_packHdr, memOf_packHdr])
theorem sld (h : Hdr) (f : MemF) : Statement (.sld h f) :=
  of_word [.cluster .m] rfl rfl (by simp) (by
    simp [decode, decodeSpace, decodeM, opOf_packHdr, hdrOf_packHdr, memOf_packHdr])
theorem sst (h : Hdr) (f : MemF) : Statement (.sst h f) :=
  of_word [.cluster .m] rfl rfl (by simp) (by
    simp [decode, decodeSpace, decodeM, opOf_packHdr, hdrOf_packHdr, memOf_packHdr])
theorem vstm (h : Hdr) (f : MemF) : Statement (.vstm h f) :=
  of_word [.cluster .m] rfl rfl (by simp) (by
    simp [decode, decodeSpace, decodeM, opOf_packHdr, hdrOf_packHdr, memOf_packHdr])
theorem amoadd (h : Hdr) (f : MemF) : Statement (.amoadd h f) :=
  of_word [.cluster .m] rfl rfl (by simp) (by
    simp [decode, decodeSpace, decodeM, opOf_packHdr, hdrOf_packHdr, memOf_packHdr])
theorem amomin (h : Hdr) (f : MemF) : Statement (.amomin h f) :=
  of_word [.cluster .m] rfl rfl (by simp) (by
    simp [decode, decodeSpace, decodeM, opOf_packHdr, hdrOf_packHdr, memOf_packHdr])
theorem amomax (h : Hdr) (f : MemF) : Statement (.amomax h f) :=
  of_word [.cluster .m] rfl rfl (by simp) (by
    simp [decode, decodeSpace, decodeM, opOf_packHdr, hdrOf_packHdr, memOf_packHdr])
theorem amoand (h : Hdr) (f : MemF) : Statement (.amoand h f) :=
  of_word [.cluster .m] rfl rfl (by simp) (by
    simp [decode, decodeSpace, decodeM, opOf_packHdr, hdrOf_packHdr, memOf_packHdr])
theorem amoor (h : Hdr) (f : MemF) : Statement (.amoor h f) :=
  of_word [.cluster .m] rfl rfl (by simp) (by
    simp [decode, decodeSpace, decodeM, opOf_packHdr, hdrOf_packHdr, memOf_packHdr])
theorem amoxor (h : Hdr) (f : MemF) : Statement (.amoxor h f) :=
  of_word [.cluster .m] rfl rfl (by simp) (by
    simp [decode, decodeSpace, decodeM, opOf_packHdr, hdrOf_packHdr, memOf_packHdr])
theorem amoswp (h : Hdr) (f : MemF) : Statement (.amoswp h f) :=
  of_word [.cluster .m] rfl rfl (by simp) (by
    simp [decode, decodeSpace, decodeM, opOf_packHdr, hdrOf_packHdr, memOf_packHdr])
theorem amocas (h : Hdr) (f : MemF) : Statement (.amocas h f) :=
  of_word [.cluster .m] rfl rfl (by simp) (by
    simp [decode, decodeSpace, decodeM, opOf_packHdr, hdrOf_packHdr, memOf_packHdr])
theorem amofadd (h : Hdr) (f : MemF) : Statement (.amofadd h f) :=
  of_word [.cluster .m] rfl rfl (by simp) (by
    simp [decode, decodeSpace, decodeM, opOf_packHdr, hdrOf_packHdr, memOf_packHdr])
theorem fence (h : Hdr) (f : MemF) : Statement (.fence h f) :=
  of_word [.cluster .m] rfl rfl (by simp) (by
    simp [decode, decodeSpace, decodeM, opOf_packHdr, hdrOf_packHdr, memOf_packHdr])
theorem xfence (h : Hdr) (f : MemF) : Statement (.xfence h f) :=
  of_word [.cluster .m] rfl rfl (by simp) (by
    simp [decode, decodeSpace, decodeM, opOf_packHdr, hdrOf_packHdr, memOf_packHdr])
theorem wmwait (h : Hdr) (f : MemF) : Statement (.wmwait h f) :=
  of_word [.cluster .m] rfl rfl (by simp) (by
    simp [decode, decodeSpace, decodeM, opOf_packHdr, hdrOf_packHdr, memOf_packHdr])
theorem winset (h : Hdr) (f : MemF) : Statement (.winset h f) :=
  of_word [.cluster .m] rfl rfl (by simp) (by
    simp [decode, decodeSpace, decodeM, opOf_packHdr, hdrOf_packHdr, memOf_packHdr])
theorem winrd (h : Hdr) (f : MemF) : Statement (.winrd h f) :=
  of_word [.cluster .m] rfl rfl (by simp) (by
    simp [decode, decodeSpace, decodeM, opOf_packHdr, hdrOf_packHdr, memOf_packHdr])
theorem rgnset (h : Hdr) (f : RR) : Statement (.rgnset h f) :=
  of_word [.cluster .m] rfl rfl (by simp) (by
    simp [decode, decodeSpace, decodeM, opOf_packHdr, hdrOf_packHdr, rrOf_packHdr])
theorem eadd (h : Hdr) (f : RR) : Statement (.eadd h f) :=
  of_word [.cluster .e] rfl rfl (by simp) (by
    simp [decode, decodeSpace, decodeE, opOf_packHdr, hdrOf_packHdr, rrOf_packHdr])
theorem eaddi (h : Hdr) (f : RI) : Statement (.eaddi h f) :=
  of_word [.cluster .e] rfl rfl (by simp) (by
    simp [decode, decodeSpace, decodeE, opOf_packHdr, hdrOf_packHdr, riOf_packHdr])
theorem emov (h : Hdr) (f : RR) : Statement (.emov h f) :=
  of_word [.cluster .e] rfl rfl (by simp) (by
    simp [decode, decodeSpace, decodeE, opOf_packHdr, hdrOf_packHdr, rrOf_packHdr])
theorem emovi (h : Hdr) (f : RI) : Statement (.emovi h f) :=
  of_word [.cluster .e] rfl rfl (by simp) (by
    simp [decode, decodeSpace, decodeE, opOf_packHdr, hdrOf_packHdr, riOf_packHdr])
theorem ecmp (h : Hdr) (f : RR) : Statement (.ecmp h f) :=
  of_word [.cluster .e] rfl rfl (by simp) (by
    simp [decode, decodeSpace, decodeE, opOf_packHdr, hdrOf_packHdr, rrOf_packHdr])
theorem shset (h : Hdr) (f : RR) : Statement (.shset h f) :=
  of_word [.cluster .e] rfl rfl (by simp) (by
    simp [decode, decodeSpace, decodeE, opOf_packHdr, hdrOf_packHdr, rrOf_packHdr])
theorem shmod (h : Hdr) (f : RR) : Statement (.shmod h f) :=
  of_word [.cluster .e] rfl rfl (by simp) (by
    simp [decode, decodeSpace, decodeE, opOf_packHdr, hdrOf_packHdr, rrOf_packHdr])
theorem shinv (h : Hdr) (f : RR) : Statement (.shinv h f) :=
  of_word [.cluster .e] rfl rfl (by simp) (by
    simp [decode, decodeSpace, decodeE, opOf_packHdr, hdrOf_packHdr, rrOf_packHdr])
theorem mplant (h : Hdr) (f : EngF) : Statement (.mplant h f) :=
  of_word [.cluster .e] rfl rfl (by simp) (by
    simp [decode, decodeSpace, decodeE, opOf_packHdr, hdrOf_packHdr, engOf_packHdr])
theorem mma (h : Hdr) (f : EngF) : Statement (.mma h f) :=
  of_word [.cluster .e] rfl rfl (by simp) (by
    simp [decode, decodeSpace, decodeE, opOf_packHdr, hdrOf_packHdr, engOf_packHdr])
theorem mdrain (h : Hdr) (f : EngF) : Statement (.mdrain h f) :=
  of_word [.cluster .e] rfl rfl (by simp) (by
    intro h; simp [Instr.wf, -BitVec.getLsbD_eq_getElem] at h
    simp [-BitVec.getLsbD_eq_getElem, decode, decodeSpace, decodeE, opOf_packHdr, hdrOf_packHdr, engOf_packHdr, md12_packHdr, h])
theorem mdrainSend (h : Hdr) (f : EngF) : Statement (.mdrainSend h f) :=
  of_word [.cluster .e] rfl rfl (by simp) (by
    intro h; simp [Instr.wf, -BitVec.getLsbD_eq_getElem] at h
    simp [-BitVec.getLsbD_eq_getElem, decode, decodeSpace, decodeE, opOf_packHdr, hdrOf_packHdr, engOf_packHdr, md12_packHdr, h])
theorem mzero (h : Hdr) (f : EngF) : Statement (.mzero h f) :=
  of_word [.cluster .e] rfl rfl (by simp) (by
    simp [decode, decodeSpace, decodeE, opOf_packHdr, hdrOf_packHdr, engOf_packHdr])
theorem msave (h : Hdr) (f : EngF) : Statement (.msave h f) :=
  of_word [.cluster .e] rfl rfl (by simp) (by
    simp [decode, decodeSpace, decodeE, opOf_packHdr, hdrOf_packHdr, engOf_packHdr])
theorem mrest (h : Hdr) (f : EngF) : Statement (.mrest h f) :=
  of_word [.cluster .e] rfl rfl (by simp) (by
    simp [decode, decodeSpace, decodeE, opOf_packHdr, hdrOf_packHdr, engOf_packHdr])
theorem mbatt (h : Hdr) (f : EngF) : Statement (.mbatt h f) :=
  of_word [.cluster .e] rfl rfl (by simp) (by
    simp [decode, decodeSpace, decodeE, opOf_packHdr, hdrOf_packHdr, engOf_packHdr])
theorem cpy (h : Hdr) (f : EngF) : Statement (.cpy h f) :=
  of_word [.cluster .e] rfl rfl (by simp) (by
    simp [decode, decodeSpace, decodeE, opOf_packHdr, hdrOf_packHdr, engOf_packHdr])
theorem cpyd (h : Hdr) (f : EngF) : Statement (.cpyd h f) :=
  of_word [.cluster .e] rfl rfl (by simp) (by
    simp [decode, decodeSpace, decodeE, opOf_packHdr, hdrOf_packHdr, engOf_packHdr])
theorem cpyr (h : Hdr) (f : EngF) : Statement (.cpyr h f) :=
  of_word [.cluster .e] rfl rfl (by simp) (by
    simp [decode, decodeSpace, decodeE, opOf_packHdr, hdrOf_packHdr, engOf_packHdr])
theorem cpym (h : Hdr) (f : EngF) : Statement (.cpym h f) :=
  of_word [.cluster .e] rfl rfl (by simp) (by
    simp [decode, decodeSpace, decodeE, opOf_packHdr, hdrOf_packHdr, engOf_packHdr])
theorem wmset (h : Hdr) (f : EngF) : Statement (.wmset h f) :=
  of_word [.cluster .e] rfl rfl (by simp) (by
    simp [decode, decodeSpace, decodeE, opOf_packHdr, hdrOf_packHdr, engOf_packHdr])
theorem cwait (h : Hdr) (f : RR) : Statement (.cwait h f) :=
  of_word [.cluster .e] rfl rfl (by simp) (by
    simp [decode, decodeSpace, decodeE, opOf_packHdr, hdrOf_packHdr, rrOf_packHdr])
theorem cstat (h : Hdr) (f : RR) : Statement (.cstat h f) :=
  of_word [.cluster .e] rfl rfl (by simp) (by
    simp [decode, decodeSpace, decodeE, opOf_packHdr, hdrOf_packHdr, rrOf_packHdr])
theorem send (h : Hdr) (f : EngF) : Statement (.send h f) :=
  of_word [.cluster .e] rfl rfl (by simp) (by
    simp [decode, decodeSpace, decodeE, opOf_packHdr, hdrOf_packHdr, engOf_packHdr])
theorem ctset (h : Hdr) (f : RR) : Statement (.ctset h f) :=
  of_word [.cluster .e] rfl rfl (by simp) (by
    simp [decode, decodeSpace, decodeE, opOf_packHdr, hdrOf_packHdr, rrOf_packHdr])
theorem ctready (h : Hdr) (f : EngF) : Statement (.ctready h f) :=
  of_word [.cluster .e] rfl rfl (by simp) (by
    simp [decode, decodeSpace, decodeE, opOf_packHdr, hdrOf_packHdr, engOf_packHdr])
theorem grpset (h : Hdr) (f : RR) : Statement (.grpset h f) :=
  of_word [.cluster .e] rfl rfl (by simp) (by
    simp [decode, decodeSpace, decodeE, opOf_packHdr, hdrOf_packHdr, rrOf_packHdr])
theorem gfree (h : Hdr) (f : RR) : Statement (.gfree h f) :=
  of_word [.cluster .e] rfl rfl (by simp) (by
    simp [decode, decodeSpace, decodeE, opOf_packHdr, hdrOf_packHdr, rrOf_packHdr])
theorem pace (h : Hdr) (f : RI) : Statement (.pace h f) :=
  of_word [.cluster .e] rfl rfl (by simp) (by
    simp [decode, decodeSpace, decodeE, opOf_packHdr, hdrOf_packHdr, riOf_packHdr])
theorem nops (r : RigW) : Statement (.nops r) :=
  of_word [.rig] rfl rfl (by simp) (by
    simp [decode, decodeSop, rigOf_packRig, sop_packRig])
theorem rig (r : RigW) : Statement (.rig r) :=
  of_word [.rig] rfl rfl (by simp) (by
    simp [decode, decodeSop, rigOf_packRig, sop_packRig])
theorem rigm (r : RigW) : Statement (.rigm r) :=
  of_word [.rig] rfl rfl (by simp) (by
    simp [decode, decodeSop, rigOf_packRig, sop_packRig])
theorem derig (r : RigW) : Statement (.derig r) :=
  of_word [.rig] rfl rfl (by simp) (by
    simp [decode, decodeSop, rigOf_packRig, sop_packRig])
theorem hold (r : RigW) : Statement (.hold r) :=
  of_word [.rig] rfl rfl (by simp) (by
    simp [decode, decodeSop, rigOf_packRig, sop_packRig])
theorem waitev (r : RigW) : Statement (.waitev r) :=
  of_word [.rig] rfl rfl (by simp) (by
    simp [decode, decodeSop, rigOf_packRig, sop_packRig])
theorem sigev (r : RigW) : Statement (.sigev r) :=
  of_word [.rig] rfl rfl (by simp) (by
    simp [decode, decodeSop, rigOf_packRig, sop_packRig])
theorem jmps (r : RigW) : Statement (.jmps r) :=
  of_word [.rig] rfl rfl (by simp) (by
    simp [decode, decodeSop, rigOf_packRig, sop_packRig])
theorem loops (r : RigW) : Statement (.loops r) :=
  of_word [.rig] rfl rfl (by simp) (by
    simp [decode, decodeSop, rigOf_packRig, sop_packRig])
theorem xportDrain (r : RigW) : Statement (.xportDrain r) :=
  of_word [.rig] rfl rfl (by simp) (by
    intro h; simp [Instr.wf] at h; simp [decode, decodeSop, rigOf_packRig, sop_packRig, cmd_packRig, h])
theorem xportDark (r : RigW) : Statement (.xportDark r) :=
  of_word [.rig] rfl rfl (by simp) (by
    intro h; simp [Instr.wf] at h; simp [decode, decodeSop, rigOf_packRig, sop_packRig, cmd_packRig, h])
theorem xportProbe (r : RigW) : Statement (.xportProbe r) :=
  of_word [.rig] rfl rfl (by simp) (by
    intro h; simp [Instr.wf] at h; simp [decode, decodeSop, rigOf_packRig, sop_packRig, cmd_packRig, h])
theorem xportOpen (r : RigW) : Statement (.xportOpen r) :=
  of_word [.rig] rfl rfl (by simp) (by
    intro h; simp [Instr.wf] at h; simp [decode, decodeSop, rigOf_packRig, sop_packRig, cmd_packRig, h])
theorem rtsw (r : RigW) : Statement (.rtsw r) :=
  of_word [.rig] rfl rfl (by simp) (by
    simp [decode, decodeSop, rigOf_packRig, sop_packRig])
theorem ends (r : RigW) : Statement (.ends r) :=
  of_word [.rig] rfl rfl (by simp) (by
    simp [decode, decodeSop, rigOf_packRig, sop_packRig])
theorem rigRetry : Statement (.rigRetry) := of_event rfl rfl
theorem settlingEnd : Statement (.settlingEnd) := of_event rfl rfl
theorem pathBlocked : Statement (.pathBlocked) := of_event rfl rfl
theorem pathRelease : Statement (.pathRelease) := of_event rfl rfl
theorem derigComplete : Statement (.derigComplete) := of_event rfl rfl
theorem drainComplete : Statement (.drainComplete) := of_event rfl rfl
theorem probeComplete (loss : BitVec 16) : Statement (.probeComplete loss) := of_event rfl rfl
theorem probeTimeout : Statement (.probeTimeout) := of_event rfl rfl
theorem messageSend : Statement (.messageSend) := of_event rfl rfl
theorem row (src : Source) (m : Msg) : Statement (.row src m) := of_event rfl rfl
theorem shortStore (src : Source) (m : Msg) : Statement (.shortStore src m) := of_event rfl rfl
theorem shortAtomic (src : Source) (m : Msg) : Statement (.shortAtomic src m) := of_event rfl rfl
theorem shortLoad (src : Source) (m : Msg) : Statement (.shortLoad src m) := of_event rfl rfl
theorem reply (src : Source) (m : Msg) : Statement (.reply src m) := of_event rfl rfl
theorem chunk (src : Source) (m : Msg) : Statement (.chunk src m) := of_event rfl rfl
theorem reductionContribution (src : Source) (m : Msg) : Statement (.reductionContribution src m) := of_event rfl rfl
theorem chunkApply : Statement (.chunkApply) := of_event rfl rfl
theorem multicastArrival (src : Source) (m : Msg) : Statement (.multicastArrival src m) := of_event rfl rfl
theorem statusFlit (leaf : CoreId) (ack : Word) (allowc : Word) : Statement (.statusFlit leaf ack allowc) := of_event rfl rfl
theorem negativeResponse (leaf : CoreId) (ack : Word) (allowc : Word) (nseq : Word) (code : BitVec 16)
    : Statement (.negativeResponse leaf ack allowc nseq code) := of_event rfl rfl
theorem commit (src : Source) (sq : Word) : Statement (.commit src sq) := of_event rfl rfl
theorem keepalive (leaf : CoreId) (rcv : Word) (allowc : Word) (perf : Word)
    : Statement (.keepalive leaf rcv allowc perf) := of_event rfl rfl
theorem controlSlot (src : Source) : Statement (.controlSlot src) := of_event rfl rfl
theorem keepaliveSend (src : Source) : Statement (.keepaliveSend src) := of_event rfl rfl
theorem leafSlot (src : Source) : Statement (.leafSlot src) := of_event rfl rfl
theorem resendTimeout : Statement (.resendTimeout) := of_event rfl rfl
theorem allowanceAudit : Statement (.allowanceAudit) := of_event rfl rfl
theorem lampFail : Statement (.lampFail) := of_event rfl rfl
theorem lampRelight : Statement (.lampRelight) := of_event rfl rfl
theorem ringDetune (line : LampId) (rx : Bool) : Statement (.ringDetune line rx) := of_event rfl rfl
theorem stripingChange (line : LampId) (rx : Bool) : Statement (.stripingChange line rx) := of_event rfl rfl
theorem controlRingDetune (rx : Bool) : Statement (.controlRingDetune rx) := of_event rfl rfl
theorem mziFail (stage : StageId) (el : Nat) : Statement (.mziFail stage el) := of_event rfl rfl
theorem reroute : Statement (.reroute) := of_event rfl rfl
theorem extPortLoss : Statement (.extPortLoss) := of_event rfl rfl
theorem peerAbsentTimeout : Statement (.peerAbsentTimeout) := of_event rfl rfl
theorem semaphoreFileCycle : Statement (.semaphoreFileCycle) := of_event rfl rfl
theorem walkerCycle : Statement (.walkerCycle) := of_event rfl rfl
theorem limiterStep : Statement (.limiterStep) := of_event rfl rfl
theorem governorSample (imb : List Int) : Statement (.governorSample imb) := of_event rfl rfl
theorem matrixDivisorChange : Statement (.matrixDivisorChange) := of_event rfl rfl
theorem matrixJobOffer : Statement (.matrixJobOffer) := of_event rfl rfl
theorem matrixJobStart : Statement (.matrixJobStart) := of_event rfl rfl
theorem matrixJobComplete : Statement (.matrixJobComplete) := of_event rfl rfl
theorem channelJobStart : Statement (.channelJobStart) := of_event rfl rfl
theorem copyChunk : Statement (.copyChunk) := of_event rfl rfl
theorem carderBlock : Statement (.carderBlock) := of_event rfl rfl
theorem copyJobComplete : Statement (.copyJobComplete) := of_event rfl rfl
theorem sendJobStart : Statement (.sendJobStart) := of_event rfl rfl
theorem firingComplete : Statement (.firingComplete) := of_event rfl rfl
theorem watermarkStallEnd : Statement (.watermarkStallEnd) := of_event rfl rfl
theorem faultDelivery (r : FaultRec) : Statement (.faultDelivery r) := of_event rfl rfl
theorem hubRecovery : Statement (.hubRecovery) := of_event rfl rfl
theorem clusterDeadlock : Statement (.clusterDeadlock) := of_event rfl rfl
theorem watchdog : Statement (.watchdog) := of_event rfl rfl
theorem taskDoorbell (v : DWord) : Statement (.taskDoorbell v) := of_event rfl rfl
theorem dispatcherScan : Statement (.dispatcherScan) := of_event rfl rfl
theorem leaseGrant (pl : List Placement) : Statement (.leaseGrant pl) := of_event rfl rfl
theorem launch : Statement (.launch) := of_event rfl rfl
theorem preemptionRequest : Statement (.preemptionRequest) := of_event rfl rfl
theorem coreStop : Statement (.coreStop) := of_event rfl rfl
theorem engineFreeze : Statement (.engineFreeze) := of_event rfl rfl
theorem rigProgramStop : Statement (.rigProgramStop) := of_event rfl rfl
theorem preemptionComplete : Statement (.preemptionComplete) := of_event rfl rfl
theorem resume : Statement (.resume) := of_event rfl rfl
theorem tilePartEnd : Statement (.tilePartEnd) := of_event rfl rfl
theorem taskEnd : Statement (.taskEnd) := of_event rfl rfl
theorem coreGate : Statement (.coreGate) := of_event rfl rfl
theorem wakeRequest : Statement (.wakeRequest) := of_event rfl rfl
theorem inrushGrant : Statement (.inrushGrant) := of_event rfl rfl
theorem coreWake : Statement (.coreWake) := of_event rfl rfl
theorem coreFailed (pc : CoreId) : Statement (.coreFailed pc) := of_event rfl rfl
theorem tileBypass (cause : Fin 3) : Statement (.tileBypass cause) := of_event rfl rfl
theorem softCorrected (mpa : Mpa) (store : BitVec 4) : Statement (.softCorrected mpa store) := of_event rfl rfl
theorem hubFailure : Statement (.hubFailure) := of_event rfl rfl
theorem powerUp : Statement (.powerUp) := of_event rfl rfl
theorem fundamentalReset : Statement (.fundamentalReset) := of_event rfl rfl
theorem functionLevelReset : Statement (.functionLevelReset) := of_event rfl rfl
theorem linkDown : Statement (.linkDown) := of_event rfl rfl
theorem linkRetrain (width : BitVec 5) (rate : BitVec 8) : Statement (.linkRetrain width rate) := of_event rfl rfl
theorem msixUnmask (vec : VectorId) : Statement (.msixUnmask vec) := of_event rfl rfl
theorem bar2Read (off : BitVec 36) : Statement (.bar2Read off) := of_event rfl rfl
theorem bar2Write (off : BitVec 36) (x : Word) : Statement (.bar2Write off x) := of_event rfl rfl
theorem mapslot : Statement (.mapslot) := of_event rfl rfl
theorem unmapslot : Statement (.unmapslot) := of_event rfl rfl
theorem xlate : Statement (.xlate) := of_event rfl rfl
theorem hostmap : Statement (.hostmap) := of_event rfl rfl
theorem hostunmap : Statement (.hostunmap) := of_event rfl rfl
theorem attestationRequest : Statement (.attestationRequest) := of_event rfl rfl
theorem attestationComplete : Statement (.attestationComplete) := of_event rfl rfl
theorem mgmtXportDrain : Statement (.mgmtXportDrain) := of_event rfl rfl
theorem mgmtXportDark : Statement (.mgmtXportDark) := of_event rfl rfl
theorem mgmtXportProbe : Statement (.mgmtXportProbe) := of_event rfl rfl
theorem mgmtXportOpen : Statement (.mgmtXportOpen) := of_event rfl rfl
theorem checkpoint : Statement (.checkpoint) := of_event rfl rfl
theorem checkpointComplete : Statement (.checkpointComplete) := of_event rfl rfl
theorem restore : Statement (.restore) := of_event rfl rfl
theorem restoreComplete : Statement (.restoreComplete) := of_event rfl rfl
theorem abort : Statement (.abort) := of_event rfl rfl
theorem setmodid : Statement (.setmodid) := of_event rfl rfl
theorem registerWrite (off : BitVec 24) (x : Word) : Statement (.registerWrite off x) := of_event rfl rfl
theorem memoryPortApply : Statement (.memoryPortApply) := of_event rfl rfl
theorem configurationRequest : Statement (.configurationRequest) := of_event rfl rfl

end Sys2Proof.Laws.RoundTrip
end

