-- ==== Sys2Proof/Safety.lean ====
section
/-!
DEFINITION. The terms in which statements speak of the machine: the invariant of memory, when a word issues, what it
reads, and how its outcome stands.
-/
namespace Sys2Proof

/-- Memory is in canonical form: addresses strictly rising, no listed default byte. -/
def Safe (s : Machine.State) : Prop := Machine.Memory.wf s.mem = true

namespace Claims
open Machine

/-- The state in which a word of cluster cl of the issuing core issues: its cluster acts, and its latches are invalid
where it changes between split and joined execution (R73, R74). -/
def atWord (cl : Cluster) (s : State) : State := enterMode { s with cur := { s.cur with cl := cl } }

/-- The M cluster may issue: no earlier store of the core waits for ALLOW (R107). -/
def MFree (s : State) : Prop := heldByAllow (atWord .m s) s.cur.tile s.cur.core = false

/-- A word of cluster cl with header h issues now: no earlier word of the cluster waits, it has met its rendezvous if
it asks for one, its guard holds, and no store that waits for ALLOW holds the M cluster (R73, R107, R235). -/
def Issues (cl : Cluster) (h : Hdr) (s : State) : Prop :=
  (s.cc.clu cl).req = none ∧ (h.sync = true → s.cur.bundle = true ∨ (s.cc.clu cl).noSync = true) ∧
    (s.cc.clu cl).guard h.gd.toNat ≠ h.gn ∧ (cl = .m → MFree s)

/-- A word of cluster cl that issued before goes on: it waits for r. -/
def Waits (cl : Cluster) (r : Req) (s : State) : Prop := (s.cc.clu cl).req = some r

/-- The sources of a C, M or E word can be read: no code reserved, no latch invalid, nothing still to be delivered,
every xq entry there, nothing uncorrectable (R236, R237, R260, R318, R443, R477). -/
def Readable (cl : Cluster) (cs : List (BitVec 7)) (s : State) : Prop :=
  cs.all (srcOk cl) = true ∧ badLatch s.ccl.lat.length cs = none ∧ cs.any (s.srcOwed cl) = false ∧
    s.ccl.xqReady s.now (xqPops cs) = true ∧ s.badSrc cl cs = none

/-- The registers ks of cluster cl can be read: delivered, and none uncorrectable (R260, R318, R443). -/
def RegsReadable (cl : Cluster) (ks : List Nat) (s : State) : Prop := s.owed cl ks = false ∧ s.badReg cl ks = none

/-- No entry of sq that a word claims now was found uncorrectable (R441, R443). -/
def SqGood (s : State) : Prop := s.cc.sq = [] ∨ placeBad s.cc.badSq 1 = false

/-- The sources of a V word can be read, and the masks ks (R236, R237, R289, R443, R477). -/
def VReadable (ks : List Nat) (cs : List (Pos × BitVec 7)) (s : State) : Prop :=
  (cs.map Prod.snd).all vsrcOk = true ∧ badLatch s.cc.vlat.length (cs.map Prod.snd) = none ∧
    (cs.map Prod.snd).any (s.srcOwed .v) = false ∧ s.owed .v (ks.map fun k => 128 + k) = false ∧
    lqReady s.cc s.now (lqPops (cs.map Prod.snd)) = true ∧
    s.ccl.xqReady s.now (xqPops (cs.map Prod.snd)) = true ∧ s.badReg .v (ks.map fun k => 128 + k) = none ∧
    s.badSrc .v (cs.map Prod.snd) = none

/-- What exec answers for a word that completes with the effect u: the cluster goes on (R245). -/
def Completes (i : Instr) (cl : Cluster) (s u : State) : Prop :=
  exec i s = .next (settle (atWord cl s) (.done u))

/-- What exec answers for a word that has issued and now waits in u. -/
def IssuesInto (i : Instr) (cl : Cluster) (s u : State) : Prop :=
  exec i s = .next (settle (atWord cl s) (.wait u))

/-- The state in which a word of cluster cl that waits goes on. -/
def onWord (cl : Cluster) (s : State) : State := { s with cur := { s.cur with cl := cl } }

/-- A word of cluster cl that waits has its answer, which is no fault (R69, R272, R318). -/
def Answered (cl : Cluster) (a : Ans) (s : State) : Prop :=
  (s.cc.clu cl).req.isSome = true ∧ (s.cc.clu cl).ans = some a ∧ a.due ≤ s.now ∧ a.fault = none

/-- What exec answers for a word that has waited and now completes with the effect u. -/
def Resumes (i : Instr) (cl : Cluster) (s u : State) : Prop := exec i s = .next (settle (onWord cl s) (.done u))

/-- A V word of pace p may start: its group's start interval is over (R289). -/
def PaceFree (p : Pace) (s : State) : Prop := p.every ≤ 1 ∨ s.owed .v [256 + p.group] = false

/-- The state in which a V word of pace p has started. -/
def pacedState (p : Pace) (s : State) : State :=
  if p.every ≤ 1 then s
  else s.modCc fun x => x.modClu .v fun y =>
    { y with busy := y.busy.set (256 + p.group) (ecAfter s.now s.cc.cdiv p.every) }

/-- The operands of an RR word that its table row reads: none; A; A and B; or A, B and C (R233). -/
def rrOps (n : Nat) (f : RR) : List (BitVec 7) := [f.a, f.b, f.c].take n

/-- What completes a lane-wise V word: its operands and the mask KM are read, its lanes computed with the flags of the
active ones, and its result placed by D and W after its latency (R286, R287, R289). -/
def LaneWord (i : Hdr → RR → Instr) (p : Pace) (ps : RR → List Pos) (g : RR → List Row → Nat → Word × Fl) : Prop :=
  ∀ (h : Hdr) (f : RR) (s : State), Issues .v h s → vdstOk f.d = true →
    VReadable [vKm f] ((ps f).zip [f.a, f.b, f.c]) (atWord .v s) →
    PaceFree p (readVSrcs ((ps f).zip [f.a, f.b, f.c]) (atWord .v s)).2 →
    let r := readVSrcs ((ps f).zip [f.a, f.b, f.c]) (atWord .v s)
    let u := pacedState p r.2
    ∃ t, vput p.ec f.d f.w (u.lanes f) (flagLanes (u.lanes f) (g f r.1)).1 (flagLanes (u.lanes f) (g f r.1)).2 u = .done t ∧
      Completes (i h f) .v s t

/-- What completes a V word that places a row of its own, whatever its lanes: `row` and `fl` come from its sources. -/
def RowWord {φ : Type} (i : Hdr → φ → Instr) (p : Pace) (d : φ → BitVec 7) (w : φ → Bool) (ok : φ → Bool)
    (ks : φ → List Nat) (cs : φ → List (Pos × BitVec 7)) (m : φ → List Row → State → BitVec 64)
    (row : φ → List Row → State → Row × Fl) : Prop :=
  ∀ (h : Hdr) (f : φ) (s : State), Issues .v h s → vdstOk (d f) = true → ok f = true →
    VReadable (ks f) (cs f) (atWord .v s) → PaceFree p (readVSrcs (cs f) (atWord .v s)).2 →
    let r := readVSrcs (cs f) (atWord .v s)
    let u := pacedState p r.2
    ∃ t, vput p.ec (d f) (w f) (m f r.1 u) (row f r.1 u).1 (row f r.1 u).2 u = .done t ∧ Completes (i h f) .v s t

/-- What completes a V word that gives some bits of D the bits of a row, of which P speaks. -/
def SuchRowWord (i : Hdr → RR → Instr) (p : Pace) (ok : RR → Bool) (ks : RR → List Nat)
    (cs : RR → List (Pos × BitVec 7)) (P : RR → List Row → State → Row → Row → Fl → Prop) : Prop :=
  ∀ (h : Hdr) (f : RR) (s : State), Issues .v h s → vdstOk f.d = true → ok f = true →
    VReadable (ks f) (cs f) (atWord .v s) → PaceFree p (readVSrcs (cs f) (atWord .v s)).2 →
    let r := readVSrcs (cs f) (atWord .v s)
    let u := pacedState p r.2
    ∃ t bits row fl, P f r.1 u bits row fl ∧ vplace p.ec f.d f.w bits row fl u = .done t ∧ Completes (i h f) .v s t

/-- A load of n bytes reads its own module now: it translates to mpa, meets no pending store, no watermark, no
uncorrectable byte (R76, R98, R118, R320, R443). -/
def LoadsFrom (n ea mpa : Nat) (s : State) : Prop :=
  s.access s.cur.tile s.cur.core ea true false = .loc mpa ∧ pendBlocks s.cc none 0 mpa = false ∧
    s.ct.behindMark mpa = false ∧ s.badIn mpa n = none

/-- The store that a VST or SST queues for the address mpa, with its data and the rc from which they are there (R75, R321). -/
def storeOf (f : MemF) (lane : Option Nat) (win : Option Nat) (hd mpa ready : Nat) (data : Option Row) (s : State) :
    PendStore :=
  {
    va := BitVec.ofNat 60 (alignAddr lane.isNone (s.ea f).toNat), mpa := mpa, win := win, lane := lane, data := data,
    ready := ready, g := f.g, rel := f.ord == 2, sc := f.sc, pc := s.ccl.pc, group := none, handle := hd,
    handlerWork := s.cc.trap, sq := f.d == 0x44, ord := s.cc.mcount }

/-- A store to va, of a row or a word, has the place mpa: on its own module, behind no watermark, in no uncorrectable
granule that it writes in part; or through window `win` and its handle, whose checks it passes (R98, R107, R118, R321, R322). -/
def StoresAt (isRow : Bool) (va : Nat) (win : Option Nat) (hd mpa : Nat) (s : State) : Prop :=
  match win with
  | none => hd = 0 ∧ s.access s.cur.tile s.cur.core va false true = .loc mpa ∧ s.ct.behindMark mpa = false ∧
      s.badPart mpa (if isRow then 256 else 4) = none
  | some w => hd = (s.ct.wins.get w {}).handle.toNat ∧ ∃ mpa0,
      s.access s.cur.tile s.cur.core va false true = .win w mpa0 ∧
      winCheck s s.cur.tile w mpa0 (BitVec.ofNat 60 va) false false true (s.mNow · ·) = .ok mpa

/-- The bytes that a store at home writes: its row's, or its word's (R96, R321). -/
def storedAt (p : PendStore) (a : Nat) : Prop :=
  match p.lane with
  | some _ => p.mpa / 4 * 4 ≤ a ∧ a < p.mpa / 4 * 4 + 4
  | none => p.mpa / 256 * 256 ≤ a ∧ a < p.mpa / 256 * 256 + 256

/-- No push of the V cluster of the issuing core waits for room in sq (R288). -/
def FreesNothing (s : State) : Prop := s.cc.vc.last < unknown

/-- An address that is no byte of the register files of the tile at hand (R91, R93). -/
def OutsideFiles (s : State) (a : Nat) : Prop := ∀ c off, s.place a ≠ .onDie s.cur.tile c 2 off

/-- A byte held by HBM, a scratchpad or the host (R89, R91). -/
def InMemory (s : State) (a : Nat) : Prop :=
  match s.place a with
  | .hbm _ _ => True
  | .host => True
  | .onDie _ _ kind _ => kind = 0
  | .hole => False

/-- The handle of the tile that an event of a circuit concerns. -/
def hix (s : State) : HandleId := fin 64 s.cur.ix

/-- Its circuit. -/
def hc (s : State) : Circ := s.circ s.cur.tile (hix s).val

/-- The message that a home expects next, well formed, whole in staging, and not retired by its source (R153, R155, R444). -/
def Expected (src : Source) (ty : MsgType) (m : Msg) (s : State) : Prop :=
  ∃ y, s.ct.home? src = some y ∧ m.seq = y.rcv ∧ msgFault ty m = 0 ∧ m.op.toNat < 4 ∧ m.spoilt = false ∧ m.void = false

/-- The state in which something has come from a source: the light of one on another module is seen (R465). -/
def seen (src : Source) (s : State) : State := if src.md = s.hub.modid then s else seeLight s.cur.tile src s

/-- The state in which a home has received a message of so many flits (R54, R155). -/
def taken (src : Source) (flits : Nat) (s : State) : State :=
  ((seen src s).count s.cur.tile 0x0E none (64 * flits)).modHome s.cur.tile src fun y => { y with rcv := y.rcv + 1 }

end Claims

end Sys2Proof
end

