-- ==== Sys2Proof/Certificates/Slice0/Obligations.lean ====
section
/-!
DEFINITION. The statements for the provers: what every word and every event of the opcode table does when it completes, how
words issue and read and deliver, what traps, records and reset are, and what every step keeps.
-/
open Sys2Proof Sys2Proof.Machine Sys2Proof.Claims

/-! ## Issue, operands, delivery -/

/-- Decoding reads back what encoding packs, for every well-formed instruction and every unit that reads its words, and
a machine event has no word. -/
def Obligations.EncodingRoundTrips : Prop := ∀ i : Instr, Laws.RoundTrip.Statement i

/-- Words written out bit by bit from the spec's encodings decode to the instructions they stand for (R232, R233, R240
to R246). -/
def Obligations.WrittenWordsDecode : Prop :=
  decode (.cluster .c) 0x0000703D40000000 = .ok (.add ⟨false, 0, false⟩ ⟨3, true, 1, 0x75, 0, 0⟩) ∧
    decode (.cluster .c) 0xCC00000000000003 = .ok (.clkdiv ⟨true, 0, false⟩ ⟨0, false, 0, 0, 3⟩) ∧
    decode (.cluster .v) 0x0300B02081A40000 = .ok (.vfma ⟨false, 0, false⟩ ⟨5, true, 1, 2, 3, 0x240000⟩) ∧
    decode (.cluster .m) 0x130E228500000080 = .ok (.sst ⟨false, 0, false⟩ ⟨0x71, false, 5, 0, false, 2, 2, 0, 0x80⟩) ∧
    decode (.cluster .e) 0x1100043420000058 = .ok (.mma ⟨false, 0, false⟩ ⟨false, 0, true, 0x0D, 4, 0, 0, 0x58⟩) ∧
    decode .rig 0x0471300001000000 = .ok (.rig ⟨7, 0x1300001000000⟩) ∧
    decode (.cluster .c) 0x7E00000000000000 = .error (.reservedCommon 0x7E)

/-- A step runs what the bytes of the instruction store decode to: the issue of a cluster that may issue is exec of
the instruction at its program counter, a word that can be read (R444), with that cluster as the one that acts (R72,
R245). -/
def Obligations.StepRunsDecodedWord : Prop :=
  ∀ (s : State) (n : Nat) (t : TileId) (k : CoreId) (cl : Cluster) (r : List (Nat × Act)) (i : Instr),
    s.agenda = (n, .issue t k cl) :: r → n ≤ s.now → ((s.core t k).clu cl).held = false →
    ((s.core t k).clu cl).stat = .running → (s.core t k).bundleWait = false → (s.core t k).gated = false →
    (s.tile t).badWords.contains ((s.core t k).clu cl).pc = false →
    decode (.cluster cl) ((s.tile t).store.get ((s.core t k).clu cl).pc.toNat 0x7E00000000000000) = .ok i →
    step s = exec i { s with
      agenda := r, cur := { tile := t, core := k, ix := cl.code, cl := cl, bundle := false, slot := 0, res := .done } }

/-- No word and no event ends the machine: exec answers a next state for each in every state. A word whose guard is false has no
effect and goes on in sequence (R235); one that asks for a rendezvous is held, and no register and no byte of memory changes
(R73). A rig word without its task, and an event whose unit has nothing that it could act on, leave the whole state: that such
a row answers the state as it is is the model's convention for a step that does not happen (log 3). -/
def Obligations.EveryInstructionAnswersNext : Prop :=
  (∀ (i : Instr) (s : State), ∃ t, exec i s = .next t) ∧
  (∀ (i : Instr) (cl : Cluster) (x : BitVec 64) (s : State), .cluster cl ∈ i.units → encode i = some x → s.cur.cl = cl →
    (s.cc.clu cl).req = none →
    (((hdrOf x).sync = true → s.cur.bundle = true ∨ (s.cc.clu cl).noSync = true) →
      (s.cc.clu cl).guard (hdrOf x).gd.toNat = (hdrOf x).gn →
        exec i s = .next (settle (atWord cl s) (.done (atWord cl s)))) ∧
    ((hdrOf x).sync = true → s.cur.bundle = false → (s.cc.clu cl).noSync = false →
      ∃ t, exec i s = .next t ∧ t.mem = s.mem ∧ (t.cc.clu cl).held = true ∧ (t.cc.clu cl).pc = (s.cc.clu cl).pc ∧
        ∀ d n, t.cc.reg d n = s.cc.reg d n)) ∧
  (∀ (i : Instr) (s : State), .rig ∈ i.units → s.slotTask s.cur.slot = none → exec i s = .next s) ∧
  ∀ s : State,
    let rests (l : List Instr) : Prop := ∀ i ∈ l, exec i s = .next s
    let c := hc s
    (s.slotTask (fin 8 s.cur.ix) = none →
      rests [.launch, .preemptionRequest, .rigProgramStop, .preemptionComplete, .resume, .taskEnd]) ∧
    (s.request s.cur.tile = none → rests [.coreStop, .watchdog]) ∧ (s.cc.held = false → rests [.engineFreeze]) ∧
    (s.cc.stuck = false → rests [.clusterDeadlock]) ∧ (s.cc.gated = false → rests [.coreWake]) ∧
    (s.cc.asks s.now = false → rests [.wakeRequest]) ∧ ((∀ k, (s.ct.core k).asks s.now = false) → rests [.inrushGrant]) ∧
    (chanJob s s.cur.tile (fin 8 s.cur.ix) = none → rests [.copyChunk, .carderBlock]) ∧
    (s.cc.queue (queueOf s.cur.ix) = [] → rests [.copyJobComplete, .hubRecovery]) ∧
    ((s.ct.cents.get s.cur.ix {}).rdy = false → rests [.firingComplete]) ∧
    (firstWalk s.ct.walkq (s.now / 2) = none → rests [.walkerCycle]) ∧
    (c.pathed = false → rests [.settlingEnd]) ∧ (c.waits = false → rests [.pathBlocked]) ∧
    (c.failed = false → rests [.reroute]) ∧ (c.state ≠ .derigging → rests [.derigComplete]) ∧
    (c.ext = false → rests [.peerAbsentTimeout]) ∧ (c.sent = [] → rests [.resendTimeout]) ∧
    (c.hears = false → ∀ leaf a b d e, rests [.statusFlit leaf a b, .negativeResponse leaf a b d e, .keepalive leaf a b d]) ∧
    (∀ src, s.ct.home? src = none → rests [.controlSlot src, .keepaliveSend src, .leafSlot src] ∧
      ∀ sq, src.md = s.hub.modid → rests [.commit src sq]) ∧
    ((s.fib (s.cur.ix % 64)).state ≠ .probing → rests [.probeTimeout] ∧ ∀ loss, rests [.probeComplete loss]) ∧
    ((s.fib (s.cur.ix % 64)).state ≠ .fopen → rests [.extPortLoss]) ∧
    ((s.str (fin 8 s.cur.ix)).pausedAt = none → rests [.lampRelight]) ∧
    (s.ct.inService = false → ∀ pc cause, rests [.coreFailed pc, .tileBypass cause]) ∧
    (s.hub.cmd = none → rests [.abort, .setmodid]) ∧
    (s.hub.cmd = none → s.hub.stream = none → rests [.checkpoint, .restore, .checkpointComplete, .restoreComplete]) ∧
    (s.hub.astat ≠ 1 → rests [.attestationRequest, .attestationComplete]) ∧
    (s.hub.stage ≠ 0xE → ∀ off x, rests [.bar2Write off x]) ∧
    (s.hub.stage = 0xE → s.hub.dead = true → ∀ v, rests [.taskDoorbell v])

/-- A word whose guard is false issues without effect (R235).
A rendezvous word outside a bundle is held until the other clusters hold theirs, and nothing of it happens
(R73). -/
def Obligations.IssueFollowsRendezvousAndGuard : Prop :=
  (∀ (cl : Cluster) (h : Hdr) (body : State → Eff) (s : State),
    (s.cc.clu cl).req = none → (h.sync = true → s.cur.bundle = true ∨ (s.cc.clu cl).noSync = true) →
    (s.cc.clu cl).guard h.gd.toNat = h.gn →
    word cl h body s = .next (settle (atWord cl s) (.done (atWord cl s)))) ∧
  (∀ (cl : Cluster) (h : Hdr) (body : State → Eff) (s : State),
    (s.cc.clu cl).req = none → h.sync = true → s.cur.bundle = false → (s.cc.clu cl).noSync = false →
    ∃ t, word cl h body s = .next t ∧ t.mem = s.mem ∧ (t.cc.clu cl).held = true ∧ (t.cc.clu cl).pc = (s.cc.clu cl).pc ∧
      ∀ d n, t.cc.reg d n = s.cc.reg d n)

/-- A source of a C, M or E word (R236, R237): a register of its file, a latch, the oldest xq entry, or the constant
c - 0x70; and xq is popped by a code that names it alone.
A result of a C, M or E word (R233, R238): its register takes it under W where D names one, every other register
keeps its value, q0 takes it and q0 to q2 move on, and memory, flags and guards stay. -/
def Obligations.SourcesAndResults : Prop :=
  (∀ (cl : Cluster) (c : BitVec 7) (s : State), cl ≠ .v → s.cur.cl = cl → srcOk cl c = true →
    (c.toNat < 64 → readSrc cl c s = (s.cc.reg cl c.toNat, s)) ∧
      (0x40 ≤ c.toNat → c.toNat ≤ 0x43 → readSrc cl c s = ((s.ccl.lat[c.toNat - 0x40]?).getD 0, s)) ∧
      (0x60 ≤ c.toNat → readSrc cl c s = (BitVec.ofInt 32 ((c.toNat : Int) - 0x70), s)) ∧
      (∀ k v r, c = 0x45 → s.ccl.xq = (k, v) :: r →
        (readSrc cl c s).1 = v ∧ (readSrc cl c s).2.ccl.xq = r ∧ ∀ d n, (readSrc cl c s).2.cc.reg d n = s.cc.reg d n)) ∧
  (∀ (cl : Cluster) (n : Nat) (d : BitVec 7) (w : Bool) (v : Word) (s : State), cl ≠ .v →
    ((putRes cl n d w v s).cc.reg cl d.toNat =
        if w = true ∧ d.toNat < 64 then v else s.cc.reg cl d.toNat) ∧
      (∀ e m, ¬(e = cl ∧ m = d.toNat) → (putRes cl n d w v s).cc.reg e m = s.cc.reg e m) ∧
      ((putRes cl n d w v s).cc.clu cl).lat = (v :: (s.cc.clu cl).lat).take 4 ∧
      ((putRes cl n d w v s).cc.clu cl).guards = (s.cc.clu cl).guards ∧
      (putRes cl n d w v s).cc.fpflags = s.cc.fpflags ∧ (putRes cl n d w v s).cc.acc = s.cc.acc ∧
      (putRes cl n d w v s).mem = s.mem ∧ (putRes cl n d w v s).hub = s.hub)

/-- A word that completes in split execution goes on at the next word, or, at the end of a loop body, as R245 and R267
say: the program counter and the loop stack move, and no register, mask, guard, accumulator or byte of memory does.
The next word in sequence (R245, R267): the following word, the start of the innermost loop where its body ends
and passes are left, the word after the body where none is. -/
def Obligations.CompletionFollowsSequence : Prop :=
  (∀ s : State, s.cur.bundle = false → s.cc.post = none → s.ccl.redir = none →
    let t := settle s (.done s)
    (t.ccl.pc, t.ccl.loops) = s.ccl.seqNext ∧ (∀ d n, t.cc.reg d n = s.cc.reg d n) ∧
      (∀ n, t.cc.vreg n = s.cc.vreg n) ∧ (∀ n, t.cc.mask n = s.cc.mask n) ∧
      (∀ d, (t.cc.clu d).guards = (s.cc.clu d).guards) ∧ t.cc.acc = s.cc.acc ∧ t.mem = s.mem ∧ t.now = s.now) ∧
  (∀ y : Clu,
    (y.loops = [] → y.seqNext = (y.pc + 1, [])) ∧
      ∀ e r, y.loops = e :: r →
        (e.stop ≠ y.pc + 1 → y.seqNext = (y.pc + 1, e :: r)) ∧
        (e.stop = y.pc + 1 → 1 < e.count.toNat → y.seqNext = (e.start, { e with count := e.count - 1 } :: r)) ∧
        (e.stop = y.pc + 1 → e.count.toNat ≤ 1 → y.seqNext = (e.stop, r)))

/-! ## The C cluster -/

/-- R261, register forms: with its operands readable and D not reserved, each word completes with the result its table
row gives, delivered after the row's engine cycles, written to D under W and pushed (R260).
R261, immediate forms: each word completes with the result of A and IMM32 that its table row gives.
R262 and R260: once the division before has delivered, each division word completes with its quotient or
remainder after 18 engine cycles; the divisor 0 gives all ones or A. -/
def Obligations.ControlArithmeticComplete : Prop :=
  (∀ p ∈ ([(.add, 2, 1, fun l => arg l 0 + arg l 1), (.sub, 2, 1, fun l => arg l 0 - arg l 1),
        (.mul, 2, 3, fun l => arg l 0 * arg l 1),
        (.mulh, 2, 3, fun l => ((arg l 0).signExtend 64 * (arg l 1).signExtend 64).extractLsb' 32 32),
        (.mulhu, 2, 3, fun l => ((arg l 0).setWidth 64 * (arg l 1).setWidth 64).extractLsb' 32 32),
        (.mad, 3, 3, fun l => arg l 0 * arg l 1 + arg l 2), (.and, 2, 1, fun l => arg l 0 &&& arg l 1),
        (.or, 2, 1, fun l => arg l 0 ||| arg l 1), (.xor, 2, 1, fun l => arg l 0 ^^^ arg l 1),
        (.andn, 2, 1, fun l => arg l 0 &&& ~~~(arg l 1)),
        (.shl, 2, 1, fun l => arg l 0 <<< ((arg l 1).toNat % 32)),
        (.shr, 2, 1, fun l => arg l 0 >>> ((arg l 1).toNat % 32)),
        (.sar, 2, 1, fun l => (arg l 0).sshiftRight ((arg l 1).toNat % 32)),
        (.rotl, 2, 1, fun l => (arg l 0).rotateLeft ((arg l 1).toNat % 32)),
        (.min, 2, 1, fun l => if (arg l 0).slt (arg l 1) then arg l 0 else arg l 1),
        (.max, 2, 1, fun l => if (arg l 0).slt (arg l 1) then arg l 1 else arg l 0),
        (.minu, 2, 1, fun l => if (arg l 0).ult (arg l 1) then arg l 0 else arg l 1),
        (.maxu, 2, 1, fun l => if (arg l 0).ult (arg l 1) then arg l 1 else arg l 0),
        (.clz, 1, 1, fun l => clz (arg l 0)), (.popc, 1, 1, fun l => BitVec.ofNat 32 (Machine.popc (arg l 0))),
        (.brev, 1, 1, fun l => brev (arg l 0)), (.mov, 1, 1, fun l => arg l 0)] :
      List ((Hdr → RR → Instr) × Nat × Nat × (List Word → Word))),
    ∀ (h : Hdr) (f : RR) (s : State), Issues .c h s → dstOk .c f.d = true →
      Readable .c (rrOps p.2.1 f) (atWord .c s) →
      Completes (p.1 h f) .c s
        (putRes .c p.2.2.1 f.d f.w (p.2.2.2 (readSrcs .c (rrOps p.2.1 f) (atWord .c s)).1)
          (readSrcs .c (rrOps p.2.1 f) (atWord .c s)).2)) ∧
  ((∀ p ∈ ([(.addi, fun a i => a + i), (.andi, fun a i => a &&& i), (.ori, fun a i => a ||| i),
        (.xori, fun a i => a ^^^ i), (.shli, fun a i => a <<< (i.toNat % 32)),
        (.shri, fun a i => a >>> (i.toNat % 32)), (.sari, fun a i => a.sshiftRight (i.toNat % 32))] :
      List ((Hdr → RI → Instr) × (Word → Word → Word))),
    ∀ (h : Hdr) (f : RI) (s : State), Issues .c h s → dstOk .c f.d = true → Readable .c [f.a] (atWord .c s) →
      Completes (p.1 h f) .c s
        (putRes .c 1 f.d f.w (p.2 (arg (readSrcs .c [f.a] (atWord .c s)).1 0) f.imm)
          (readSrcs .c [f.a] (atWord .c s)).2)) ∧
    ∀ (h : Hdr) (f : RI) (s : State), Issues .c h s → dstOk .c f.d = true →
      Completes (.movi h f) .c s (putRes .c 1 f.d f.w f.imm (atWord .c s))) ∧
  ((∀ p ∈ ([(.div, divS), (.divu, divU), (.rem, remS), (.remu, remU)] :
      List ((Hdr → RR → Instr) × (Word → Word → Word))),
    ∀ (h : Hdr) (f : RR) (s : State), Issues .c h s → dstOk .c f.d = true → Readable .c [f.a, f.b] (atWord .c s) →
      (readSrcs .c [f.a, f.b] (atWord .c s)).2.owed .c [256] = false →
      let r := readSrcs .c [f.a, f.b] (atWord .c s)
      Completes (p.1 h f) .c s
        ((putRes .c 18 f.d f.w (p.2 (arg r.1 0) (arg r.1 1)) r.2).modCc fun x =>
          x.owe .c [256] false (r.2.deliverAt .c 18))) ∧
    (∀ a b : Word, b ≠ 0 →
      divS a b = BitVec.ofInt 32 (a.toInt.tdiv b.toInt) ∧ remS a b = BitVec.ofInt 32 (a.toInt.tmod b.toInt) ∧
        divU a b = BitVec.ofNat 32 (a.toNat / b.toNat) ∧ remU a b = BitVec.ofNat 32 (a.toNat % b.toNat)) ∧
    (∀ a : Word, divS a 0 = 0xFFFFFFFF ∧ divU a 0 = 0xFFFFFFFF ∧ remS a 0 = a ∧ remU a 0 = a) ∧
    divS 0x80000000 0xFFFFFFFF = 0x80000000 ∧ remS 0x80000000 0xFFFFFFFF = 0)

/-- CLZ, POPC and BREV give what R261 says: the leading zeros, the number of set bits, and the bits in reverse.
EXTR, INSR and SEL (R261, R263): the field of A, extended as F[10] says; A with the field replaced by B; A or B by
the guard that field C names. -/
def Obligations.BitAndFieldWordsComplete : Prop :=
  (∀ a : Word,
    (clz a).toNat ≤ 32 ∧ (∀ i, 32 ≤ i + (clz a).toNat → a.getLsbD i = false) ∧
      ((clz a).toNat < 32 → a.getLsbD (31 - (clz a).toNat) = true) ∧
      popc a = ((List.range 32).filter fun i => a.getLsbD i).length ∧
      ∀ i, i < 32 → (brev a).getLsbD i = a.getLsbD (31 - i)) ∧
  ((∀ (h : Hdr) (f : RR) (s : State), Issues .c h s → dstOk .c f.d = true →
      f.f.toNat % 32 + (f.f.toNat / 32 % 32 + 1) ≤ 32 → Readable .c [f.a] (atWord .c s) →
      let r := readSrcs .c [f.a] (atWord .c s)
      Completes (.extr h f) .c s
        (putRes .c 1 f.d f.w (extract (arg r.1 0) (f.f.toNat % 32) (f.f.toNat / 32 % 32 + 1) (f.f.getLsbD 10)) r.2)) ∧
    (∀ (h : Hdr) (f : RR) (s : State), Issues .c h s → dstOk .c f.d = true →
      f.f.toNat % 32 + (f.f.toNat / 32 % 32 + 1) ≤ 32 → Readable .c [f.a, f.b] (atWord .c s) →
      let r := readSrcs .c [f.a, f.b] (atWord .c s)
      Completes (.insr h f) .c s
        (putRes .c 1 f.d f.w (insert (arg r.1 0) (arg r.1 1) (f.f.toNat % 32) (f.f.toNat / 32 % 32 + 1)) r.2)) ∧
    (∀ (h : Hdr) (f : RR) (s : State), Issues .c h s → dstOk .c f.d = true → f.c.toNat < 8 →
      Readable .c [f.a, f.b] (atWord .c s) →
      let r := readSrcs .c [f.a, f.b] (atWord .c s)
      Completes (.sel h f) .c s
        (putRes .c 1 f.d f.w (if (r.2.cc.clu .c).guard f.c.toNat then arg r.1 0 else arg r.1 1) r.2)) ∧
    ∀ (a b : Word) (pos len i : Nat), 1 ≤ len → pos + len ≤ 32 → i < 32 →
      (extract a pos len false).getLsbD i = (decide (i < len) && a.getLsbD (pos + i)) ∧
        (extract a pos len true).getLsbD i = a.getLsbD (if i < len then pos + i else pos + len - 1) ∧
        (insert a b pos len).getLsbD i = if pos ≤ i ∧ i < pos + len then b.getLsbD (i - pos) else a.getLsbD i)

/-- CMP, CMPI, ACMP and ECMP (R264, R317, R339): guard D takes the condition, and 1 or 0 is pushed. -/
def Obligations.CompareWordsComplete : Prop :=
  (∀ p ∈ ([(Cluster.c, .cmp), (.m, .acmp), (.e, .ecmp)] : List (Cluster × (Hdr → RR → Instr))),
    ∀ (h : Hdr) (f : RR) (s : State), Issues p.1 h s → f.d.toNat < 8 → f.f.toNat % 16 ≤ 10 →
      Readable p.1 [f.a, f.b] (atWord p.1 s) →
      let r := readSrcs p.1 [f.a, f.b] (atWord p.1 s)
      Completes (p.2 h f) p.1 s (putGuard p.1 1 f.d.toNat (condHolds (f.f.toNat % 16) (arg r.1 0) (arg r.1 1)) r.2)) ∧
    (∀ (h : Hdr) (f : RI) (s : State), Issues .c h s → f.d.toNat < 8 → f.f5.toNat % 16 ≤ 10 →
      Readable .c [f.a] (atWord .c s) →
      let r := readSrcs .c [f.a] (atWord .c s)
      Completes (.cmpi h f) .c s (putGuard .c 1 f.d.toNat (condHolds (f.f5.toNat % 16) (arg r.1 0) f.imm) r.2)) ∧
    ∀ (cl : Cluster) (n g : Nat) (b : Bool) (s : State), cl ≠ .v → g < 8 →
      ((putGuard cl n g b s).cc.clu cl).guard g = (b || g == 0) ∧
        (∀ j, j ≠ g → ((putGuard cl n g b s).cc.clu cl).guard j = (s.cc.clu cl).guard j) ∧
        ((putGuard cl n g b s).cc.clu cl).lat = ((if b then 1 else 0) :: (s.cc.clu cl).lat).take 4 ∧
        ∀ d m, (putGuard cl n g b s).cc.reg d m = s.cc.reg d m

/-- JMP, CALL and RET (R245, R268, R269): the next word is the one A names, the one DISP words on, or the one on top of
the return stack; JMP with F[0] and CALL push the word after, RET pops; the next issue is 2 engine cycles later.
BR (R266, R268) in C, M and E by a value, in V by a mask, and always with BK 0.
LOOP (R267, R268): with fewer than 4 entries and a body inside the innermost one of its depth, a count of 0 goes past
the body and another count pushes an entry of the body; in V the count is lane 0 of A. -/
def Obligations.FlowWordsComplete : Prop :=
  ((∀ (h : Hdr) (f : RR) (s : State), Issues .c h s → f.f.getLsbD 0 = false → Readable .c [f.a] (atWord .c s) →
      let r := readSrcs .c [f.a] (atWord .c s)
      exec (.jmp h f) s = .next (settle (atWord .c s) (branchTo ((arg r.1 0).extractLsb' 3 19) r.2))) ∧
    (∀ (h : Hdr) (f : RR) (s : State), Issues .c h s → f.f.getLsbD 0 = true → Readable .c [f.a] (atWord .c s) →
      let r := readSrcs .c [f.a] (atWord .c s)
      r.2.cc.ret.length < 16 →
      exec (.jmp h f) s = .next (settle (atWord .c s) (branchTo ((arg r.1 0).extractLsb' 3 19)
        (r.2.modCc fun x => { x with ret := (x.c.pc + 1) :: x.ret })))) ∧
    (∀ (h : Hdr) (f : BrF) (s : State), Issues .c h s → f.bk = 0 → f.z = 0 → (atWord .c s).cc.ret.length < 16 →
      exec (.call h f) s = .next (settle (atWord .c s)
        (.jump ((atWord .c s).modCc fun x => { x with ret := (x.c.pc + 1) :: x.ret })
          ((atWord .c s).ccl.pc + f.disp.truncate 19) 2))) ∧
    (∀ (h : Hdr) (f : BrF) (s : State) (p : Pc) (l : List Pc), Issues .c h s → f.bk = 0 → f.z = 0 →
      (atWord .c s).cc.ret = p :: l →
      exec (.ret h f) s = .next (settle (atWord .c s)
        (.jump ((atWord .c s).modCc fun x => { x with
          ret := l, c := { x.c with loops := x.c.loops.filter fun e => decide (e.depth ≤ l.length) } }) p 2))) ∧
    ∀ (p : Pc) (d : Nat) (s u : State), s.cur.bundle = false → u.cur = s.cur → u.ccl.redir = none →
      (settle s (.jump u p d)).ccl.pc = p ∧ (settle s (.jump u p d)).mem = u.mem ∧
        ∀ e m, (settle s (.jump u p d)).cc.reg e m = u.cc.reg e m) ∧
  ((∀ (h : Hdr) (f : BrF) (s : State), Issues s.cur.cl h s → f.z = 0 → f.bk = 0 →
      exec (.br h f) s = .next (settle (atWord s.cur.cl s)
        (branchTo ((atWord s.cur.cl s).ccl.pc + f.disp.truncate 19) (atWord s.cur.cl s)))) ∧
    (∀ (h : Hdr) (f : BrF) (s : State), s.cur.cl ≠ .v → Issues s.cur.cl h s → f.z = 0 → f.bk ≠ 0 → f.bk.toNat ≤ 6 →
      Readable s.cur.cl [f.a] (atWord s.cur.cl s) →
      let r := readSrcs s.cur.cl [f.a] (atWord s.cur.cl s)
      exec (.br h f) s = .next (settle (atWord s.cur.cl s)
        (if brHolds f.bk.toNat (arg r.1 0) = true then
          branchTo ((atWord s.cur.cl s).ccl.pc + f.disp.truncate 19) r.2
         else .done r.2))) ∧
    (∀ (h : Hdr) (f : BrF) (s : State), s.cur.cl = .v → Issues .v h s → f.z = 0 → (f.bk = 1 ∨ f.bk = 2) →
      f.a.toNat < 8 → RegsReadable .v [128 + f.a.toNat] (atWord .v s) →
      exec (.br h f) s = .next (settle (atWord .v s)
        (if ((atWord .v s).cc.mask f.a.toNat = 0) ↔ f.bk = 1 then
          branchTo ((atWord .v s).ccl.pc + f.disp.truncate 19) (atWord .v s)
         else .done (atWord .v s)))) ∧
    ∀ a : Word,
      brHolds 1 a = decide (a = 0) ∧ brHolds 2 a = decide (a ≠ 0) ∧ brHolds 3 a = decide (a.toInt < 0) ∧
        brHolds 4 a = decide (0 ≤ a.toInt) ∧ brHolds 5 a = decide (0 < a.toInt) ∧ brHolds 6 a = decide (a.toInt ≤ 0)) ∧
  (∀ (h : Hdr) (f : BrF) (s v : State) (n : Word), Issues s.cur.cl h s → f.z = 0 → f.bk = 0 → 2 ≤ f.disp.toInt →
    (s.cur.cl ≠ .v → Readable s.cur.cl [f.a] (atWord s.cur.cl s) ∧
      n = arg (readSrcs s.cur.cl [f.a] (atWord s.cur.cl s)).1 0 ∧ v = (readSrcs s.cur.cl [f.a] (atWord s.cur.cl s)).2) →
    (s.cur.cl = .v → VReadable [] [(.int, f.a)] (atWord .v s) ∧
      n = lane (rarg (readVSrcs [(.int, f.a)] (atWord .v s)).1 0) 0 ∧ v = (readVSrcs [(.int, f.a)] (atWord .v s)).2) →
    v.ccl.loops.length < 4 →
    (∀ x, v.ccl.loops.head? = some x → ¬(x.depth = v.loopDepth ∧ x.stop ≤ v.ccl.pc + f.disp.truncate 19)) →
    exec (.loop h f) s = .next (settle (atWord s.cur.cl s)
      (if n = 0 then .jump v (v.ccl.pc + f.disp.truncate 19) 0
       else .done (v.modCcl fun y => { y with loops :=
        { start := v.ccl.pc + 1, stop := v.ccl.pc + f.disp.truncate 19, count := n, depth := v.loopDepth } :: y.loops }))))

/-- A semaphore word that waits for nothing sends its operation to the file, where it lands from the next cycle on, and
waits for the answer (R271, R272).
SEMSET sends its value with the mode of F5[2]; a phase barrier that expects no arrival is reserved (R271, R274).
SEMSIG and BARRIVE are releases: they first wait until the accesses they order are done, then send, and land in the rc in
which that wait ends (R191, R273). That BARRIVE waits for the ordered accesses as a release at every scope is the model's choice: log 19. -/
def Obligations.SemaphoreWordsSend : Prop :=
  (∀ p ∈ ([(.semwait, fun f => dstOk .c f.d, 1, fun _ l => .wait (arg l 0)),
        (.semtry, fun f => decide (f.d.toNat < 8), 1, fun _ l => .try (arg l 0)),
        (.semrd, fun f => dstOk .c f.d && decide (f.f5.toNat / 4 ≤ 4), 0, fun f _ => .rd (f.f5.extractLsb' 2 3)),
        (.bexpect, fun _ => true, 1, fun _ l => .expect (arg l 0)),
        (.bwait, fun f => dstOk .c f.d, 1, fun _ l => .bwait (arg l 0))] :
      List ((Hdr → RI → Instr) × (RI → Bool) × Nat × (RI → List Word → SemOp))),
    ∀ (h : Hdr) (f : RI) (s : State), Issues .c h s → p.2.1 f = true →
      Readable .c ([f.a].take p.2.2.1) (atWord .c s) →
      let r := readSrcs .c ([f.a].take p.2.2.1) (atWord .c s)
      exec (p.1 h f) s = .next (settle (atWord .c s)
        (waitFor (.sem (f.imm.toNat % 256))
          (land s.cur.tile (s.now + 1) (f.imm.truncate 8) s.cur.core (p.2.2.2 f r.1) r.2)))) ∧
  (∀ (h : Hdr) (f : RI) (s : State), Issues .c h s → Readable .c [f.a] (atWord .c s) →
    let r := readSrcs .c [f.a] (atWord .c s)
    exec (.semset h f) s = .next (settle (atWord .c s)
      (if f.f5.getLsbD 2 = true ∧ (arg r.1 0).truncate 16 = (0 : BitVec 16) then (atWord .c s).reserved
       else waitFor (.sem (f.imm.toNat % 256))
        (land s.cur.tile (s.now + 1) (f.imm.truncate 8) s.cur.core (.set (f.f5.getLsbD 2) (arg r.1 0)) r.2)))) ∧
  ((∀ (h : Hdr) (f : RI) (s : State), Issues .c h s → Readable .c [f.a] (atWord .c s) →
      let r := readSrcs .c [f.a] (atWord .c s)
      exec (.semsig h f) s = .next (settle (atWord .c s)
        (if r.2.releaseDone (r.2.cc.knows r.2.ct.jobCtr .c) (f.f5.toNat % 4) = true then
          waitFor (.sem (f.imm.toNat % 256))
            (land s.cur.tile (s.now + 1) (f.imm.truncate 8) s.cur.core (.sig (arg r.1 0)) r.2)
         else waitFor (.leave (arg r.1 0)) r.2))) ∧
    (∀ (h : Hdr) (f : RI) (s : State), Issues .c h s → dstOk .c f.d = true →
      exec (.barrive h f) s = .next (settle (atWord .c s)
        (if (atWord .c s).releaseDone ((atWord .c s).cc.knows (atWord .c s).ct.jobCtr .c) (f.f5.toNat % 4) = true then
          waitFor (.sem (f.imm.toNat % 256))
            (land s.cur.tile (s.now + 1) (f.imm.truncate 8) s.cur.core .arrive (atWord .c s))
         else waitFor (.leave 0) (atWord .c s)))) ∧
    ∀ (h : Hdr) (f : RI) (v : Word) (s : State), Waits .c (.leave v) s →
      (onWord .c s).releaseDone (s.cc.clu .c).since (f.f5.toNat % 4) = true →
      let go (op : SemOp) : Eff := .wait ((land s.cur.tile s.now (f.imm.truncate 8) s.cur.core op (onWord .c s)).modCcl fun y =>
        { y with req := some (.sem (f.imm.toNat % 256)) })
      exec (.semsig h f) s = .next (settle (onWord .c s) (go (.sig v))) ∧
        exec (.barrive h f) s = .next (settle (onWord .c s) (go .arrive)))

/-- A semaphore word completes with its answer (R188, R271): SEMWAIT, SEMRD, BARRIVE and BWAIT deliver its value to D,
SEMTRY writes the guard, and SEMSIG, SEMSET and BEXPECT deliver nothing.
ITER (R67, R68, R275): it asks the walker in the next walker cycle; with an iteration it writes s56 to s63 and sets
guard D, and without one it clears the guard and leaves the registers; the ordinal, or all ones, is pushed. -/
def Obligations.SemaphoreWordsComplete : Prop :=
  (∀ (h : Hdr) (f : RI) (a : Ans) (n : Nat) (s : State), Answered .c a s → (s.cc.clu .c).req = some (.sem n) →
    Resumes (.semwait h f) .c s (putRes .c 0 f.d f.w a.val (onWord .c s)) ∧
      Resumes (.semrd h f) .c s (putRes .c 0 f.d f.w a.val (onWord .c s)) ∧
      Resumes (.barrive h f) .c s (putRes .c 0 f.d f.w a.val (onWord .c s)) ∧
      Resumes (.bwait h f) .c s (putRes .c 0 f.d f.w a.val (onWord .c s)) ∧
      Resumes (.semtry h f) .c s (putGuard .c 0 f.d.toNat a.ok (onWord .c s)) ∧
      Resumes (.semsig h f) .c s (onWord .c s) ∧ Resumes (.semset h f) .c s (onWord .c s) ∧
      Resumes (.bexpect h f) .c s (onWord .c s)) ∧
  ((∀ (h : Hdr) (f : RI) (s : State), Issues .c h s → f.d ≠ 0 → f.d.toNat ≤ 7 →
      ∃ t, exec (.iter h f) s = .next t ∧ (t.cc.clu .c).req = some .walker ∧
        (s.cur.tile = t.cur.tile ∧ t.ct.walkq = s.ct.walkq ++ [{ cyc := s.now / 2, core := s.cur.core, nest := f.imm.toNat % 16 }])) ∧
    (∀ (h : Hdr) (f : RI) (a : Ans) (s : State), Answered .c a s → a.ok = true →
      ∃ u, Resumes (.iter h f) .c s u ∧
        u.cc.s = giveIteration (s.ct.nests.get (f.imm.toNat % 16) []) a.val.toNat s.cur.core s.cc.s ∧
        (u.cc.clu .c).lat.head? = some a.val) ∧
    ∀ (h : Hdr) (f : RI) (a : Ans) (s : State), Answered .c a s → a.ok = false →
      ∃ u, Resumes (.iter h f) .c s u ∧ u.cc.s = s.cc.s ∧ (u.cc.clu .c).lat.head? = some 0xFFFFFFFF ∧
        (0 < f.d.toNat → f.d.toNat < 8 → (u.cc.clu .c).guard f.d.toNat = false))

/-- EXIT, HALT and SAFEPT complete in a bundle (R78, R82, R277, R429): EXIT and HALT stop the four clusters after it;
SAFEPT keeps its live map and starts the watchdog's count again, but not in a trap handler.
TRAP and ERET complete in a bundle and act after it (R278, R279): TRAP notes its number and word; ERET, in a handler
with nothing left to restore and an empty handler queue, notes the return. -/
def Obligations.EndingAndTrapWordsComplete : Prop :=
  (∀ (h : Hdr) (s : State), Issues .c h s → h.sync = true →
    (∀ f, Completes (.exit h f) .c s ((stopAfter (atWord .c s)).modCc fun x =>
        { x with exited := some (f.imm.truncate 16), post := some (.exit (f.imm.truncate 16) (atWord .c s).ccl.pc) })) ∧
      (∀ f, Completes (.halt h f) .c s ((stopAfter (atWord .c s)).modCc fun x => { x with halted := true })) ∧
      (∀ f, f.imm.toNat < (atWord .c s).liveMaps s.cur.tile → (atWord .c s).cc.trap = false →
        Completes (.safept h f) .c s ((atWord .c s).modCc fun x =>
          { x with safeLast := some f.imm.toNat, liveMap := f.imm.toNat, issued := 0 })) ∧
      ∀ cl, ((stopAfter s).cc.clu cl).stat = .stopped) ∧
  (∀ (h : Hdr) (s : State), Issues .c h s → h.sync = true →
    (∀ f, Completes (.trap h f) .c s ((atWord .c s).modCc fun x =>
        { x with post := some (.trap (f.imm.truncate 8) (atWord .c s).ccl.pc) })) ∧
      ∀ f, (atWord .c s).cc.trap = true → ((atWord .c s).cc.msaved = true → (atWord .c s).cc.mrested = true) →
        (atWord .c s).cc.hxq = [] →
        Completes (.eret h f) .c s ((atWord .c s).modCc fun x => { x with post := some .eret }))

/-- RDSR, RDCNT and WRSR (R53, R136, R280, R283, R284): a listed register is read and its latched half kept or used up;
a row with a field to write is written.
CLKDIV and SEVT (R228, R276, R285): in a bundle, a divisor field of 0 keeps its divisor, the cluster divisor takes
effect from the next cycle on, and MDIV waits for the step boundary; SEVT notes one event for the fabric sequencer. -/
def Obligations.SpecialRegisterWordsComplete : Prop :=
  ((∀ (h : Hdr) (f : RI) (s : State) (v : Word), Issues .c h s → dstOk .c f.d = true →
      srValue (atWord .c s) (f.imm.toNat % 0x1000) = some v →
      (atWord .c s).flagsWait (f.imm.toNat % 0x1000) = false →
      Completes (.rdsr h f) .c s (putRes .c 1 f.d f.w v (srLatch (f.imm.toNat % 0x1000) (atWord .c s)))) ∧
    (∀ (h : Hdr) (f : RR) (s : State), Issues .c h s → dstOk .c f.d = true → Readable .c [f.a] (atWord .c s) →
      let r := readSrcs .c [f.a] (atWord .c s)
      let n := 0x110 + 2 * ((arg r.1 0).toNat % 16) + (if f.f.getLsbD 0 then 1 else 0)
      Completes (.rdcnt h f) .c s (putRes .c 1 f.d f.w ((srValue r.2 n).getD 0) (srLatch n r.2))) ∧
    (∀ (h : Hdr) (f : RI) (s : State), Issues .c h s → (srValue (atWord .c s) (f.imm.toNat % 0x1000)).isSome = true →
      srWritable (f.imm.toNat % 0x1000) = true → (atWord .c s).flagsWait (f.imm.toNat % 0x1000) = false →
      Readable .c [f.a] (atWord .c s) →
      let r := readSrcs .c [f.a] (atWord .c s)
      Completes (.wrsr h f) .c s (srWrite (f.imm.toNat % 0x1000) (arg r.1 0) r.2)) ∧
    (∀ (s : State) (v : Word), srValue (srWrite 0x015 v s) 0x015 = some (v &&& 0x0007FFFC)) ∧
    (∀ (s : State) (v : Word), s.cc.fpend = [] → srValue (srWrite 0x008 v s) 0x008 = some (v &&& 0x1F)) ∧
    ∀ s : State, srValue s 0x004 = some (BitVec.ofNat 32 s.now)) ∧
  ((∀ (h : Hdr) (f : RI) (s : State), Issues .c h s → h.sync = true → divOk (f.imm.toNat % 32) = true →
      divOk (f.imm.toNat / 256 % 32) = true →
      ∃ u, Completes (.clkdiv h f) .c s u ∧
        u.cc.cdiv = (if f.imm.toNat % 32 = 0 then (atWord .c s).cc.cdiv else f.imm.toNat % 32) ∧
        u.cc.mdivNew = (if f.imm.toNat / 256 % 32 = 0 then (atWord .c s).cc.mdivNew else f.imm.toNat / 256 % 32) ∧
        u.mem = s.mem ∧ ∀ d n, u.cc.reg d n = (atWord .c s).cc.reg d n) ∧
    ∀ (h : Hdr) (f : RI) (s : State), Issues .c h s →
      Completes (.sevt h f) .c s ((atWord .c s).modCt fun x =>
        { x with sevtPend := x.sevtPend ++ [(s.now, f.imm.toNat % 64)] }))

/-- XPUT, GOP and NOP (R77, R244, R265, R270): the value enters the named queue, which has 8 entries, by its arrival and
its source; the guard is looked up; nothing happens. -/
def Obligations.CommonWordsComplete : Prop :=
  (∀ (h : Hdr) (f : RR) (s : State), s.cur.cl ≠ .v → Issues s.cur.cl h s → f.d.toNat < 4 →
      Readable s.cur.cl [f.a] (atWord s.cur.cl s) →
      let r := readSrcs s.cur.cl [f.a] (atWord s.cur.cl s)
      (r.2.cc.clu (Cluster.ofCode f.d.toNat)).xq.length < 8 →
      Completes (.xput h f) s.cur.cl s (r.2.modCc fun x => x.modClu (Cluster.ofCode f.d.toNat) fun y =>
        y.enq (4 * s.now + s.cur.cl.code) (arg r.1 0) (r.2.cc.knows r.2.ct.jobCtr s.cur.cl))) ∧
    (∀ (h : Hdr) (f : RR) (s : State), s.cur.cl = .v → Issues .v h s → f.d.toNat < 4 →
      VReadable [] [(.int, f.a)] (atWord .v s) →
      let r := readVSrcs [(.int, f.a)] (atWord .v s)
      (r.2.cc.clu (Cluster.ofCode f.d.toNat)).xq.length < 8 →
      Completes (.xput h f) .v s (r.2.modCc fun x => x.modClu (Cluster.ofCode f.d.toNat) fun y =>
        y.enq (4 * s.now + 1) (lane (rarg r.1 0) 0) (r.2.cc.knows r.2.ct.jobCtr .v))) ∧
    (∀ (h : Hdr) (f : RR) (s : State), Issues s.cur.cl h s → f.d.toNat < 8 → f.a.toNat < 8 → f.b.toNat < 8 →
      let u := atWord s.cur.cl s
      Completes (.gop h f) s.cur.cl s (u.modCcl fun y => y.setGuard f.d.toNat
        (f.f.getLsbD ((if u.ccl.guard f.a.toNat then 2 else 0) + if u.ccl.guard f.b.toNat then 1 else 0)))) ∧
    ∀ (h : Hdr) (f : BitVec 52) (s : State), Issues s.cur.cl h s →
      Completes (.nop h f) s.cur.cl s (atWord s.cur.cl s)

/-- R265: GOP computes its guard from the table in F[3:0], pushes nothing, and a guard code above 7 faults with
RESERVED_OPERAND. -/
def Obligations.GopLooksUp : Prop :=
  ∀ (h : Hdr) (f : RR) (s : State), Issues s.cur.cl h s →
    let cl := s.cur.cl
    let u := atWord cl s
    (f.d.toNat < 8 → f.a.toNat < 8 → f.b.toNat < 8 → ∃ v, Completes (.gop h f) cl s v ∧
      (f.d ≠ 0 → (v.cc.clu cl).guard f.d.toNat =
        f.f.getLsbD (2 * ((u.cc.clu cl).guard f.a.toNat).toNat + ((u.cc.clu cl).guard f.b.toNat).toNat)) ∧
      (∀ n, n ≠ f.d.toNat → (v.cc.clu cl).guard n = (u.cc.clu cl).guard n) ∧ (v.cc.clu cl).guard 0 = true ∧
      (v.cc.clu cl).lat = (u.cc.clu cl).lat ∧ v.cc.vlat = u.cc.vlat ∧ v.mem = s.mem) ∧
    (8 ≤ f.d.toNat ∨ 8 ≤ f.a.toNat ∨ 8 ≤ f.b.toNat →
      exec (.gop h f) s = .next (settle u (.fault (u.recNow .reservedOperand))))

/-- R284: RDCNT reads the half h of event counter A[3:0], with exactly the effect of RDSR of number 0x110 + 2n + h. -/
def Obligations.RdcntIsRdsr : Prop :=
  ∀ (h : Hdr) (f : RR) (s : State), Issues .c h s → dstOk .c f.d = true → Readable .c [f.a] (atWord .c s) →
    let r := readSrcs .c [f.a] (atWord .c s)
    let n := (arg r.1 0).toNat % 16
    let m := 0x110 + 2 * n + (f.f.getLsbD 0).toNat
    (∃ v, srValue r.2 m = some v ∧ Completes (.rdcnt h f) .c s (putRes .c 1 f.d f.w v (srLatch m r.2))) ∧
    (∀ (g : RI) (u : State), Issues .c h u → g.d = f.d → g.imm.toNat % 0x1000 = m → ∃ v, srValue (atWord .c u) m = some v ∧
      Completes (.rdsr h g) .c u (putRes .c 1 g.d g.w v (srLatch m (atWord .c u)))) ∧
    (f.f.getLsbD 0 = false → srValue r.2 m = some ((r.2.ct.evtcnt.get n 0).truncate 32))

/-! ## The V cluster -/

/-- A V result placed (R287, R288, R238): under W, D keeps the bits that the word does not take and takes the others; sq
takes a row with zero in them, as its new youngest entry, or for the oldest store that waits for one (R75, R287, R288); q0 takes
the same row; the flags join FPFLAGS at delivery; no other D changes sq or a store that waits; masks, accumulators, memory and the registers of the module keep theirs. -/
def Obligations.VectorResultIsPlaced : Prop :=
  (∀ (n : Nat) (d : BitVec 7) (w : Bool) (bits new : Row) (fl : Fl) (s : State), vdstOk d = true →
    ∃ t, vplace n d w bits new fl s = .done t ∧
      (d.toNat < 32 → w = true → ∀ i, i < 2048 →
        (t.cc.vreg d.toNat).getLsbD i = if bits.getLsbD i then new.getLsbD i else (s.cc.vreg d.toNat).getLsbD i) ∧
      (∀ j, ¬(j = d.toNat ∧ w = true) → t.cc.vreg j = s.cc.vreg j) ∧
      (∃ q, t.cc.vlat = (q :: s.cc.vlat).take 4 ∧ ∀ i, i < 2048 →
        q.getLsbD i = if bits.getLsbD i then new.getLsbD i else
          decide (d.toNat < 32) && (s.cc.vreg d.toNat).getLsbD i) ∧
      ((∀ p ∈ s.cc.pend, p.data = none → p.sq = true) →
        t.cc.sqCount = s.cc.sqCount + (if d = 0x44 then 1 else 0)) ∧
      (d ≠ 0x44 → t.cc.sq = s.cc.sq ∧ t.cc.pend = s.cc.pend) ∧
      (d = 0x44 → (∀ p ∈ s.cc.pend, p.data ≠ none) → t.cc.pend = s.cc.pend ∧
        ∃ rc row, t.cc.sq = s.cc.sq ++ [(rc, row)] ∧ ∀ i, i < 2048 → row.getLsbD i = (bits.getLsbD i && new.getLsbD i)) ∧
      (∀ a p b, d = 0x44 → s.cc.pend = a ++ p :: b → (∀ x ∈ a, x.data ≠ none) → p.data = none → t.cc.sq = s.cc.sq ∧
        ∃ rc row, t.cc.pend = a ++ { p with data := some row, ready := rc } :: b ∧
          ∀ i, i < 2048 → row.getLsbD i = (bits.getLsbD i && new.getLsbD i)) ∧
      t.cc.flagsAll = s.cc.flagsAll ||| fl.bits ∧
      t.cc.k = s.cc.k ∧ t.cc.acc = s.cc.acc ∧ t.mem = s.mem ∧ t.hub = s.hub) ∧
  (∀ (n : Nat) (d : BitVec 7) (w : Bool) (m : BitVec 64) (new : Row) (fl : Fl) (s : State),
    vput n d w m new fl s = vplace n d w (laneBits m) new fl s) ∧
  ∀ (m : BitVec 64) (i : Nat), i < 64 → lane (laneBits m) i = if m.getLsbD i then 0xFFFFFFFF else 0

/-- R290 to R293 and R295, R296: the floating-point lane-wise words, with the rounding, saturation and negation bits of F
and their latencies and start intervals (R289). -/
def Obligations.VectorFloatWordsComplete : Prop :=
  LaneWord .vfadd { ec := 4 } (fun _ => [.fp32, .fp32]) (fun f l i =>
      fl32 (fp32.addB (vRnd f) (vSat f) (lane (rarg l 0) i).toNat (lane (rarg l 1) i).toNat)) ∧
    LaneWord .vfsub { ec := 4 } (fun _ => [.fp32, .fp32]) (fun f l i =>
      fl32 (fp32.subB (vRnd f) (vSat f) (lane (rarg l 0) i).toNat (lane (rarg l 1) i).toNat)) ∧
    LaneWord .vfmul { ec := 4 } (fun _ => [.fp32, .fp32]) (fun f l i =>
      fl32 (fp32.mulB (vRnd f) (vSat f) (lane (rarg l 0) i).toNat (lane (rarg l 1) i).toNat)) ∧
    LaneWord .vfma { ec := 4 } (fun _ => [.fp32, .fp32, .fp32]) (fun f l i =>
      fl32 (fp32.fmaB (vRnd f) (vSat f) (f.f.getLsbD 0) (f.f.getLsbD 1) (lane (rarg l 0) i).toNat
        (lane (rarg l 1) i).toNat (lane (rarg l 2) i).toNat)) ∧
    LaneWord .vfmin { ec := 2 } (fun _ => [.fp32, .fp32]) (fun f l i =>
      (fpPick false (f.f.getLsbD 0) (lane (rarg l 0) i) (lane (rarg l 1) i), {})) ∧
    LaneWord .vfmax { ec := 2 } (fun _ => [.fp32, .fp32]) (fun f l i =>
      (fpPick true (f.f.getLsbD 0) (lane (rarg l 0) i) (lane (rarg l 1) i), {})) ∧
    (∀ p ∈ [(Instr.vfrcp, rcpV), (.vfrsq, rsqV), (.vfexp2, exp2V), (.vflog2, log2V), (.vftanh, tanhV)],
      LaneWord p.1 { ec := 12, group := 1, every := 4 } (fun _ => [.fp32]) (fun _ l i => special p.2 (lane (rarg l 0) i))) ∧
    LaneWord .vhadd { ec := 4 } (fun f => [halfPos f, halfPos f]) (fun f l i => halves fun j =>
      (half16 f).addB (vRnd f) (vSat f) (half (lane (rarg l 0) i) j) (half (lane (rarg l 1) i) j)) ∧
    LaneWord .vhmul { ec := 4 } (fun f => [halfPos f, halfPos f]) (fun f l i => halves fun j =>
      (half16 f).mulB (vRnd f) (vSat f) (half (lane (rarg l 0) i) j) (half (lane (rarg l 1) i) j)) ∧
    LaneWord .vhfma { ec := 4 } (fun f => [halfPos f, halfPos f, halfPos f]) (fun f l i => halves fun j =>
      (half16 f).fmaB (vRnd f) (vSat f) false false (half (lane (rarg l 0) i) j) (half (lane (rarg l 1) i) j)
        (half (lane (rarg l 2) i) j)) ∧
    LaneWord .vhdot2 { ec := 5 } (fun f => [halfPos f, halfPos f, .fp32]) (fun f l i =>
      dot2 f (lane (rarg l 0) i) (lane (rarg l 1) i) (lane (rarg l 2) i))

/-- R297, R307, R308 and R309: the integer lane-wise words and VXSGN1, VMOV and VPERM raise no flag. -/
def Obligations.VectorIntegerWordsComplete : Prop :=
  (∀ p ∈ ([(.vadd, 1, fun _ a b => a + b), (.vsub, 1, fun _ a b => a - b), (.vmul, 3, fun _ a b => a * b),
        (.vmulh, 3, fun u a b => if u then (a.setWidth 64 * b.setWidth 64).extractLsb' 32 32
          else (a.signExtend 64 * b.signExtend 64).extractLsb' 32 32),
        (.vmin, 1, fun u a b => if (if u then a.ult b else a.slt b) then a else b),
        (.vmax, 1, fun u a b => if (if u then a.ult b else a.slt b) then b else a),
        (.vand, 1, fun _ a b => a &&& b), (.vor, 1, fun _ a b => a ||| b), (.vxor, 1, fun _ a b => a ^^^ b),
        (.vshl, 1, fun _ a b => a <<< (b.toNat % 32)), (.vshr, 1, fun _ a b => a >>> (b.toNat % 32)),
        (.vsar, 1, fun _ a b => a.sshiftRight (b.toNat % 32)),
        (.vadds, 1, fun u a b => sat32 u (intOf u a + intOf u b)),
        (.vsubs, 1, fun u a b => sat32 u (intOf u a - intOf u b))] :
      List ((Hdr → RR → Instr) × Nat × (Bool → Word → Word → Word))),
    LaneWord p.1 { ec := p.2.1 } (fun _ => [.int, .int]) (fun f l i =>
      (p.2.2 (f.f.getLsbD 0) (lane (rarg l 0) i) (lane (rarg l 1) i), {}))) ∧
    LaneWord .vmov { ec := 1 } (fun _ => [.int]) (fun _ l i => (lane (rarg l 0) i, {})) ∧
    LaneWord .vperm { ec := 2 } (fun _ => [.int, .int]) (fun f l i =>
      (if f.f.getLsbD 0 && (lane (rarg l 1) i).getLsbD 31 then 0
       else lane (rarg l 0) ((lane (rarg l 1) i).toNat % 64), {})) ∧
    LaneWord .vxsgn1 { ec := 2 } (fun _ => [.int]) (fun f l i =>
      (if rowBits (rarg l 0) (64 * (f.f.toNat % 2 ^ 17 / 2 % 16) + i) 1 = 1 then
        BitVec.ofNat 32 (rowBits (rarg l 0) (1024 + 32 * (f.f.toNat % 2 ^ 17 / 2 % 16)) 32) ^^^ 0x80000000
       else BitVec.ofNat 32 (rowBits (rarg l 0) (1024 + 32 * (f.f.toNat % 2 ^ 17 / 2 % 16)) 32), {})) ∧
    ∀ (v : Int), (sat32 false v).toInt = max (-0x80000000) (min 0x7FFFFFFF v) ∧
      ((sat32 true v).toNat : Int) = max 0 (min 0xFFFFFFFF v)

/-- R309: VPERM sets each active lane of D to the lane of A that bits [5:0] of B's lane name, or, with FN[0], to zero where
bit 31 of it is 1. -/
def Obligations.VpermSelects : Prop :=
  ∀ (h : Hdr) (f : RR) (s : State), Issues .v h s → vdstOk f.d = true →
    VReadable [vKm f] [(.int, f.a), (.int, f.b)] (atWord .v s) →
    let r := readVSrcs [(.int, f.a), (.int, f.b)] (atWord .v s)
    let x := rarg r.1 0
    let y := rarg r.1 1
    let g (i : Nat) : Word := if f.f.getLsbD 0 = true ∧ (lane y i).getLsbD 31 = true then 0 else lane x ((lane y i).toNat % 64)
    ∃ t, Completes (.vperm h f) .v s t ∧
      (f.d.toNat < 32 → f.w = true → ∀ i, i < 64 → lane (t.cc.vreg f.d.toNat) i =
        if (r.2.cc.mask (vKm f)).getLsbD i then g i else lane (r.2.cc.vreg f.d.toNat) i) ∧
      ∃ q, t.cc.vlat.head? = some q ∧ ∀ i, i < 64 → (r.2.cc.mask (vKm f)).getLsbD i = true → lane q i = g i

/-- VFSUM and VIRED (R138, R294, R299): every lane of D takes the tree's result over the active lanes, and the empty
tree's value where none is active.
VBCAST, VSEL, VIOTA, VINSL, VROTM, VZIP and VUNZIP (R308 to R311).
VEXTL (R77, R308): lane L of A enters the queue of cluster D when the word delivers, and no register changes. With one active lane VFSUM returns that lane as it is (the model's choice: log 41). -/
def Obligations.VectorMovesComplete : Prop :=
  (RowWord .vfsum { ec := 12, group := 0, every := 4 } (·.d) (·.w) (fun _ => true) (fun f => [vKm f])
      (fun f => [(.fp32, f.a)]) (fun _ _ _ => BitVec.allOnes 64) (fun f l u =>
        let r := treeFold (fun x y (a : Fl) =>
          (BitVec.ofNat 32 (fp32.addB (vRnd f) false x.toNat y.toNat).1, a.or (fp32.addB (vRnd f) false x.toNat y.toNat).2))
          0 (u.lanes f) (rarg l 0) {}
        (splat r.1, r.2)) ∧
    RowWord .vired { ec := 6, group := 2, every := 2 } (·.d) (·.w) (fun _ => true) (fun f => [vKm f])
      (fun f => [(.int, f.a)]) (fun _ _ _ => BitVec.allOnes 64) (fun f l u =>
        (splat (treeFold (fun x y (a : Unit) => ((redOp (f.f.toNat % 8)).1 x y, a)) (redOp (f.f.toNat % 8)).2 (u.lanes f)
          (rarg l 0) ()).1, {})) ∧
    (∀ (m : BitVec 64) (r : Row), m = 0 →
      (treeFold (fun x y (a : Unit) => ((redOp 0).1 x y, a)) (redOp 0).2 m r ()).1 = 0) ∧
    ∀ (m : BitVec 64) (r : Row) (k : Nat), k < 64 → m = 1#64 <<< k →
      ∀ n, n < 8 → (treeFold (fun x y (a : Unit) => ((redOp n).1 x y, a)) (redOp n).2 m r ()).1 = lane r k) ∧
  (RowWord .vbcast { ec := 1 } (·.d) (·.w) (fun _ => true) (fun f => [vKm f]) laneSrcs (fun f _ u => u.lanes f)
      (fun f l _ => (splat (lane (rarg l 0) (laneNum f l)), {})) ∧
    RowWord .vsel { ec := 1 } (·.d) (·.w) (fun f => idxOk f.c) (fun f => [vKm f, f.c.toNat])
      (fun f => [(.int, f.a), (.int, f.b)]) (fun f _ u => u.lanes f)
      (fun f l u => (blend (u.cc.mask f.c.toNat) (rarg l 0) (rarg l 1), {})) ∧
    RowWord .viota { ec := 1 } (·.d) (·.w) (fun f => idxOk f.c) (fun f => [vKm f, f.c.toNat])
      (fun f => [(.int, f.a)]) (fun f _ u => u.lanes f)
      (fun f l u => (mkRow fun i => lane (rarg l 0) i +
        BitVec.ofNat 32 ((List.range i).filter fun j => (u.cc.mask f.c.toNat).getLsbD j).length, {})) ∧
    RowWord .vinsl { ec := 1 } (·.d) (·.w) (fun _ => true) (fun f => [vKm f]) laneSrcs
      (fun f l u => u.lanes f &&& (1#64 <<< laneNum f l)) (fun _ l _ => (splat (lane (rarg l 0) 0), {})) ∧
    RowWord .vrotm { ec := 2 } (·.d) (·.w) (fun _ => true) (fun f => [vKm f])
      (fun f => [(.int, f.a), (.int, f.b)] ++ if f.f.getLsbD 8 then [] else [(.int, f.c)]) (fun f _ u => u.lanes f)
      (fun f l _ =>
        (((rarg l 1 ++ rarg l 0 : BitVec 4096) >>>
          (8 * (if f.f.getLsbD 8 then f.f.toNat % 256 else (lane (rarg l 2) 0).toNat % 256))).truncate 2048, {})) ∧
    RowWord .vzip { ec := 2 } (·.d) (·.w) (fun f => decide (f.f.toNat % 4 < 3)) (fun f => [vKm f])
      (fun f => [(.int, f.a), (.int, f.b)]) (fun f _ u => u.lanes f)
      (fun f l _ => (zipRow (8 * 2 ^ (f.f.toNat % 4)) (f.f.toNat / 4 % 2) (rarg l 0) (rarg l 1), {})) ∧
    RowWord .vunzip { ec := 2 } (·.d) (·.w) (fun f => decide (f.f.toNat % 4 < 3)) (fun f => [vKm f])
      (fun f => [(.int, f.a), (.int, f.b)]) (fun f _ u => u.lanes f)
      (fun f l _ => (unzipRow (8 * 2 ^ (f.f.toNat % 4)) (f.f.toNat / 4 % 2) (rarg l 0) (rarg l 1), {}))) ∧
  (∀ (h : Hdr) (f : RR) (s : State), Issues .v h s → f.d.toNat < 4 → VReadable [] (laneSrcs f) (atWord .v s) →
    let r := readVSrcs (laneSrcs f) (atWord .v s)
    (r.2.cc.clu (Cluster.ofCode f.d.toNat)).xq.length < 8 →
    ∃ u, Completes (.vextl h f) .v s u ∧
      (u.cc.clu (Cluster.ofCode f.d.toNat)).xq =
        keyPut (r.2.cc.clu (Cluster.ofCode f.d.toNat)).xq (4 * r.2.deliverAt .v 1 + 1) (lane (rarg r.1 0) (laneNum f r.1)) ∧
      u.cc.vlat = r.2.cc.vlat ∧ u.cc.v = r.2.cc.v ∧ u.mem = s.mem)

/-- VFCMP, VICMP, KAND, KOR, KXOR, KNOT, KPOP and KTEST (R292, R298, R312). -/
def Obligations.MaskWordsComplete : Prop :=
  (∀ (h : Hdr) (f : RR) (s : State), Issues .v h s → maskDst f.d = true →
      VReadable [vKm f] [(.fp32, f.a), (.fp32, f.b)] (atWord .v s) →
      let r := readVSrcs [(.fp32, f.a), (.fp32, f.b)] (atWord .v s)
      ∃ t, vmaskPut 2 f.d f.w (r.2.lanes f) (fun i =>
          fpCond (f.f.toNat % 8) (lane (rarg r.1 0) i) (lane (rarg r.1 1) i)) r.2 = .done t ∧
        Completes (.vfcmp h f) .v s t) ∧
    (∀ (h : Hdr) (f : RR) (s : State), Issues .v h s → maskDst f.d = true → f.f.toNat % 16 ≤ 10 →
      VReadable [vKm f] [(.int, f.a), (.int, f.b)] (atWord .v s) →
      let r := readVSrcs [(.int, f.a), (.int, f.b)] (atWord .v s)
      ∃ t, vmaskPut 1 f.d f.w (r.2.lanes f) (fun i =>
          condHolds (f.f.toNat % 16) (lane (rarg r.1 0) i) (lane (rarg r.1 1) i)) r.2 = .done t ∧
        Completes (.vicmp h f) .v s t) ∧
    (∀ p ∈ ([(.kand, 2, fun a b => a &&& b), (.kor, 2, fun a b => a ||| b), (.kxor, 2, fun a b => a ^^^ b),
          (.knot, 1, fun a _ => ~~~a)] : List ((Hdr → RR → Instr) × Nat × (BitVec 64 → BitVec 64 → BitVec 64))),
      ∀ (h : Hdr) (f : RR) (s : State), Issues .v h s → maskDst f.d = true → (rrOps p.2.1 f).all idxOk = true →
        RegsReadable .v ((rrOps p.2.1 f).map fun m => 128 + m.toNat) (atWord .v s) →
        ∃ t, vmaskPut 1 f.d f.w (BitVec.allOnes 64) (fun i =>
            (p.2.2 ((atWord .v s).cc.mask f.a.toNat) ((atWord .v s).cc.mask f.b.toNat)).getLsbD i) (atWord .v s) = .done t ∧
          Completes (p.1 h f) .v s t) ∧
    (∀ (h : Hdr) (f : RR) (s : State), Issues .v h s → vdstOk f.d = true → f.a.toNat < 8 →
      RegsReadable .v [128 + f.a.toNat] (atWord .v s) →
      ∃ t, vput 1 f.d f.w (BitVec.allOnes 64)
          (splat (BitVec.ofNat 32 ((List.range 64).filter fun i => ((atWord .v s).cc.mask f.a.toNat).getLsbD i).length)) {}
          (atWord .v s) = .done t ∧ Completes (.kpop h f) .v s t) ∧
    (∀ (h : Hdr) (f : RR) (s : State), Issues .v h s → f.d.toNat < 8 → f.a.toNat < 8 → f.b.toNat < 8 →
      RegsReadable .v [128 + f.a.toNat, 128 + f.b.toNat] (atWord .v s) →
      ∃ u, Completes (.ktest h f) .v s u ∧
        (f.w = true → (u.cc.clu .v).guard f.d.toNat = (decide (f.d.toNat = 0) ||
          (let a := (atWord .v s).cc.mask f.a.toNat
           let b := (atWord .v s).cc.mask f.b.toNat
           if f.f.getLsbD 0 then decide (a &&& b = b) else decide (a &&& b ≠ 0)))) ∧
        (f.w = false → (u.cc.clu .v).guards = ((atWord .v s).cc.clu .v).guards)) ∧
    ∀ (n : Nat) (d : BitVec 7) (w : Bool) (m : BitVec 64) (test : Nat → Bool) (s : State), maskDst d = true →
      ∃ t, vmaskPut n d w m test s = .done t ∧
        (w = true → 1 ≤ d.toNat → d.toNat < 8 → ∀ i, i < 64 →
          (t.cc.mask d.toNat).getLsbD i = (m.getLsbD i && test i)) ∧
        (∀ j, ¬(w = true ∧ j = d.toNat) → t.cc.mask j = s.cc.mask j) ∧ t.cc.mask 0 = BitVec.allOnes 64 ∧
        t.cc.v = s.cc.v ∧ t.mem = s.mem

/-- VACCRD and VACCWR (R131, R313): row (A + ROWOFF) mod 64 of a bank, drained or raw, into the active lanes of D; the
active columns of the row from the source, converted or raw, the other bits and columns kept. Neither is delivered before the
step boundary of the matrix engine (R301, R314). An element that a word reads, or writes in part, is none found uncorrectable
(R443). That the element of the bank is read or written at the word's issue, with what stands at the end of the matrix step
under way, is the model's choice (log 22). -/
def Obligations.AccumulatorWordsComplete : Prop :=
  (∀ (h : Hdr) (f : RI) (s : State), Issues .v h s → vdstOk f.d = true → f.f5.toNat % 4 < 3 →
      VReadable [accKm f] [(.int, f.a)] (atWord .v s) →
      let r := readVSrcs [(.int, f.a)] (atWord .v s)
      PaceFree { ec := 6, group := 5, every := 2 } r.2 →
      let u := pacedState { ec := 6, group := 5, every := 2 } r.2
      let row := ((lane (rarg r.1 0) 0).toNat % 64 + f.imm.toNat / 16 % 64) % 64
      u.badAccRow u.cur.tile u.cur.core (f.imm.toNat % 16) row (u.accLanes f) = none →
      let g := fun c =>
        let x := u.cc.accEl (f.imm.toNat % 16) row c
        if f.f5.toNat % 4 = 0 then fl32 (fp32.round (f.f5.toNat / 4 % 4) (f.f5.getLsbD 4) (acc48.decode x.toNat))
        else if f.f5.toNat % 4 = 1 then (x.truncate 32, {})
        else ((x.extractLsb' 32 16).setWidth 32, {})
      ∃ t, vput (accEc 6 u) f.d f.w (u.accLanes f) (flagLanes (u.accLanes f) g).1 (flagLanes (u.accLanes f) g).2
          (accFloor (accEc 6 u) u) = .done t ∧
        Completes (.vaccrd h f) .v s t) ∧
    (∀ (h : Hdr) (f : RI) (s : State), Issues .v h s → accSrcOk f.d = true → f.f5.toNat % 4 < 3 →
      VReadable [accKm f] [(.int, f.a), (.int, f.d)] (atWord .v s) →
      let r := readVSrcs [(.int, f.a), (.int, f.d)] (atWord .v s)
      PaceFree { ec := 2, group := 6, every := 2 } r.2 →
      let v := pacedState { ec := 2, group := 6, every := 2 } r.2
      let row := ((lane (rarg r.1 0) 0).toNat % 64 + f.imm.toNat / 16 % 64) % 64
      (f.f5.toNat % 4 ≠ 0 → v.badAccRow v.cur.tile v.cur.core (f.imm.toNat % 16) row (v.accLanes f) = none) →
      ∃ u, Completes (.vaccwr h f) .v s u ∧ u.cc.v = v.cc.v ∧ u.mem = s.mem ∧
        (u.cc.clu .v).last = v.deliverAt .v (accEc 2 v) ∧
        ∀ b m n, b < 16 → m < 64 → n < 64 → u.cc.accEl b m n =
          if b = f.imm.toNat % 16 ∧ m = row ∧ (v.accLanes f).getLsbD n = true then
            (let old := v.cc.accEl b m n
             let w := lane (rarg r.1 1) n
             if f.f5.toNat % 4 = 0 then BitVec.ofNat 48 (acc48.round 0 false (fp32.decode w.toNat)).1
             else if f.f5.toNat % 4 = 1 then old.extractLsb' 32 16 ++ w
             else (w.truncate 16 : BitVec 16) ++ (old.truncate 32 : BitVec 32))
          else v.cc.accEl b m n) ∧
    ∀ (n : Nat) (s : State), n ≤ accEc n s ∧ (1 ≤ s.cc.cdiv → s.cc.stepBoundary s.now ≤ s.now + s.cc.cdiv * accEc n s)

/-- VCVT, VQUANT, VDEQ and VSGN1 (R302, R304 to R306, R141 to R143): which bits of D an element takes (VectorResultIsPlaced says what the
others keep), the two slots and byte 255 of the scale forms, the lanes of VDEQ, the sign bits and the
scale of VSGN1 and its residual lanes. -/
def Obligations.VectorConversionsComplete : Prop :=
  SuchRowWord .vcvt { ec := 4 }
      (fun f => cvtWidth (fnBits f % 32) != 0 && cvtWidth (fnBits f / 32 % 32) != 0 &&
        decide (fnBits f / 1024 % 4 * cvtWidth (fnBits f % 32) < 32) &&
        decide (fnBits f / 4096 % 4 * cvtWidth (fnBits f / 32 % 32) < 32))
      (fun f => [vKm f]) (fun f => [(cvtPos (fnBits f % 32), f.a)])
      (fun f l u bits row fl =>
        let sw := cvtWidth (fnBits f % 32)
        let tw := cvtWidth (fnBits f / 32 % 32)
        let c := fun e => convert (fnBits f % 32) (fnBits f / 32 % 32) (vRnd f) (vSat f)
          (rowBits (rarg l 0) (sw * (64 * (fnBits f / 1024 % 4) + e)) sw)
        let at' := 64 * tw * (fnBits f / 4096 % 4)
        (∀ e, e < 64 → (u.lanes f).getLsbD e = true → rowBits row (at' + tw * e) tw = (c e).1 % 2 ^ tw) ∧
        (∀ n, n < 2048 → bits.getLsbD n =
          (decide (at' ≤ n ∧ n < at' + 64 * tw) && (u.lanes f).getLsbD ((n - at') / tw))) ∧
        fl = ((List.range 64).filter fun e => (u.lanes f).getLsbD e).foldl (fun a e => a.or (c e).2) {}) ∧
  SuchRowWord .vquant { ec := 8, group := 3, every := 2 }
      (fun f => mxCode f != 3 && (if f.f.getLsbD 1 then decide (mxPos f ≤ 84) else mxPosOk f))
      (fun _ => []) (fun f => [(.fp32, f.a), (.int, f.c)])
      (fun f l u bits row fl =>
        let w := mxWidth (mxCode f)
        let prev := prevScale (rarg l 1)
        let s0 := blockScale w prev (blockVals (rarg l 0) 0)
        let s1 := blockScale w s0 (blockVals (rarg l 0) 1)
        let q := fun i => quantElem w (vRnd f) (if i < 32 then s0 else s1) (fp32.decode (lane (rarg l 0) i).toNat)
        if f.f.getLsbD 1 = true then
          rowBits row (24 * mxPos f) 12 = slotBits prev s0 % 2 ^ 12 ∧
            rowBits row (24 * mxPos f + 12) 12 = slotBits s0 s1 % 2 ^ 12 ∧ rowBits row 2040 8 = truncInt 8 s1 ∧
            (∀ n, n < 2048 → bits.getLsbD n = decide (24 * mxPos f ≤ n ∧ n < 24 * mxPos f + 24 ∨ 2040 ≤ n)) ∧
            fl = {}
        else
          (∀ i, i < 64 → rowBits row (64 * w * mxPos f + w * i) w = (q i).1) ∧
            (∀ n, n < 2048 → bits.getLsbD n = decide (64 * w * mxPos f ≤ n ∧ n < 64 * w * (mxPos f + 1))) ∧
            fl = (List.range 64).foldl (fun a i => a.or (q i).2) {}) ∧
  (∀ (h : Hdr) (f : RR) (s : State), Issues .v h s → vdstOk f.d = true →
    (mxCode f != 3 && decide (fnBits f / 1024 % 128 ≤ 84) && (f.f.getLsbD 1 || mxPosOk f)) = true →
    let cs : List (Pos × BitVec 7) := (if f.f.getLsbD 1 then [] else [(.int, f.a)]) ++ [(.int, f.b), (.int, f.c)]
    VReadable (if f.f.getLsbD 1 then [] else [vKm f]) cs (atWord .v s) →
    let r := readVSrcs cs (atWord .v s)
    let w := mxWidth (mxCode f)
    let base := if f.f.getLsbD 1 then 0 else 1
    let nib := fun n => rowBits (rarg r.1 base) (24 * (fnBits f / 1024 % 128) + 4 * n) 4
    let s0 := slotScale (prevScale (rarg r.1 (base + 1))) (nib 0) (nib 1) (nib 2)
    let s1 := slotScale s0 (nib 3) (nib 4) (nib 5)
    ∃ t, Completes (.vdeq h f) .v s t ∧
      if f.f.getLsbD 1 = true then
        ∃ bits row, vplace 4 f.d f.w bits row {} r.2 = .done t ∧ rowBits row 2040 8 = truncInt 8 s1 ∧
          ∀ n, n < 2048 → bits.getLsbD n = decide (2040 ≤ n)
      else
        let g := fun i => fl32 (fp32.round (vRnd f) false
          ((intV (sextNat w (rowBits (rarg r.1 0) (64 * w * mxPos f + w * i) w))).scale (if i < 32 then s0 else s1)))
        vput 4 f.d f.w (r.2.lanes f) (flagLanes (r.2.lanes f) g).1 (flagLanes (r.2.lanes f) g).2 r.2 = .done t) ∧
  SuchRowWord .vsgn1 { ec := 14, group := 4, every := 4 } (fun _ => true) (fun _ => [])
      (fun f => [(.fp32, f.a), (.fp32, f.b)])
      (fun f l _ bits row fl =>
        let x := fun i => fp32.addB 0 false (lane (rarg l 0) i).toNat (lane (rarg l 1) i).toNat
        let v := fun i => BitVec.ofNat 32 (x i).1
        let sc := (sgnScale (mkRow v)).1
        let g := fnBits f / 2 % 16
        if f.f.getLsbD 0 = true then
          (∀ i, i < 64 → rowBits row (64 * g + i) 1 = if (v i).getLsbD 31 then 1 else 0) ∧
            rowBits row (1024 + 32 * g) 32 = sc.toNat ∧
            fl = {} ∧ ∀ n, n < 2048 → bits.getLsbD n =
              decide (64 * g ≤ n ∧ n < 64 * g + 64 ∨ 1024 + 32 * g ≤ n ∧ n < 1024 + 32 * g + 32)
        else
          (∀ n, n < 2048 → bits.getLsbD n = true) ∧ ∀ i, i < 64 → lane row i = (fl32 (if (v i).getLsbD 31 then fp32.addB 0 false (v i).toNat sc.toNat
            else fp32.subB 0 false (v i).toNat sc.toNat)).1)

/-! ## The M cluster -/

/-- R316 and R317: the address words write D, or the pair D, after one engine cycle; ACMP its guard. A pair holds its 64-bit
value, its low half is pushed, and the other registers and memory stay. -/
def Obligations.AddressWordsComplete : Prop :=
  (∀ p ∈ ([(.aadd, 2, fun l => arg l 0 + arg l 1), (.asub, 2, fun l => arg l 0 - arg l 1),
        (.aand, 2, fun l => arg l 0 &&& arg l 1), (.amov, 1, fun l => arg l 0)] :
        List ((Hdr → RR → Instr) × Nat × (List Word → Word))),
    ∀ (h : Hdr) (f : RR) (s : State), Issues .m h s → dstOk .m f.d = true → Readable .m (rrOps p.2.1 f) (atWord .m s) →
      (f.w = true → (atWord .m s).owed .m [f.d.toNat] = false) →
      let r := readSrcs .m (rrOps p.2.1 f) (atWord .m s)
      Completes (p.1 h f) .m s (putRes .m 1 f.d f.w (p.2.2 r.1) r.2)) ∧
    (∀ p ∈ ([(.aaddi, true, fun a i => a + i), (.ashli, true, fun a i => a <<< (i.toNat % 32)),
          (.amovi, false, fun _ i => i)] : List ((Hdr → RI → Instr) × Bool × (Word → Word → Word))),
      ∀ (h : Hdr) (f : RI) (s : State), Issues .m h s → dstOk .m f.d = true →
        let cs := if p.2.1 then [f.a] else []
        Readable .m cs (atWord .m s) → (f.w = true → (atWord .m s).owed .m [f.d.toNat] = false) →
        let r := readSrcs .m cs (atWord .m s)
        Completes (p.1 h f) .m s (putRes .m 1 f.d f.w (p.2.2 (arg r.1 0) f.imm) r.2)) ∧
    (∀ (h : Hdr) (f : RR) (s : State), Issues .m h s → (pairOk f.d && pairOk f.a) = true →
      Readable .m [f.b] (atWord .m s) → RegsReadable .m [f.a.toNat, f.a.toNat + 1] (atWord .m s) →
      (f.w = true → (atWord .m s).owed .m [f.d.toNat, f.d.toNat + 1] = false) →
      let r := readSrcs .m [f.b] (atWord .m s)
      Completes (.aadd64 h f) .m s (putPair f.d f.w ((atWord .m s).cc.pair f.a.toNat +
        (if f.f.getLsbD 0 then (arg r.1 0).setWidth 64 else (arg r.1 0).signExtend 64)) r.2)) ∧
    (∀ (h : Hdr) (f : RI) (s : State), Issues .m h s → (pairOk f.d && pairOk f.a) = true →
      RegsReadable .m [f.a.toNat, f.a.toNat + 1] (atWord .m s) →
      (f.w = true → (atWord .m s).owed .m [f.d.toNat, f.d.toNat + 1] = false) →
      Completes (.aaddi64 h f) .m s
        (putPair f.d f.w ((atWord .m s).cc.pair f.a.toNat + f.imm.signExtend 64) (atWord .m s))) ∧
    (∀ (h : Hdr) (f : RR) (s : State), Issues .m h s → f.d.toNat < 8 → f.f.toNat % 16 ≤ 10 →
      Readable .m [f.a, f.b] (atWord .m s) →
      let r := readSrcs .m [f.a, f.b] (atWord .m s)
      Completes (.acmp h f) .m s
        (putGuard .m 1 f.d.toNat (condHolds (f.f.toNat % 16) (arg r.1 0) (arg r.1 1)) r.2)) ∧
    ∀ (d : BitVec 7) (w : Bool) (v : BitVec 64) (s : State),
      let u := putPair d w v s
      (w = true → u.cc.pair d.toNat = v) ∧
        (∀ n, ¬(w = true ∧ (n = d.toNat ∨ n = d.toNat + 1)) → u.cc.reg .m n = s.cc.reg .m n) ∧
        (u.cc.clu .m).lat = (v.truncate 32 :: (s.cc.clu .m).lat).take 4 ∧ u.mem = s.mem ∧ u.hub = s.hub

/-- R318 to R320: a load from the module itself delivers the row or the word at its aligned address, into a new entry of lq
or into D, and an acquire has what was released to it; no byte of memory changes. A load through a window completes with its
reply. That a load of the module itself takes its value at issue, and that it is delivered after the one engine cycle, or those
counted, of `loadEc`, a bank's not before its step boundary, is the model's choice (logs 7, 8). -/
def Obligations.LoadsComplete : Prop :=
  (∀ (h : Hdr) (f : MemF) (s : State) (mpa : Nat), Issues .m h s → f.sz = 1 → loadOrd f = true →
    f.d = 0x44 ∨ f.d = 0x7F → RegsReadable .m (baseRegs f) (atWord .m s) →
    (f.d = 0x44 → (atWord .m s).cc.lq.length < 16) →
    LoadsFrom 256 (((atWord .m s).ea f).toNat / 256 * 256) mpa (atWord .m s) →
    let t := askRows (askerM s.cur.tile s.cur.core) [mpa]
        (countRead mpa 256 (bankFloor (atWord .m s) mpa (loadEc (atWord .m s) mpa)))
    Completes (.vld h f) .m s
      ((if f.d = 0x44 then fillLq (loadEc (atWord .m s) mpa) ((atWord .m s).readRow mpa) t else t).acquired f)) ∧
    (∀ (h : Hdr) (f : MemF) (s : State) (mpa : Nat), Issues .m h s → f.sz = 0 → loadOrd f = true →
      f.d = 0x44 ∨ dstOk .m f.d = true → RegsReadable .m (baseRegs f) (atWord .m s) →
      (atWord .m s).owed .m (dstRegs f) = false →
      (f.d = 0x44 → (atWord .m s).cc.lq.length < 16) →
      LoadsFrom 4 (((atWord .m s).ea f).toNat / 4 * 4) mpa (atWord .m s) →
      let t := askRows (askerM s.cur.tile s.cur.core) [mpa]
        (countRead mpa 4 (bankFloor (atWord .m s) mpa (loadEc (atWord .m s) mpa)))
      let w := (atWord .m s).readWord mpa
      Completes (.sld h f) .m s
        ((if f.d = 0x44 then fillLq (loadEc (atWord .m s) mpa) (splat w) t
          else putRes .m (loadEc (atWord .m s) mpa) f.d f.w w t).acquired f)) ∧
    (∀ (h : Hdr) (f : MemF) (s : State) (a : Ans), Answered .m a s → f.sz = 1 → loadOrd f = true →
      f.d = 0x44 ∨ f.d = 0x7F →
      Resumes (.vld h f) .m s ((if f.d = 0x44 then fillLq 0 a.row (onWord .m s) else onWord .m s).acquired f)) ∧
    (∀ (h : Hdr) (f : MemF) (s : State) (a : Ans), Answered .m a s → f.sz = 0 → loadOrd f = true →
      f.d = 0x44 ∨ dstOk .m f.d = true →
      Resumes (.sld h f) .m s ((if f.d = 0x44 then fillLq 0 (splat (lane a.row 0)) (onWord .m s)
        else putRes .m 0 f.d f.w (lane a.row 0) (onWord .m s)).acquired f)) ∧
    ∀ (f : MemF) (n m mpa : Nat) (r : Row) (s : State),
      (let t := (askRows (askerM s.cur.tile s.cur.core) [mpa] (countRead mpa n (bankFloor s mpa m))).acquired f
       t.mem = s.mem ∧ t.hub = s.hub ∧ t.cc.a = s.cc.a ∧ t.cc.v = s.cc.v ∧ t.cc.lq = s.cc.lq) ∧ (fillLq n r s).mem = s.mem ∧
        ((∀ o ∈ s.cc.lq, o.isSome = true) →
          (fillLq n r s).cc.lq = s.cc.lq ++ [some (ecAfter s.now s.cc.cdiv n, r)]) ∧
        (fillLq n r s).cc.a = s.cc.a ∧ (fillLq n r s).cc.v = s.cc.v

/-- R75, R319 and R321 to R323: VST claims the oldest unclaimed entry of sq, SST that or a register; the store, to the
module itself or through a window, stands behind the core's earlier ones, and those that can be performed are performed.
VSTM queues a row for its group. -/
def Obligations.StoresComplete : Prop :=
  (∀ (h : Hdr) (f : MemF) (s : State) (win : Option Nat) (hd mpa : Nat), Issues .m h s → f.sz = 1 → storeOrd f = true →
    f.d = 0x44 → RegsReadable .m (baseRegs f) (atWord .m s) → SqGood (atWord .m s) →
    (atWord .m s).cc.pend.length < 16 →
    StoresAt true (((atWord .m s).ea f).toNat / 256 * 256) win hd mpa (atWord .m s) →
    let q := claimSq (atWord .m s)
    Completes (.vst h f) .m s
      (queueStore (storeOf f none win hd mpa ((q.1.map Prod.fst).getD 0) (q.1.map Prod.snd) (atWord .m s)) q.2)) ∧
    (∀ (h : Hdr) (f : MemF) (s : State) (win : Option Nat) (hd mpa : Nat), Issues .m h s → f.sz = 0 →
      storeOrd f = true → f.d ≠ 0x44 → Readable .m [f.d] (atWord .m s) → RegsReadable .m (baseRegs f) (atWord .m s) →
      (atWord .m s).cc.pend.length < 16 →
      let t := atWord .m s
      let r := readSrcs .m [f.d] t
      let va := (t.ea f).toNat / 4 * 4
      StoresAt false va win hd mpa r.2 →
      Completes (.sst h f) .m s
        (queueStore (storeOf f (some (va / 4 % 64)) win hd mpa 0
          (some ((arg r.1 0).setWidth 2048 <<< (32 * (va / 4 % 64)))) t) r.2)) ∧
    (∀ (h : Hdr) (f : MemF) (s : State) (win : Option Nat) (hd mpa : Nat), Issues .m h s → f.sz = 0 →
      storeOrd f = true → f.d = 0x44 → RegsReadable .m (baseRegs f) (atWord .m s) →
      SqGood (atWord .m s) → (atWord .m s).cc.pend.length < 16 →
      let t := atWord .m s
      let va := (t.ea f).toNat / 4 * 4
      StoresAt false va win hd mpa t →
      let q := claimSq t
      Completes (.sst h f) .m s
        (queueStore (storeOf f (some (va / 4 % 64)) win hd mpa ((q.1.map Prod.fst).getD 0) (q.1.map Prod.snd) t) q.2)) ∧
    ∀ (h : Hdr) (f : MemF) (s : State), Issues .m h s → f.sz = 1 → storeOrd f = true → f.d = 0x44 →
      Readable .m [f.x] (atWord .m s) → RegsReadable .m (baseRegs f) (atWord .m s) → SqGood (atWord .m s) →
      let t := atWord .m s
      let r := readSrcs .m [f.x] t
      let gid := (arg r.1 0).toNat % 256
      let g := r.2.ct.groups.get gid {}
      g.v = true → (r.2.circ s.cur.tile g.handle.toNat).usable = true → r.2.cc.pend.length < 16 →
      let q := claimSq r.2
      Completes (.vstm h f) .m s
        (queueStore { storeOf f none none g.handle.toNat ((t.ea f).toNat % 2 ^ 48 / 256 * 256)
            ((q.1.map Prod.fst).getD 0) (q.1.map Prod.snd) t with va := t.ea f, group := some (gid, g.gen) } q.2)

/-- R75, R96, R181 and R321: a store at home whose data are there, while no atomic of its core stands before it, writes its row or word at its aligned address, and every
other byte reads as before, in a memory in canonical form: a byte of the tile's register files too, unless a push of the V
cluster gets its room in sq by it (R288); a store through a window or to a group, or one that still waits, writes nothing. -/
def Obligations.StoreWritesItsBytes : Prop :=
  ∀ (p : PendStore) (s : State), Safe s → s.cc.pend = [] → p.amo = none →
    (p.remote = true ∨ p.data = none → (queueStore p s).mem = s.mem) ∧
    (p.remote = false → p.data.isSome = true → p.ready ≤ s.now → p.rel = false → s.ct.amoAtPort s.cur.core = false →
      (∀ a, storedAt p a → InMemory s a) →
      let u := queueStore p s
      u.cc.pend = [] ∧ (∀ a, ¬storedAt p a → FreesNothing s ∨ OutsideFiles s a → u.readByte a = s.readByte a) ∧
        match p.lane with
        | some _ => u.readWord p.mpa = storeWord p
        | none => u.readRow p.mpa = storeRow p)

/-- R318, R324 and R325: an atomic on the module itself is queued with X and D as they stand and its word completes; one
through a window is sent, and its word completes with the old value that comes back.
R181, R324 and R325: the memory port performs the one atomic of its queue on the word, and delivers the old value to its
core: to the register that waits for it and to the latch that its push belongs to. No other byte of memory changes, a byte of
the tile's register files apart where the old value, or a push of the V cluster that waited for room in sq (R288), is
delivered to one. -/
def Obligations.AtomicsComplete : Prop :=
  ((∀ p ∈ ([(.amoadd, 0x18), (.amomin, 0x19), (.amomax, 0x1A), (.amoand, 0x1B), (.amoor, 0x1C), (.amoxor, 0x1D),
      (.amoswp, 0x1E), (.amocas, 0x1F), (.amofadd, 0x20)] : List ((Hdr → MemF → Instr) × Nat)),
    ∀ (h : Hdr) (f : MemF) (s : State),
      (∀ (a : Ans) (hd ea : Nat), Answered .m a s → Waits .m (.reply hd ea) s →
        Resumes (p.1 h f) .m s ((putRes .m 0 f.d f.w a.val (onWord .m s)).acquired f)) ∧
      (Issues .m h s → f.sz = 0 →
        (if p.2 = 0x1F then f.d.toNat < 64 else dstOk .m f.d = true) → Readable .m [f.x] (atWord .m s) →
        RegsReadable .m (baseRegs f ++ if p.2 = 0x1F then [f.d.toNat] else []) (atWord .m s) →
        (atWord .m s).owed .m (dstRegs f) = false → (atWord .m s).cc.amoWaits = false →
        let t := atWord .m s
        let va := (t.ea f).toNat / 4 * 4
        let r := readSrcs .m [f.x] t
        let x := if p.2 = 0x20 ∧ 0x60 ≤ f.x.toNat then inlineFp32 f.x else arg r.1 0
        (∀ mpa, amoPlace p.2 va t = .ok (.loc mpa) →
          pendBlocks r.2.cc none 0 mpa = false → r.2.ct.behindMark mpa = false → r.2.badIn mpa 4 = none →
          Completes (p.1 h f) .m s
            (amoLocal (BitVec.ofNat 7 p.2) f (BitVec.ofNat 60 va) mpa x (t.cc.reg .m f.d.toNat) r.2)) ∧
        (∀ w mpa, amoPlace p.2 va t = .ok (.win w mpa) → f.ord.toNat < 2 → r.2.winRoom s.cur.tile w = true →
          pendBlocks r.2.cc (some w) (r.2.ct.wins.get w {}).handle.toNat mpa = false →
          ∃ u, IssuesInto (p.1 h f) .m s u ∧
            (u.cc.clu .m).req = some (.reply (r.2.ct.wins.get w {}).handle.toNat va)))) ∧
  ∀ (op : BitVec 7) (f : MemF) (va : Va) (mpa : Nat) (x prev : Word) (s : State), f.ord.toNat < 2 →
    let u := amoLocal op f va mpa x prev s
    u.mem = s.mem ∧ u.cc.a = s.cc.a ∧ u.ct.portq = s.ct.portq ++
      [⟨s.cur.core, mpa, ⟨op, x, prev, if f.w && decide (f.d.toNat < 64) then some f.d.toNat else none,
        s.cc.m.pushes + 1, f.ord.getLsbD 0⟩⟩]) ∧
  (∀ (s : State) (q : PortReq), Safe s → s.ct.portq = [q] → s.cc.pend = [] →
    (∀ a, q.mpa / 4 * 4 ≤ a → a < q.mpa / 4 * 4 + 4 → InMemory s a) →
    ∃ u, exec .memoryPortApply s = .next u ∧ u.ct.portq = [] ∧
      (∀ n, q.amo.d = some n → (u.core s.cur.tile q.core).reg .m n = s.readWord q.mpa) ∧
      (let c := (s.core s.cur.tile q.core).m
       c.pushes - q.amo.mark < c.lat.length →
        (u.core s.cur.tile q.core).m.lat[c.pushes - q.amo.mark]? = some (s.readWord q.mpa)) ∧
      u.readWord q.mpa =
        (amoNew q.amo.op.toNat (s.readWord q.mpa) q.amo.x q.amo.prev).getD (s.readWord q.mpa) ∧
      ∀ a, a < q.mpa / 4 * 4 ∨ q.mpa / 4 * 4 + 4 ≤ a → (FreesNothing s ∧ q.amo.d = none) ∨ OutsideFiles s a →
        u.readByte a = s.readByte a)

/-- R174, R175, R326 to R328: a fence completes once what it waits for is done, at issue or while it waits; else it waits.
WMWAIT likewise on its watermark. They change no register and no memory. -/
def Obligations.FencesComplete : Prop :=
  (∀ p ∈ ([(.fence, fun _ => true, fun _ => 0),
        (.xfence, fun f => decide (f.x.toNat % 8 ≤ 4) && decide (f.x.toNat / 8 % 8 ≤ 2) && decide (f.x.toNat < 64),
          fun f => f.x.toNat % 8)] : List ((Hdr → MemF → Instr) × (MemF → Bool) × (MemF → Nat))),
    ∀ (h : Hdr) (f : MemF) (s : State),
      (Issues .m h s → p.2.1 f = true →
        let t := atWord .m s
        (fenceDone t (t.cc.knows t.ct.jobCtr .m) t.ct.atPort (p.2.2 f) f.sc.toNat = true → Completes (p.1 h f) .m s t) ∧
        (fenceDone t (t.cc.knows t.ct.jobCtr .m) t.ct.atPort (p.2.2 f) f.sc.toNat = false →
          ∃ u, IssuesInto (p.1 h f) .m s u ∧ (u.cc.clu .m).req = some (.fence t.ct.atPort) ∧ u.mem = s.mem)) ∧
      (∀ rx, Waits .m (.fence rx) s →
        fenceDone (onWord .m s) (onWord .m s).ccl.since rx (p.2.2 f) f.sc.toNat = true →
        Resumes (p.1 h f) .m s (onWord .m s))) ∧
    ∀ (h : Hdr) (f : MemF) (s : State),
      (Issues .m h s → f.x.getLsbD 3 = true →
        (markDone (atWord .m s) f 0 = true → Completes (.wmwait h f) .m s (atWord .m s)) ∧
        (markDone (atWord .m s) f 0 = false →
          ∃ u, IssuesInto (.wmwait h f) .m s u ∧ (u.cc.clu .m).req = some (.watermark none) ∧ u.mem = s.mem)) ∧
      (∀ mpa, Issues .m h s → f.x.getLsbD 3 = false → RegsReadable .m (baseRegs f) (atWord .m s) →
        (atWord .m s).access s.cur.tile s.cur.core (((atWord .m s).ea f).toNat / 256 * 256) true false = .loc mpa →
        ((atWord .m s).ct.behindMark mpa = false → Completes (.wmwait h f) .m s (atWord .m s)) ∧
        ((atWord .m s).ct.behindMark mpa = true →
          ∃ u, IssuesInto (.wmwait h f) .m s u ∧ (u.cc.clu .m).req = some (.watermark (some mpa)) ∧ u.mem = s.mem)) ∧
      (∀ mpa, Waits .m (.watermark mpa) s → markDone (onWord .m s) f (mpa.getD 0) = true →
        Resumes (.wmwait h f) .m s (onWord .m s))

/-- R103, R106, R108, R109 and R329 to R331: WINSET writes a window with the four words read, keeping its count, or an
inbound entry with the two; WINRD reads word k of either; RGNSET writes a region. -/
def Obligations.WindowWordsComplete : Prop :=
  (∀ (h : Hdr) (f : MemF) (s : State) (mpa : Nat), Issues .m h s →
    RegsReadable .m (baseRegs f) (atWord .m s) →
    LoadsFrom 256 (((atWord .m s).ea f).toNat / 256 * 256) mpa (atWord .m s) →
    let t := atWord .m s
    let ea := (t.ea f).toNat
    let d (k i : Nat) : DWord := rowDWord (t.readRow mpa) (ea % 256 / k * k) i
    (f.x.getLsbD 6 = false → winBad ((List.range 4).map (d 32)) = false →
      ((t.ct.wins.get (f.x.toNat % 64) {}).v = true → t.winOut s.cur.tile (f.x.toNat % 64) = 0) →
      ∃ u, Completes (.winset h f) .m s u ∧ u.mem = s.mem ∧
        (u.ct.wins.get (f.x.toNat % 64) {}) =
          winOf ((List.range 4).map (d 32)) (t.ct.wins.get (f.x.toNat % 64) {}) ∧
        ∀ n, n ≠ f.x.toNat % 64 → u.ct.wins.get n {} = t.ct.wins.get n {}) ∧
    (f.x.getLsbD 6 = true → f.x.getLsbD 5 = false → inbBad ((List.range 2).map (d 16)) = false →
      ∃ u, Completes (.winset h f) .m s u ∧ u.mem = s.mem ∧
        (u.ct.inbs.get (f.x.toNat % 32) {}) = inbOf ((List.range 2).map (d 16)) ∧
        ∀ n, n ≠ f.x.toNat % 32 → u.ct.inbs.get n {} = t.ct.inbs.get n {})) ∧
    (∀ (h : Hdr) (f : MemF) (s : State), Issues .m h s → dstOk .m f.d = true →
      (if f.x.getLsbD 6 then f.x.getLsbD 5 = false ∧ f.off.toNat < 4 else f.off.toNat < 8) →
      (atWord .m s).owed .m (dstRegs f) = false →
      let t := atWord .m s
      let l := if f.x.getLsbD 6 then (t.ct.inbs.get (f.x.toNat % 32) {}).words else (t.ct.wins.get (f.x.toNat % 64) {}).words
      Completes (.winrd h f) .m s
        (putRes .m 1 f.d f.w ((l.getD (f.off.toNat / 2) 0).extractLsb' (32 * (f.off.toNat % 2)) 32) t)) ∧
    (∀ (h : Hdr) (f : RR) (s : State), Issues .m h s → pairOk f.a = true →
      RegsReadable .m [f.a.toNat, f.a.toNat + 1] (atWord .m s) → rgnBad ((atWord .m s).cc.pair f.a.toNat) = false →
      Completes (.rgnset h f) .m s
        ((atWord .m s).modCc fun x => { x with rgn := x.rgn.set (f.f.toNat % 8) (x.pair f.a.toNat) })) ∧
    ∀ (l : List DWord) (w : Win), winBad l = false → l.length = 4 →
      (winOf l w).words = l.take 3 ++ [BitVec.ofNat 64 (w.out % 2 ^ 16)]

/-! ## The E cluster -/

/-- R339: the register words of the E cluster. -/
def Obligations.EngineRegisterWordsComplete : Prop :=
  (∀ (h : Hdr) (f : RR) (s : State), Issues .e h s → dstOk .e f.d = true → Readable .e [f.a, f.b] (atWord .e s) →
    let r := readSrcs .e [f.a, f.b] (atWord .e s)
    Completes (.eadd h f) .e s (putRes .e 1 f.d f.w (arg r.1 0 + arg r.1 1) r.2)) ∧
    (∀ (h : Hdr) (f : RI) (s : State), Issues .e h s → dstOk .e f.d = true → Readable .e [f.a] (atWord .e s) →
      let r := readSrcs .e [f.a] (atWord .e s)
      Completes (.eaddi h f) .e s (putRes .e 1 f.d f.w (arg r.1 0 + f.imm) r.2)) ∧
    (∀ (h : Hdr) (f : RR) (s : State), Issues .e h s → dstOk .e f.d = true → Readable .e [f.a] (atWord .e s) →
      let r := readSrcs .e [f.a] (atWord .e s)
      Completes (.emov h f) .e s (putRes .e 1 f.d f.w (arg r.1 0) r.2)) ∧
    (∀ (h : Hdr) (f : RI) (s : State), Issues .e h s → dstOk .e f.d = true →
      Completes (.emovi h f) .e s (putRes .e 1 f.d f.w f.imm (atWord .e s))) ∧
    (∀ (h : Hdr) (f : RR) (s : State), Issues .e h s → f.d.toNat < 8 → f.f.toNat % 16 ≤ 10 →
      Readable .e [f.a, f.b] (atWord .e s) →
      let r := readSrcs .e [f.a, f.b] (atWord .e s)
      Completes (.ecmp h f) .e s
        (putGuard .e 1 f.d.toNat (condHolds (f.f.toNat % 16) (arg r.1 0) (arg r.1 1)) r.2)) ∧
    (∀ (h : Hdr) (f : RR) (s : State), Issues .e h s → dstOk .e f.d = true →
      Completes (.cstat h f) .e s
        (putRes .e 1 f.d f.w (s.circ s.cur.tile (f.f.toNat % 64)).stat (atWord .e s))) ∧
    ∀ (h : Hdr) (f : RR) (s : State),
      (Issues .e h s → (s.circ s.cur.tile (f.f.toNat % 64)).state = .live → Completes (.cwait h f) .e s (atWord .e s)) ∧
      (Issues .e h s → (s.circ s.cur.tile (f.f.toNat % 64)).state ≠ .live →
        ∃ u, IssuesInto (.cwait h f) .e s u ∧ (u.cc.clu .e).req = some .circuit ∧ u.mem = s.mem) ∧
      (∀ q, Waits .e q s → (s.circ s.cur.tile (f.f.toNat % 64)).state = .live →
        Resumes (.cwait h f) .e s (onWord .e s))

/-- R343, R373: a table word reads its operands and asks for its row at issue, and holds the cluster until its time has come.
The shape words when their two engine cycles are over (R340 to R343): SHSET writes a valid record of the scratchpad with
the next generation and gives its handle; SHMOD changes one field under the same generation; SHINV advances it.
R194, R195, R202, R365, R368 and R373: CTSET writes the entry that the scratchpad holds once its row's bank serves it, GRPSET a group with no message
out, and GFREE frees one and advances its generation; nothing else of the tables changes. -/
def Obligations.TableWordsComplete : Prop :=
  (∀ p ∈ ([(.shset, 2, fun f => dstOk .e f.d), (.shmod, 2, fun f => dstOk .e f.d && decide (f.f.toNat % 32 ≤ 20)),
      (.shinv, 1, fun _ => true)] : List ((Hdr → RR → Instr) × Nat × (RR → Bool))),
    ∀ (h : Hdr) (f : RR) (s : State), Issues .e h s → p.2.2 f = true → Readable .e (rrOps p.2.1 f) (atWord .e s) →
      let r := readSrcs .e (rrOps p.2.1 f) (atWord .e s)
      ∃ u, IssuesInto (p.1 h f) .e s u ∧ (u.cc.clu .e).req = some (.shape (arg r.1 0) (arg r.1 1)) ∧
        (u.cc.clu .e).ans = some { due := ecAfter s.now s.cc.cdiv 2 } ∧ u.ct.shapes = s.ct.shapes ∧ u.mem = s.mem) ∧
  (∀ (h : Hdr) (f : RR) (s : State) (a b : Word) (x : Ans), Waits .e (.shape a b) s → (s.cc.clu .e).ans = some x →
    x.due ≤ s.now →
    let t := onWord .e s
    let old := t.ct.shapes.get (hSlot a) {}
    (∀ v, dstOk .e f.d = true → padReady t t.ccl.since.m ((b.extractLsb' 6 16).toNat * 64) = true →
      padBytes t ((b.extractLsb' 6 16).toNat * 64) 64 = .ok v → recValid (BitVec.ofNat 512 v) = true →
      Resumes (.shset h f) .e s (putRes .e 0 f.d f.w (nextGen old.gen ++ BitVec.ofNat 12 (hSlot a))
        (putShape (hSlot a) { recd := BitVec.ofNat 512 v, gen := nextGen old.gen }
          (t.heal (slotMpa s.cur.tile (hSlot a)) 64)))) ∧
    (∀ r, t.ct.stale a = false → t.badIn (slotMpa s.cur.tile (hSlot a)) 64 = none → shapeField old.recd (f.f.toNat % 32) b = some r → (fmtOk r && stridesOk r) = true →
      Resumes (.shmod h f) .e s (putRes .e 0 f.d f.w a (putShape (hSlot a) { old with recd := r } t))) ∧
    (t.ct.stale a = false →
      Resumes (.shinv h f) .e s (putShape (hSlot a) { old with gen := nextGen old.gen } t)) ∧
    ∀ n (y : Shape) (u : State), (putShape n y u).ct.shapes.get n {} = y ∧ (putShape n y u).mem = u.mem ∧
      ∀ m, m ≠ n → (putShape n y u).ct.shapes.get m {} = u.ct.shapes.get m {}) ∧
  ((∀ (h : Hdr) (f : RR) (s : State), Issues .e h s → f.f.toNat < 3 → Readable .e [f.a, f.b] (atWord .e s) →
    let r := readSrcs .e [f.a, f.b] (atWord .e s)
    let a := arg r.1 0
    let b := arg r.1 1
    tableBusy (some (ctOff f.f.toNat b)) r.2 = false →
    let t := askTable (some (ctOff f.f.toNat b)) r.2
    ctReady f.f.toNat (t.cc.knows t.ct.jobCtr .e).m a b t = true →
    (∀ v j, f.f.toNat = 0 → padBytes t (ctOff 0 b) 16 = .ok v → rjobOf v = some j →
      Completes (.ctset h f) .e s (t.modCt fun x => { x with rjobs := x.rjobs.set (a.toNat % 16) j })) ∧
    (∀ v j, f.f.toNat = 1 → padBytes t (ctOff 1 b) 4 = .ok v → tslotOf v = some j →
      Completes (.ctset h f) .e s (t.modCt fun x => { x with slots := x.slots.set (a.toNat % 64) j })) ∧
    ∀ v j, f.f.toNat = 2 → padBytes t (ctOff 2 b) 32 = .ok v → centryOf v = some j →
      Completes (.ctset h f) .e s (t.modCt fun x => { x with cents := x.cents.set (a.toNat % 256) j })) ∧
    (∀ (h : Hdr) (f : RR) (s : State), Issues .e h s → f.f = 0 → Readable .e [f.a, f.b] (atWord .e s) →
      let r := readSrcs .e [f.a, f.b] (atWord .e s)
      let n := (arg r.1 0).toNat % 256
      let b := arg r.1 1
      groupBad b = false → r.2.groupOut s.cur.tile n = 0 →
      Completes (.grpset h f) .e s (r.2.modCt fun x =>
        { x with groups := x.groups.set n { v := b.getLsbD 31, gen := b.extractLsb' 16 8, handle := b.extractLsb' 0 6 } })) ∧
    ∀ (h : Hdr) (f : RR) (s : State), Issues .e h s → f.f = 0 → Readable .e [f.a] (atWord .e s) →
      let r := readSrcs .e [f.a] (atWord .e s)
      let n := (arg r.1 0).toNat % 256
      r.2.groupOut s.cur.tile n = 0 →
      Completes (.gfree h f) .e s (r.2.modCt fun x =>
        { x with groups := x.groups.set n { x.groups.get n {} with v := false, gen := (x.groups.get n {}).gen + 1 } }))

/-- R333, R338, R353, R354, R369 and R375: a word that queues a job completes once its queue has room: the job stands at the
tail with the operands read (an inline B of a drain as FP32), its place in the program and the handler bit. In a trap handler
the matrix words have a queue of their own, and the first of them must be MSAVE (R352).
PACE sets the gap of its queue. -/
def Obligations.JobWordsComplete : Prop :=
  (∀ p ∈ ([
      (.mplant, fun f => f.md.extractLsb' 7 4 == 0 && f.md.extractLsb' 0 4 == 0 && fmtcN f != 7, fun f => [f.a], .mplant),
      (.mma, fun f => !f.md.getLsbD 0 && fmtcN f != 7, fun f => [f.a], .mma),
      (.mdrain, fun f => drainOk f, fun f => drainOps f, .mdrain),
      (.mdrainSend, fun f => drainOk f, fun f => drainOps f, .mdrainSend),
      (.mzero, fun f => f.md.extractLsb' 4 9 == 0, fun _ => [], .mzero),
      (.msave, fun f => f.md.extractLsb' 4 9 == 0, fun f => [f.a, f.b], .msave),
      (.mrest, fun f => f.md.extractLsb' 4 9 == 0, fun f => [f.a, f.b], .mrest),
      (.mbatt, fun f => f.md.extractLsb' 0 11 == 0, fun f => [f.a], .mbatt)] :
      List ((Hdr → EngF → Instr) × (EngF → Bool) × (EngF → List (BitVec 7)) × JobOp)),
    ∀ (h : Hdr) (f : EngF) (s : State), Issues .e h s → p.2.1 f = true → Readable .e (p.2.2.1 f) (atWord .e s) →
      let r := readSrcs .e (p.2.2.1 f) (atWord .e s)
      let op := p.2.2.2
      let j := mkJob op f (arg r.1 0)
        (if (op = .mdrain ∨ op = .mdrainSend) ∧ 0x60 ≤ f.b.toNat then inlineFp32 f.b else arg r.1 1) (arg r.1 2)
      (s.cc.trap = false → r.2.cc.mxq.length < 16 → Completes (p.1 h f) .e s (pushJob .matrix j r.2)) ∧
        (s.cc.trap = true → (s.cc.msaved = true ∨ op = .msave) → r.2.cc.hxq.length < 16 →
          Completes (p.1 h f) .e s (pushJob .handler j (r.2.modCc fun x =>
            { x with msaved := true, mrested := op == .mrest || (x.mrested && op != .msave) }))) ∧
        (s.cc.trap = true → s.cc.msaved = false → op ≠ .msave →
          exec (p.1 h f) s = .next (settle (atWord .e s) ((atWord .e s).flt .handlerMatrix)))) ∧
    (∀ p ∈ ([
        (.cpy, fun f => f.md.extractLsb' 0 9 == 0, fun f => [f.a, f.b], .cpy, chOf),
        (.cpyd, fun f => f.md.extractLsb' 0 10 == 0, fun f => [f.a, f.b], .cpyd, chOf),
        (.cpyr, fun f => !f.md.getLsbD 0 && decide ((f.md.extractLsb' 1 2).toNat ≤ 2), fun f => [f.a, f.b, f.c], .cpyr,
          fun f => .chan (fin 8 (f.md.extractLsb' 3 4).toNat)),
        (.cpym, fun f => f.md.extractLsb' 0 9 == 0, fun f => [f.a, f.b, f.c], .cpym, chOf),
        (.wmset, fun f => f.md.extractLsb' 0 10 == 0, fun f => [f.a], .wmset, chOf),
        (.send, fun f => f.md.extractLsb' 6 6 == 0, fun f => [f.a, f.b, f.c], .send, fun _ => .send),
        (.ctready, fun f => f.md == 0, fun f => [f.a], .ctready, fun _ => .send)] :
        List ((Hdr → EngF → Instr) × (EngF → Bool) × (EngF → List (BitVec 7)) × JobOp × (EngF → QueueId))),
      ∀ (h : Hdr) (f : EngF) (s : State), Issues .e h s → p.2.1 f = true → Readable .e (p.2.2.1 f) (atWord .e s) →
        let r := readSrcs .e (p.2.2.1 f) (atWord .e s)
        (r.2.cc.queue (p.2.2.2.2 f)).length < 8 →
        Completes (p.1 h f) .e s
          (pushJob (p.2.2.2.2 f) (mkJob p.2.2.2.1 f (arg r.1 0) (arg r.1 1) (arg r.1 2)) r.2)) ∧
    (∀ (q : QueueId) (j : Job) (s : State),
      let u := pushJob q j s
      u.cc.queue q = s.cc.queue q ++ [{ j with
        id := s.ct.jobCtr, pc := s.ccl.pc, handler := s.cc.trap }] ∧
      (∀ q', q' ≠ q → u.cc.queue q' = s.cc.queue q') ∧ u.mem = s.mem ∧ u.hub = s.hub ∧ u.cc.e = s.cc.e ∧
      u.cc.acc = s.cc.acc) ∧
    ∀ (h : Hdr) (f : RI) (s : State), Issues .e h s → f.f5.toNat ≤ 9 →
      ∃ u, Completes (.pace h f) .e s u ∧ u.cc.gap.get f.f5.toNat 0 = f.imm.toNat % 2 ^ 16 ∧
        (∀ n, n ≠ f.f5.toNat → u.cc.gap.get n 0 = s.cc.gap.get n 0) ∧ u.mem = s.mem ∧ u.cc.e = s.cc.e

/-! ## Rig words -/

/-- R377, R378, R382 and R386: NOPS, HOLD, JMPS, LOOPS and ENDS with their reserved fields zero. LOOPS loads a counter that
is zero, counts down, and goes round until it is zero.
R383 to R385: WAITEV that every tile passes takes its count and goes on, and else ends the step; SIGEV lands its arrival
16 rc later; XPORT joins its port's order, and with WAIT goes on in the first step after its completion.
R380 and R381 with R149 and R150: RIG and RIGM of a circuit that no rule refuses start its rigging and go on; a refused
one has no other effect than its record; DERIG starts the derig of its handle. -/
def Obligations.RigWordsComplete : Prop :=
  (∀ (r : RigW) (s : State) (x : Task), s.slotTask s.cur.slot = some x →
    (r.hd = 0 → r.body = 0 → exec (.nops r) s = .next (rigGo x 1 s)) ∧
    (r.hd = 0 → rbits r 32 20 = 0 → rbits r 0 32 ≠ 0 →
      exec (.hold r) s = .next (rigStop (modRig x.id (fun y => { y with holdTo := s.now / 32 + rbits r 0 32 }) (rigGo x 1 s)))) ∧
    (r.hd = 0 → rbits r 32 20 = 0 → exec (.jmps r) s = .next (rigGo x (r.body.extractLsb' 0 32).toInt s)) ∧
    (r.hd = 0 → rbits r 32 18 = 0 → rbits r 16 16 ≠ 0 →
      let l := rbits r 50 2
      let c := (if x.rig.lc.get l 0 = 0 then rbits r 16 16 else x.rig.lc.get l 0) - 1
      exec (.loops r) s = .next (rigGo x (if c = 0 then 1 else (r.body.extractLsb' 0 16).toInt)
        (modRig x.id (fun y => { y with lc := y.lc.set l c }) s))) ∧
    (r.hd = 0 → r.body = 0 →
      exec (.ends r) s = .next (rigStop (modRig x.id (fun y => { y with ended := true }) s))) ∧
    (r.hd = 0 → r.body = 0 →
      exec (.rtsw r) s = .next (rigGo x 1 (s.modHub fun h => { h with activeB := !h.activeB })))) ∧
  (∀ (r : RigW) (s : State) (x : Task), s.slotTask s.cur.slot = some x →
    (r.hd = 0 → rbits r 32 7 = 0 → (r.body.getLsbD 46 = true ∨ (s.bound x (rbits r 47 5)).isSome = true) →
      let e := rbits r 39 6
      let n : Word := r.body.truncate 32
      let u := (s.taskTiles x).foldl (fun s t => s.modTile t fun y => y.settleEvents s.now) s
      let tiles := if r.body.getLsbD 46 then (List.range (4 * x.strings.length)).filter fun i => (u.bound x i).isSome
        else [rbits r 47 5]
      let pass := tiles.all (eventPasses u x (r.body.getLsbD 45) e n)
      (pass = true → r.body.getLsbD 45 = true → exec (.waitev r) s = .next (rigGo x 1 u)) ∧
      (pass = true → r.body.getLsbD 45 = false → exec (.waitev r) s = .next (rigGo x 1 (modRig x.id (fun y =>
        { y with taken := tiles.foldl (fun k i => k.set (64 * i + e) (k.get (64 * i + e) 0 + n)) y.taken }) u))) ∧
      (pass = false → exec (.waitev r) s = .next (rigStop u))) ∧
    (∀ t, s.bound x (rbits r 47 5) = some t → rbits r 0 38 = 0 →
      (if r.body.getLsbD 38 then (s.circ t r.hd.toNat).state = .live else r.hd = 0) →
      exec (.sigev r) s = .next (rigGo x 1 (land t (s.now + 16) (BitVec.ofNat 8 (rbits r 39 8)) 0 .incr s))) ∧
    ∀ p ∈ [(Instr.xportDrain, 0#2), (.xportDark, 1#2), (.xportProbe, 2#2), (.xportOpen, 3#2)],
      r.hd = 0 → r.body.extractLsb' 44 2 = p.2 → rbits r 0 17 = 0 → (p.2 ≠ 3 → rbits r 18 26 = 0) →
      let f : Fin 64 := fin 64 (rbits r 46 6)
      let c : XCmd := ⟨p.2, r.body.getLsbD 43, (r.body.extractLsb' 18 25 : BitVec 25).setWidth 32 <<< 6, some x.id,
        x.rig.pc.toNat⟩
      (r.body.getLsbD 17 = false → exec (p.1 r) s = .next (xport f c (rigGo x 1 s))) ∧
      (r.body.getLsbD 17 = true → x.rig.waitXport = none →
        exec (p.1 r) s = .next (rigStop (xport f c (modRig x.id (fun y => { y with waitXport := some 0 }) s)))) ∧
      (∀ n, r.body.getLsbD 17 = true → x.rig.waitXport = some n → 0 < n → n ≤ s.now →
        exec (p.1 r) s = .next (rigGo x 1 (modRig x.id (fun y => { y with waitXport := none }) s)))) ∧
  (∀ (r : RigW) (s : State) (x : Task) (t : TileId), s.slotTask s.cur.slot = some x →
    s.bound x (rbits r 47 5) = some t →
    let hd : HandleId := fin 64 r.hd.toNat
    (∀ e, rigEnd s x (r.body.extractLsb' 33 10) (rbits r 28 5) (rbits r 24 4) = some e → rbits r 0 16 = 0 →
      rbits r 16 4 = 0 → rbits r 21 2 ≠ 3 →
      let q : RigReq := ⟨1, t, rbits r 47 5, hd, rbits r 43 4, [e], r.body.getLsbD 23, r.body.getLsbD 20, rbits r 21 2,
        false, 1⟩
      (∀ c, rigCheck s x q = .ok c → exec (.rig r) s = .next (rigGo x 1 (startRig t hd c s))) ∧
      ∀ code m, rigCheck s x q = .error (code, m) →
        exec (.rig r) s = .next (deliver (rigRec s x code 1 (rbits r 47 5) r m) (rigGo x 1 s))) ∧
    (let n := rbits r 39 4 + 1
      let ls := rigLeaves x n
      let ends := ls.map fun w => rigEnd s x (w.extractLsb' 21 10) (w.extractLsb' 16 5).toNat (w.extractLsb' 12 4).toNat
      rbits r 0 16 = 0 → rbits r 24 15 = 0 → rbits r 16 5 = 0 → rbits r 21 2 ≠ 3 → rigPad x n = true →
      (∀ w ∈ ls, w.getLsbD 31 = true ∧ w.extractLsb' 0 12 = 0) → (∀ e ∈ ends, e ≠ none) →
      let q : RigReq := ⟨2, t, rbits r 47 5, hd, rbits r 43 4, ends.filterMap id, r.body.getLsbD 23, false, rbits r 21 2,
        true, 1 + (n + 1) / 2⟩
      ∀ c, rigCheck s x q = .ok c → exec (.rigm r) s = .next (rigGo x (1 + (n + 1) / 2) (startRig t hd c s))) ∧
    (rbits r 0 47 = 0 → exec (.derig r) s = .next (rigGo x 1 (derig t hd s))))

/-! ## Circuits and messages -/

/-- R147, R149, R162, R457 and R462: a released path is gone; a drained derig leaves IDLE; a settled circuit of this module is LIVE,
one across a fibre port LIVE or, where the peer's light stays away, FAULTED; the waiting circuits are tried again; 1,000 steps without a path block one;
a failed circuit that no lamp failure pauses lets its path go and enters REROUTING. -/
def Obligations.CircuitStepsComplete : Prop :=
  ∀ (s : State),
    let t := s.cur.tile
    let h := hix s
    let c := hc s
    (∃ u, exec .pathRelease s = .next u ∧ (∀ p ∈ u.hub.releasing, ¬(p.1 = t ∧ p.2.1 = h)) ∧
      (c.failed = true → s.paused t c = false → (hc u).pathed = false ∧ (hc u).path = [] ∧ (hc u).fibs = []) ∧
      (c.failed = false ∨ s.paused t c = true → hc u = c) ∧ u.mem = s.mem) ∧
    (c.state = .derigging → c.drained = true →
      exec .derigComplete s = .next (kickDrain c.fibs (idleCirc t h s)) ∧
        ((idleCirc t h s).circ t h.val).state = .idle ∧ (idleCirc t h s).mem = s.mem) ∧
    (c.pathed = true → c.failed = false → c.settleAt ≤ s.now → c.state = .settling → c.rerr = false →
      s.paused t c = false →
      (c.ext = false → ∃ u, exec .settlingEnd s = .next u ∧ (hc u).state = .live ∧ u.mem = s.mem) ∧
      (c.ext = true → ∃ u, exec .settlingEnd s = .next u ∧
        (((hc u).state = .live ∧ u.mem = s.mem) ∨
          u = deliver (peerRec s.fresh.2 t h c) (faultCirc t h s.fresh.2)))) ∧
    (∀ p, (s.handles.filter fun q => (s.circ q.1 q.2.val).waits && !s.paused q.1 (s.circ q.1 q.2.val)) = [p] →
      exec .rigRetry s = .next (flushLost (tryCirc p.1 p.2 s))) ∧
    (c.waits = true → s.paused t c = false → c.rigAt + 32000 ≤ s.now →
      exec .pathBlocked s =
        .next (deliver (blockedRec s t h c c.rerr) (if c.rerr then faultCirc t h s else idleCirc t h s))) ∧
    (c.failed = true → s.paused t c = false → ∃ u, exec .reroute s = .next u ∧ (hc u).failed = false ∧ (hc u).rerr = true ∧
      (hc u).pathed = false ∧ (hc u).path = [] ∧ ((hc u).state = .rerouting ∨ (hc u).state = .derigging))

/-- R145, R163 and R450 to R465: a failed mesh element, fibre port, peer, ring or lamp: what is out of use from then on, the
circuits that reroute, the record; and the counts of windows that an audit sets right. -/
def Obligations.FabricFailuresComplete : Prop :=
  ∀ (s : State),
    let t := s.cur.tile
    let h := hix s
    let c := hc s
    (∀ stage el, ∃ u, exec (.mziFail stage el) s = .next u ∧
      stage.val * Config.elementsPerStage + el ∈ u.hub.badEl ∧ u.mem = s.mem ∧ u.hub.rseq = s.hub.rseq + 1) ∧
    ((s.fib (s.cur.ix % 64)).state = .fopen → ∃ u, exec .extPortLoss s = .next u ∧
      (u.fib (s.cur.ix % 64)).state = .dark ∧ u.hub.rseq = s.hub.rseq + 1) ∧
    (c.ext = true → c.rerr = false → c.state = .live → s.paused t c = false → c.lastCtl + 32000 ≤ s.now →
      exec .peerAbsentTimeout s = .next (deliver (peerRec s t h c) (faultCirc t h s))) ∧
    (∀ line rx,
      let p := s.cur.ix % 16
      ∃ u, exec (.ringDetune line rx) s = .next u ∧ u.freeCtr = s.freeCtr + 1 ∧
        (∃ n, s.now ≤ n ∧ n ≤ s.now + 6400 ∧ (n, Act.instr t 0 p (.stripingChange line rx)) ∈ u.agenda) ∧
        (((u.tile t).port p) = ((s.tile t).port p) ∨ ((u.tile t).port p) =
          { (s.tile t).port p with failing := ((s.tile t).port p).failing ++ [(rx, line.val)] }) ∧ u.mem = s.mem) ∧
    (∀ line rx, let p := s.cur.ix % 16
      4 ≤ (((s.tile t).port p).loseLine line.val rx).count rx →
      ∃ u, exec (.stripingChange line rx) s = .next u ∧
        ((u.tile t).port p) = { ((s.tile t).port p).loseLine line.val rx with
          failing := ((s.tile t).port p).failing.filter fun f => f != (rx, line.val) } ∧ u.mem = s.mem) ∧
    (∀ rx, exec (.controlRingDetune rx) s = .next (losePort t (s.cur.ix % 16) 9 rx s)) ∧
    (let n : StringId := fin 8 s.cur.ix
      let old := (s.str n).lamp
      let spare := (s.modHub fun h =>
        { h with
          lampOk := h.lampOk &&& ~~~(1#10 <<< old), phys := { h.phys with lamps := old :: h.phys.lamps } }).spareLamp
      ∃ u, exec .lampFail s = .next u ∧ (∀ l, old < 8 → spare = some l →
          u.hub.lampOk.getLsbD old = false ∧ (u.str n).lamp = l ∧ (u.str n).pausedAt = some s.now) ∧
        (8 ≤ old ∨ spare = none → (u.str n).inService = false ∧ (u.str n).light = false)) ∧
    (let n : StringId := fin 8 s.cur.ix
      ∀ since, (s.str n).pausedAt = some since →
        ∃ u, exec .lampRelight s = .next u ∧ (u.str n).pausedAt = none ∧ u.mem = s.mem) ∧
    ∃ u, exec .allowanceAudit s = .next u ∧ (s.now + 204800, Act.instr t 0 0 .allowanceAudit) ∈ u.agenda ∧
      ∀ w, w < 64 →
        let x := s.ct.wins.get w {}
        let d := s.circ t x.handle.toNat
        (u.tile t).wins.get w {} = if d.state = .live ∨ d.state = .derigging then { x with out := d.recount w } else x

/-- R153, R155, R157 and R444: a home that has a malformed message discards it with its record; one out of order, or found
uncorrectable in staging, is discarded and a flit is owed; one that its source has retired is counted. None is performed.
R110, R153, R325, R359 and R444: an expected write of a home that takes it is performed, a load or an atomic answered, a
reply given to the core that asked; one that the home refuses has no effect but its refusal. Which test a message fails first is the model's choice: log 45. -/
def Obligations.ArrivalsComplete : Prop :=
  (∀ p ∈ ([(.row, fun _ => .row, fun _ => 4), (.shortStore, fun _ => .short, fun _ => 1),
      (.shortAtomic, fun _ => .short, fun _ => 1), (.shortLoad, fun _ => .short, fun _ => 1),
      (.reply, fun _ => .reply, fun m => if m.side.getD 0 0 = 0 then 1 else 4),
      (.reductionContribution, fun _ => .chunk, fun m => 4 * m.pay.length),
      (.multicastArrival, fun m => if m.pay.length = 1 then .row else .chunk, fun m => 4 * m.pay.length),
      (.chunk, fun _ => .chunk, fun m => 4 * m.pay.length)] :
      List ((Source → Msg → Instr) × (Msg → MsgType) × (Msg → Nat))),
    ∀ (src : Source) (m : Msg) (s : State) (y : Home), s.ct.home? src = some y →
      let t := s.cur.tile
      let u := (seen src s).count t 0x0E none (64 * p.2.2 m)
      let why := msgFault (p.2.1 m) m
      (why ≠ 0 → exec (p.1 src m) s = .next (deliver (malformedRec u t src why) u)) ∧
      (why = 0 → m.seq ≠ y.rcv ∨ m.spoilt = true →
        exec (p.1 src m) s = .next (markDirty t src u) ∧ (markDirty t src u).mem = s.mem) ∧
      (why = 0 → m.seq = y.rcv → m.spoilt = false → m.void = true →
        exec (p.1 src m) s = .next (markDirty t src (taken src (p.2.2 m) s)))) ∧
  (∀ (src : Source) (m : Msg) (s : State),
    let t := s.cur.tile
    (Expected src .row m s →
      let a := m.mpa.toNat / 256 * 256
      let u := taken src 4 s
      let code := refusal u t src.md src.tile none a 256 true false
      (code = 0 → exec (.row src m) s = .next (markDirty t src (performRows a (m.pay.take 1) u))) ∧
      (code ≠ 0 → exec (.row src m) s = .next (markDirty t src (refuse t src m.seq code u)))) ∧
    (Expected src .short m s →
      let a := m.mpa.toNat / 4 * 4
      let u := taken src 1 s
      let code := refusal u t src.md src.tile none a 4 true false
      (code = 0 → exec (.shortStore src m) s =
        .next (markDirty t src (performShort a (lane (m.pay.getD 0 0) (a / 4 % 64)) u))) ∧
      (code ≠ 0 → exec (.shortStore src m) s = .next (markDirty t src (refuse t src m.seq code u)))) ∧
    (Expected src .chunk m s →
      let a := m.mpa.toNat / 256 * 256
      let u := taken src (4 * m.pay.length) s
      let code := refusal u t src.md src.tile none a (256 * m.pay.length) true false
      s.streamOf t src = none →
      (code = 0 → exec (.chunk src m) s = .next (markDirty t src (performRows a m.pay u))) ∧
      (code ≠ 0 → exec (.chunk src m) s = .next (markDirty t src (refuse t src m.seq code u)))) ∧
    (Expected src .short m s →
      let row := decide (lane (m.pay.getD 0 0) 0 ≠ 0)
      let n := if row then 256 else 4
      let a := m.mpa.toNat / n * n
      let h := (m.side.getD 0 0).toNat % 64
      let u := taken src 1 s
      let code := refusal u t src.md src.tile none a n false true
      let code := if code = 0 then replyCheck u t src h else code
      (code = 0 → exec (.shortLoad src m) s = .next (markDirty t src
        (sendReply t h m.seq row (if row then u.readRow a else (u.readWord a).setWidth 2048) (replyFrom u a)
          (askRows (asUnit .inbound) [a] (countRead a n u))))) ∧
      (code ≠ 0 → exec (.shortLoad src m) s = .next (markDirty t src
        (refuse t src m.seq code u (BitVec.ofNat 3 (u.circ t h).state.code) (u.badIn a n))))) ∧
    (Expected src .short m s →
      let q := m.pay.getD 0 0
      let a := m.mpa.toNat / 4 * 4
      let h := (m.side.getD 0 0).toNat % 64
      let u := taken src 1 s
      let code := refusal u t src.md src.tile none a 4 true false
      let code := if code = 0 then replyCheck u t src h else code
      let r := performAtomic (lane q 0).toNat a (lane q 1) (lane q 2) (askRows (asUnit .inbound) [a] u)
      (code = 0 → exec (.shortAtomic src m) s =
        .next (markDirty t src (sendReply t h m.seq false (r.1.setWidth 2048) (replyFrom u a) r.2))) ∧
      (code ≠ 0 → exec (.shortAtomic src m) s = .next (markDirty t src
        (refuse t src m.seq code u (BitVec.ofNat 3 (u.circ t h).state.code) (u.badIn a 4))))) ∧
    (Expected src .reply m s →
      let u := taken src (if m.side.getD 0 0 = 0 then 1 else 4) s
      ∀ a, (u.tile t).asks.find? (fun a => a.2.1 == src.md && a.2.2.1 == BitVec.ofNat 5 src.tile.val && a.2.2.2 == m.tag) =
          some a →
        ∃ v, exec (.reply src m) s = .next v ∧
          ((v.tile t).core a.1).m.ans = some { due := s.now, val := lane (m.pay.getD 0 0) 0, row := m.pay.getD 0 0 } ∧
          (v.tile t).asks = (u.tile t).asks.erase a ∧ v.mem = s.mem))

/-- R186, R198, R199, R323 and R366: what a leaf of a tree does with an expected message of a live group, and with a commit;
what a home does with a contribution; and the reduction unit, in one of its cycles. When the reduction unit's cycles begin is the model's choice: log 56. -/
def Obligations.GroupMessagesComplete : Prop :=
  ∀ (src : Source) (s : State),
    let t := s.cur.tile
    (∀ m, Expected src (if m.pay.length = 1 then .row else .chunk) m s →
      let u := taken src (4 * m.pay.length) s
      let g := (u.tile t).groups.get m.tag.toNat {}
      (g.v = false ∨ g.gen ≠ m.gen → ∃ v, exec (.multicastArrival src m) s = .next v ∧ v.mem = s.mem ∧
        ((v.tile t).groups.get m.tag.toNat {}).drop = (if g.drop = 255 then 255 else g.drop + 1)) ∧
      (g.v = true → g.gen = m.gen → castMpa u t m = none →
        exec (.multicastArrival src m) s = .next (markDirty t src (refuse t src m.seq 0x531 u))) ∧
      (∀ a, g.v = true → g.gen = m.gen → castMpa u t m = some a →
        let code := refusal u t src.md src.tile (some m.tag) a (256 * m.pay.length) true false
        code ≠ 0 → exec (.multicastArrival src m) s = .next (markDirty t src (refuse t src m.seq code u))) ∧
      (∀ a, g.v = true → g.gen = m.gen → castMpa u t m = some a →
        refusal u t src.md src.tile (some m.tag) a (256 * m.pay.length) true false = 0 →
        (m.g = false → exec (.multicastArrival src m) s = .next (markDirty t src (performRows a m.pay u))) ∧
        (m.g = true → ∃ v, exec (.multicastArrival src m) s = .next v ∧ v.mem = s.mem ∧
          ∀ y, ((v.tile t).home? src) = some y → { m with mpa := BitVec.ofNat 48 a } ∈ y.held))) ∧
    (∀ sq y, s.ct.home? src = some y → (y.held.any fun m => m.seq == sq) = true →
      let u := (seen src s).modHome t src fun y => { y with commits := y.commits ++ [sq] }
      exec (.commit src sq) s = .next (markDirty t src (applyCommits t src y.held.length u)) ∧
      (∀ m, y.held = [m] → exec (.commit src sq) s = .next (markDirty t src (performRows m.mpa.toNat m.pay
        (keepOne t src (-1) (u.modHome t src fun y =>
          { y with held := [], commits := y.commits.filter fun q => q != m.seq }))))) ∧
      (∀ m l, y.held = m :: l → m.seq ≠ sq → y.commits.contains m.seq = false →
        exec (.commit src sq) s = .next (markDirty t src u))) ∧
    (∀ m, Expected src .chunk m s →
      let u := taken src (4 * m.pay.length) s
      let c := stagedOf src m
      (fateOf u t c = .discarded → exec (.reductionContribution src m) s = .next (markDirty t src u)) ∧
      (∀ n, fateOf u t c = .refused n →
        exec (.reductionContribution src m) s = .next (markDirty t src (refuse t src m.seq 0x420 u (BitVec.ofNat 3 n)))) ∧
      (fateOf u t c = .held → exec (.reductionContribution src m) s =
        .next (markDirty t src (keepOne t src 1 (u.modTile t fun x => { x with staged := x.staged ++ [c] })))) ∧
      (fateOf u t c = .accepted → exec (.reductionContribution src m) s =
        .next (markDirty t src (dueApply t ((keepOne t src 1 (noteAccepted t c u)).modTile t fun x =>
          { x with staged := x.staged ++ [{ c with accepted := true }] }))))) ∧
    (s.cur.ix ≠ 1 → nextApply s.ct = none → exec .chunkApply s = .next s) ∧
    (s.cur.ix = 1 → (∀ c ∈ s.ct.staged, c.accepted = true) → nextApply s.ct = none → exec .chunkApply s = .next s) ∧
    ∀ c, s.cur.ix ≠ 1 → s.ct.staged = [c] → nextApply s.ct = some c →
      let u := chunkDone t c (applyChunk t c (s.modTile t fun x => { x with unitDone := some (s.now / 2) }))
      nextApply (u.tile t) = none → roundDone (u.tile t) c.job = false → exec .chunkApply s = .next u

/-- R155 to R161, R445 to R447, R451, R463 and R468: the control flits of a home, what the source makes of them, the
resends, and the sending unit. From which rc the control slots of a point-to-point circuit are counted is the model's choice: log 46. -/
def Obligations.ControlFlitsComplete : Prop :=
  ∀ (s : State),
    let t := s.cur.tile
    let h := hix s
    let c := hc s
    (∀ src y, s.ct.home? src = some y → s.hears t src = true →
      (y.dirty = true → src.leaf = none →
        (y.lastFlit ≠ some s.now → exec (.controlSlot src) s = .next (sendStatus t src s)) ∧
        (y.lastFlit = some s.now → exec (.controlSlot src) s = .next (s.dueT (s.now + 15) t (.controlSlot src)))) ∧
      ((s.now - y.liveAt) % 960 = 0 → exec (.keepaliveSend src) s = .next ((if y.lastFlit = some s.now then s
        else if y.dirty = true ∧ y.keep = false then sendStatus t src s else sendKeepalive t src s).dueT (s.now + 960) t
          (.keepaliveSend src))) ∧
      ((s.now - y.liveAt) % 240 = 15 * (srcLeaf src).val → exec (.leafSlot src) s =
        .next ((if y.keep then sendKeepalive t src s else sendStatus t src s).dueT (s.now + 240) t (.leafSlot src)))) ∧
    (∀ f : Ctl, readCtl f.word = some f) ∧
    (c.hears = true →
      (∀ leaf ack allowc, exec (.statusFlit leaf ack allowc) s = .next (takeCounts t h leaf ack allowc ack s)) ∧
      (∀ leaf ack allowc nseq code, exec (.negativeResponse leaf ack allowc nseq code) s =
        .next (takeCounts t h leaf ack allowc ack (takeRefusal t h leaf nseq code s))) ∧
      (∀ leaf rcv allowc perf, c.inb = true →
        exec (.keepalive leaf rcv allowc perf) s = .next (s.modCirc t h.val fun c => { c with lastCtl := s.now })) ∧
      ∀ leaf rcv allowc perf, c.inb = false →
        let v := takeCounts t h leaf perf allowc rcv s
        let left := (v.circ t h.val).resync &&& ~~~(1#16 <<< leaf.val)
        let w := v.modCirc t h.val fun x => { x with resync := left }
        exec (.keepalive leaf rcv allowc perf) s = .next
          (if (v.circ t h.val).resync ≠ 0 ∧ left = 0 then (resendAll t h w).dueH w.now t h.val .messageSend else w)) ∧
    (∀ o r, c.sent.filter c.unreceived = o :: r → s.carries t c = true → c.timer + 64000 ≤ s.now →
      let lost := ((c.sent.find? fun x => x.ack &&& c.leafMask != c.leafMask).getD o).msg.seq
      (o.resent < 3 → exec .resendTimeout s = .next (startTimer t h.val (resendAll t h (s.modCirc t h.val fun c =>
        { c with sent := c.sent.map fun y => if y.msg.seq = o.msg.seq then { y with resent := y.resent + 1 } else y })))) ∧
      (3 ≤ o.resent → c.ackLost = true →
        exec .resendTimeout s = .next (deliver (ackLostRec s t h c lost) (faultCirc t h s))) ∧
      (3 ≤ o.resent → c.ackLost = false → exec .resendTimeout s = .next (deliver (ackLostRec s t h c lost)
        (failCirc t h (s.modCirc t h.val fun c => { c with ackLost := true }))))) ∧
    (c.sent.filter c.unreceived = [] → c.sent.any c.uncommitted = true → s.carries t c = true → c.timer + 64000 ≤ s.now →
      exec .resendTimeout s = .next (startTimer t h.val (resendAll t h s))) ∧
    (∀ x, c.waiting = [x] → x.sampled = false → x.win = none → x.group = none → x.job = none → x.ty ≠ .reply →
      x.msg.op = 0 → c.usable = true → s.carries t c = true → c.resync = 0 → c.mayPass x = true →
      c.lineTo < 4200 * (s.now + 1) → x.notBefore ≤ s.now → s.garbles t c = false →
      let y : Sent := { x with sampled := true, msg := { x.msg with seq := c.seq }, sentAt := s.now }
      let sent := alignUp (Nat.max c.lineTo (4200 * s.now) + lineTime x.flits c.lines) 4200 / 4200
      ∃ u, exec .messageSend s = .next u ∧ (hc u).waiting = [] ∧ (hc u).seq = c.seq + 1 ∧ u.mem = s.mem ∧
        (hc u).sent = c.sent ++ [y] ∧ ∀ p ∈ s.leafSources t h c,
          (sent + s.flightTo t c ((p.2.leaf.map (·.val)).getD 0), Act.instr p.1 0 0 (arrival p.2 y)) ∈ u.agenda)

/-! ## Engines -/

/-- R130, R336, R337, R346 and R350: the last digit cycle of a row of an MMA writes the elements of its row that were computed
when it began, and no other element; an MZERO zeroes four rows of its bank in each engine cycle.
R220, R223, R334 to R337 and R352: how the matrix jobs of a core move: an offer, a grant within the ramp or none, the start
at a boundary, the completion of a job that has done its work, the change of divisor, and the freeze. What a row holds between the steps of one row of an MMA is the model's choice: log 55. -/
def Obligations.MatrixJobsComplete : Prop :=
  (∀ (t : TileId) (k : CoreId) (e : Nat) (j : Job) (s : State), j.workDone = false → j.debt = 0 →
    (j.op = .mma → j.pos = 0 → (operandStall s t k j) = false → operandBad s t k j = none →
      let u := askUnit t k j e s
      stepJob t k false e [] j s = ({ (if j.atStep then { j with stepAt := e, undo := [] } else j) with
        pos := 1, buf := mmaRow u t k j j.prog }, u.countAt t e 0x06 k, none)) ∧
    (j.op = .mma → j.pos ≠ 0 → fmtcD (fmtcN j.f) ≤ j.pos + 1 → j.prog < 64 → j.buf.length ≤ 64 →
      let r := stepJob t k false e [] j s
      let old := (List.range 64).map fun c => (s.core t k).accEl (mmaBank j.f) j.prog c
      r.1 = { j with
        pos := 0, prog := j.prog + 1, buf := [], undo := if s.now ≤ j.stepAt then j.undo ++ [(j.prog, old)] else j.undo } ∧
        r.2.2 = none ∧
        ∀ b m n, b < 16 → m < 64 → n < 64 → (r.2.1.core t k).accEl b m n =
          if b = mmaBank j.f ∧ m = j.prog then j.buf.getD n ((s.core t k).accEl b m n) else (s.core t k).accEl b m n) ∧
    (j.op = .mzero →
      let r := stepJob t k false e [] j s
      r.1.prog = j.prog + 1 ∧ r.2.2 = none ∧
        ∀ b m n, b < 16 → m < 64 → n < 64 → (r.2.1.core t k).accEl b m n =
          if b = lowBank j.f ∧ m / 4 = j.prog then 0 else (s.core t k).accEl b m n)) ∧
  (∀ (s : State),
    let t := s.cur.tile
    let k := s.cur.core
    let x := s.cc
    (∀ j j', x.held = false → x.mxq = [j] → x.hxq = [] → j.stat = .queued → (j.f.we = false ∨ j.waitSent = true) →
      j.satisfied s.now = true → x.gapMet .matrix s.now = true →
      checkOnce s t k j = .ok j' → jobCost j ≠ 0 → jobCost j' ≠ 0 →
      ∃ u, exec .matrixJobOffer s = .next u ∧ u.mem = s.mem ∧
        (u.core t k).mxq = [{ j' with stat := .offered, reqStep := s.now / 8, start := s.now }]) ∧
    (∀ k q j, s.cur.ix ≠ 1 → s.now / 8 ≤ s.ct.lim.step → (∀ c ∈ s.ct.lim.charges, c.ended = none) → s.ct.lim.gbatt = [] → s.ct.lim.gtaken = [] →
      s.ct.lim.blocked = false → s.ct.lim.gwant = 0 → wants s.ct = [(k, q, j)] →
      let idx := if s.ct.lim.quiet then 0 else s.ct.lim.idx
      (s.ct.lim.real + jobCost j ≤ Config.rampTab idx → ∃ u, exec .limiterStep s = .next u ∧
        u.ct.lim.charges = s.ct.lim.charges ++ [{ core := k, job := j.id, cost := jobCost j, macs := jobMacros j, batt := j.op == .mbatt }] ∧
        ∀ i ∈ (u.core t k).queue q, i.id = j.id → i.stat = .granted ∧ i.start = Nat.max s.now j.start) ∧
      (Config.rampTab idx < s.ct.lim.real + jobCost j → ∃ u, exec .limiterStep s = .next u ∧ u.ct.lim.charges = s.ct.lim.charges ∧
        u.ct.lim.blocked = true ∧ (u.core t k).queue q = (s.core t k).queue q)) ∧
    (∀ j, s.cur.ix ≠ 1 → x.engFrom ≤ s.now → s.now % (4 * x.meff) = 0 → x.held = false → x.mxq = [j] → x.hxq = [] →
      j.stat = .granted → firingWaits s t j = false → j.start ≤ s.now → x.gapMet .matrix s.now = true →
      ∃ u, exec .matrixJobStart s = .next u ∧ u.mem = s.mem ∧ (∃ n, (n, Act.instr t k 1 .matrixJobStart) ∈ u.agenda) ∧
        (u.core t k).mxq = [{ j with
          stat := .running, begun := true, start := s.now, ecs := if j.begun then j.ecs else 0,
          fin := if j.workDone then some s.now else none }]) ∧
    (s.cur.ix = 1 → x.engFrom ≤ s.now → s.now % (4 * x.meff) = 0 → x.engAt ≤ s.now →
      exec .matrixJobStart s = .next (nextStep t k ((stepQueue t k .handler false (stepQueue t k .matrix x.held s)).modCore
        t k fun y => { y with engAt := s.now + 4 * x.meff }))) ∧
    (∀ j n, x.mxq = [j] → x.hxq = [] → j.stat = .running → j.finished = true → j.fin = some n → n ≤ s.now → j.debt = 0 →
      (x.bankq.any fun r => r.job == some j.id) = false → s.ct.badSems = [] →
      ∃ u, exec .matrixJobComplete s = .next u ∧ (u.core t k).mxq = [] ∧ u.mem = s.mem ∧
        u.ct.landing = s.ct.landing ++ (if j.f.se then [⟨s.now + 1, j.f.ss, k, .engine none⟩] else [])) ∧
    (let d := Nat.max x.mdivNew (2 + s.levelOf t)
      ∃ u, exec .matrixDivisorChange s = .next u ∧ (u.core t k).meff = d ∧ (u.core t k).mdiv = x.mdivNew ∧
        (d ≠ x.meff → (u.core t k).engFrom = alignUp s.now (4 * d)) ∧ u.mem = s.mem) ∧
    (x.held = true → x.stopped = false → exec .engineFreeze s =
      .next (((freezeMatrix t k s).dueK s.now t k .matrixJobOffer).dueT s.now t .tilePartEnd)))

/-- R117 to R119, R203, R353 to R374, R443, R448 and R472: how the jobs of the channels and the send unit move: the start of a ready
head, a chunk, the carder's decoding and verification of a block, a job that has lost a chunk, completion with its signal, a firing, a watermark's stall ended, a recovery. -/
def Obligations.CopyJobsMove : Prop :=
  ∀ (s : State),
    let t := s.cur.tile
    let k := s.cur.core
    let c : ChanId := fin 8 s.cur.ix
    let q : QueueId := .chan c
    (∀ k' j, (∀ i ∈ s.ct.coreList,
        headCheck t i q (fun s j => copyChecks s t i j) (fun s n => s.dueH n t c.val .channelJobStart) s = s) →
      (s.ct.chans.get c.val {}).run = none → chanReady s t c = some (k', j) → j.op ≠ .wmset → j.allSent = false →
      ∃ u, exec .channelJobStart s = .next u ∧ u.mem = s.mem ∧ (u.ct.chans.get c.val {}).run = some k' ∧
        (j.op = .cpyd → (t, 0, c.val + 8, Instr.carderBlock) ∈ u.pool) ∧
        (j.op ≠ .cpyd → ∃ n, s.now + chunkTime j.chunkBytes ≤ n ∧ (n, Act.instr t 0 (c.val + 8) .copyChunk) ∈ u.agenda)) ∧
    (∀ k' j, chanJob s t c = some (k', j) → 8 ≤ s.cur.ix →
      (j.op ≠ .cpyd → j.prog < j.total → (s.ct.chans.get c.val {}).debt = 0 →
        exec .copyChunk s = .next (s.enable t 0 c.val .copyChunk)) ∧
      (j.op ≠ .cpyd → j.prog < j.total → ∀ n, (s.ct.chans.get c.val {}).debt = n + 1 →
        exec .copyChunk s = .next (chunkAfter t c.val (2 * (n + 1)) (s.modTile t fun y =>
          { y with chans := y.chans.set c.val { y.chans.get c.val {} with debt := 0 } }))) ∧
      (j.op = .cpyd → j.card = none → (s.core t k').stopped = false → exec .carderBlock s =
        .next (cardGo t c (modJob t k' q j.id (fun j =>
          { j with card := some { org := j.pos, pos := j.pos, e := j.prog, blk := j.blk } }) s)))) ∧
    (∀ k' j u, chanJob s t c = some (k', j) → j.op = .cpy → j.prog < j.total → s.cur.ix < 8 → (s.core t k').stopped = false →
      j.win = none → chunkFault s t k' j = none → (s.ct.chans.get c.val {}).wm = none → copyLocal t c k' j s = .ok u →
      ∃ v i, exec .copyChunk s = .next v ∧ v.mem = u.mem ∧ ((v.core t k').queue q).head? = some i ∧
        i.prog = j.prog + 1 ∧ i.bytes = j.prog + 1) ∧
    (∀ k' j, chanJob s t c = some (k', j) → j.op = .cpyd → s.cur.ix < 8 → exec .carderBlock s = .next (cardGo t c s)) ∧
    (∀ k' j (d : Card) b,
      let left := recBytes j.recA - d.pos
      let len := Nat.min left (if left < 16 then 16 else 16 + d.field 4 4)
      let p := cardRead t c k' j d (d.pos + len) s
      s.bad = [] → (∀ i, i < len → placeBreach p.2 t k' j false ((recBase j.recA + d.pos + i : Nat) : Int) = none) →
      cardBlock p.1.byte left (j.total - d.e) (recFmt j.recB) (recW j.recB) = .ok b →
      let r := cardDecode t c k' j d s
      r.1.pos = d.pos + b.len ∧ r.1.e = d.e + b.elems.length ∧ r.1.blk = d.blk + 1 ∧ r.1.stop = d.stop ∧ r.2.mem = s.mem ∧
        r.1.wait = d.wait ++ [{ due := s.now + 4, elems := heldElems j.recB b, len := b.len }]) ∧
    (∀ k' j (d : Card) b, ((s.core t k').queue q).head? = some j → b.fail = none →
      elemFault (placeBreach s t k' j true) j.recB j.prog (j.prog + b.elems.length) = none →
      (let per := 3 * (recSize j.recB 0 / 32)
       recMx j.recB = true → ∀ i, 3 * (j.prog / 32) ≤ i → i < 3 * ((j.prog + b.elems.length) / 32) →
         placeBreach s t k' j true (nibbleByte j.recB (i / per) (i % per)) = none) →
      (∀ l, badWrite s l = none) → (s.ct.chans.get c.val {}).wm = none →
      ∃ v i, cardVerify t c k' j d b s = some v ∧ v.mem = s.mem ∧ ((v.core t k').queue q).head? = some i ∧
        i.prog = j.prog + b.elems.length ∧ i.pos = j.pos + b.len ∧ i.blk = j.blk + 1 ∧ i.buf = j.buf ++ b.elems ∧
        ∃ e, i.card = some e ∧ e.writeAt = s.now + 2 ∧ e.wait = d.wait.drop 1) ∧
    (let l := (s.core t k).queue (queueOf s.cur.ix);
      (∀ j r, l.findSome? (fun j => (j.robbed s t k).map fun r => (j, r)) = some (j, r) →
        exec .copyJobComplete s = .next (failJob t k (queueOf s.cur.ix) j.again r s)) ∧
      ∀ j, (∀ i ∈ l, i.robbed s t k = none) → l.head? = some j → j.done = true → j.maskInfo = none →
        signalBad s t k j = none →
        exec .copyJobComplete s = .next ((kickQueue t k (queueOf s.cur.ix) (releaseChan t (queueOf s.cur.ix)
          (popJob t k (queueOf s.cur.ix) j j.delivered s))).dueT s.now t .tilePartEnd)) ∧
    (∀ j u, headCheck t k .send (fun s j => if j.op = .ctready then readyChecks s t k j else sendChecks s t k j)
        (fun s n => s.dueK n t k .sendJobStart) s = s → readyHead s t k .send = some j →
      firingWaits s t j = false → j.allSent = false →
      (j.op = .send → startSend t k j s = .ok u → exec .sendJobStart s = .next u) ∧
      (j.op = .ctready → startReady t k j s = .ok u →
        exec .sendJobStart s = .next u)) ∧
    (let e := s.ct.cents.get s.cur.ix {};
      e.rdy = true → e.left = 0 → ∃ u, exec .firingComplete s = .next u ∧
        u.ct.cents.get s.cur.ix {} = { e with rdy := false, owner := none } ∧ u.mem = s.mem ∧
        (∀ n, n ≠ s.cur.ix → u.ct.cents.get n {} = s.ct.cents.get n {})) ∧
    (∃ u, exec .watermarkStallEnd s = .next u ∧ u.mem = s.mem ∧
      ∀ i ∈ s.ct.coreList, (s.core t i).m.stall = 7 → (s.core t i).m.held = false →
        ∃ n, (n, Act.issue t i .m) ∈ u.agenda) ∧
    ∀ j, ((s.core t k).queue (queueOf s.cur.ix)).find? (fun j => j.stat == .parked && j.hub.isSome) = some j →
      (j.hub = some 64 → exec .hubRecovery s = .next (unpark t k s.cur.ix s)) ∧
      (j.hub = some 65 → exec .hubRecovery s = .next (endByFault s.ct.taskid .circuitNotLive s)) ∧
      (∀ h, j.hub = some h → h ≠ 64 → h ≠ 65 → (s.circ t h).state = .live →
        exec .hubRecovery s = .next (unpark t k s.cur.ix s)) ∧
      (∀ h, j.hub = some h → h ≠ 64 → h ≠ 65 → (s.circ t h).state = .faulted ∨ (s.circ t h).state = .idle →
        exec .hubRecovery s = .next (endByFault s.ct.taskid .circuitNotLive s))

/-! ## Units -/

/-- R187 to R190, R271, R272 and R452: what the file does with the one operation that is ready in a cycle, in counting
and in phase mode.
R67, R68 and R69: the walker answers the request that it serves with the next ordinal of the nest, or that there is
none. -/
def Obligations.SemaphoreFileComplete : Prop :=
  (∀ (s : State) (l : Landing), s.ct.landing = [l] → l.ready ≤ semBegin s.now → (s.ct.sem l.sem.toNat).arrv ≠ 0xFFFF →
    (s.ct.badSems.any fun m => m == l.sem) = false → s.ct.jobWaits l.sem.toNat = false →
    (∀ m, m ≠ l.sem.toNat → (s.ct.sem m).complete = false) →
    (l.op = .arrive ∨ (∃ p v, l.op = .set p v) ∨ ∃ m, l.op = .sig m ∨ l.op = .wait m ∨ l.op = .try m) →
    let t := s.cur.tile
    let n := l.sem.toNat
    let y := s.ct.sem n
    ∃ u, exec .semaphoreFileCycle s = .next u ∧ u.mem = s.mem ∧ u.ct.landing = [] ∧
      (∀ m, m ≠ n → u.ct.sem m = s.ct.sem m) ∧
      let z := u.ct.sem n
      let a := (u.core t l.core).c.ans
      let reply (v : Word) (ok : Bool) : Option Ans := some { due := semBegin s.now + 4, val := v, ok := ok }
      (∀ p v, l.op = .set p v → y.waiters = [] → y.bwaits = [] → p = false →
        z = { count := v } ∧ a = reply 0 true) ∧
      (∀ p v, l.op = .set p v → y.waiters = [] → y.bwaits = [] → p = true → v.extractLsb' 0 16 ≠ 0 →
        z = { phaseMode := true, expa := v.truncate 16 } ∧ a = reply 0 true) ∧
      (∀ m, y.phaseMode = false → y.waiters = [] → y.bwaits = [] →
        (l.op = .sig m → y.count.toNat + m.toNat < 2 ^ 32 → z = { y with count := y.count + m } ∧ a = reply 0 true) ∧
        (l.op = .sig m → 2 ^ 32 ≤ y.count.toNat + m.toNat → z = y ∧
          a = some { due := semBegin s.now + 4, val := 0, ok := false, fault := some (semRec s t l.core n .semOverflow) }) ∧
        (l.op = .wait m → m ≤ y.count → z = { y with count := y.count - m } ∧ a = reply (y.count - m) true) ∧
        (l.op = .wait m → y.count < m →
          z = { y with waiters := [{ core := l.core, src := none, amount := m }] }) ∧
        (l.op = .try m → m ≤ y.count → z = { y with count := y.count - m } ∧ a = reply 1 true) ∧
        (l.op = .try m → y.count < m → z = y ∧ a = reply 0 false)) ∧
      (y.phaseMode = true → y.waiters = [] → y.bwaits = [] → l.op = .arrive →
        a = reply (y.phase + 1) true ∧
        (y.expa.toNat ≤ y.arrv.toNat + 1 → y.expb.toNat ≤ y.bytes.toNat →
          z.phase = y.phase + 1 ∧ z.arrv = y.arrv + 1 - y.expa ∧ z.bytes = y.bytes - y.expb ∧ z.expb = 0) ∧
        (y.arrv.toNat + 1 < y.expa.toNat ∨ y.bytes.toNat < y.expb.toNat → z = { y with arrv := y.arrv + 1 }))) ∧
  (∀ (s : State) (r : WalkReq), s.ct.walkq = [r] → r.cyc < s.now / 2 →
    let nest := s.ct.nests.get r.nest []
    let ord := s.ct.cursors.get r.nest 0
    let ok := nestHas nest r.core && decide (ord < nestTotal nest)
    ∃ u, exec .walkerCycle s = .next u ∧ u.mem = s.mem ∧ u.ct.walkq = [] ∧
      u.ct.cursors.get r.nest 0 = (if ok then ord + 1 else ord) ∧
      (u.core s.cur.tile r.core).c.ans = some { due := 2 * (s.now / 2) + 4, val := BitVec.ofNat 32 ord, ok := ok })

/-- R82 to R86, R230, R231, R427 to R429: a core's gating and waking, its stop for a pre-emption, and the two faults of a
core that makes no progress. That a core which has exited stops where it stands, held to R83 as one that stops at a SAFEPT is, is
the model's choice (log 21), and so is the order in which the arbiter begins its round robin (log 30). -/
def Obligations.CoreEventsComplete : Prop :=
  ∀ (s : State),
    let t := s.cur.tile
    let k := s.cur.core
    let x := s.cc
    (x.stuck = true → x.quietAt + 65536 * x.cdiv ≤ s.now → exec .clusterDeadlock s =
      .next (deliver { code := .clusterDeadlock, kind := .async, task := s.ct.taskid, tile := some (s.ct.ltile, t), core := some (k, .c), extra := BitVec.ofNat 64 (stallCodes x) } s)) ∧
    ((s.request t).isSome = true → x.watched = true → x.watch + 320000 ≤ s.now → exec .watchdog s =
      .next (deliver { code := .watchdog, kind := .async, task := s.ct.taskid, tile := some (s.ct.ltile, t), core := some (k, .c), pc := some x.lastC, extra := BitVec.ofNat 64 (x.issued % 2 ^ 32) } s)) ∧
    (gateIdle s.ct k = true → x.gated = false → alignUp x.idleAt 2 + 512 ≤ s.now → exec .coreGate s =
      .next (s.modCore t k fun x => { x with gated := true, gateAt := s.now, wakeReq := false, woken := false })) ∧
    (x.gated = true → x.wakeReq = true → x.woken = false → x.gateAt + 4096 ≤ s.now →
      exec .wakeRequest s = .next (s.dueT (Nat.max s.now s.ct.grantFrom) t .inrushGrant)) ∧
    (∀ j r, ((rrCores s.ct.lastWoken).filter fun i => (s.ct.core i).asks s.now) = j :: r → s.ct.grantFrom ≤ s.now →
      ∃ u, exec .inrushGrant s = .next u ∧ u.ct.lastGrant = some s.now ∧ u.ct.lastWoken = j ∧ u.mem = s.mem ∧
        u.core t j = { s.core t j with woken := true } ∧ (s.now + 400, Act.instr t j 0 .coreWake) ∈ u.agenda ∧
        (r ≠ [] → (s.now + 128, Act.instr t 0 0 .inrushGrant) ∈ u.agenda)) ∧
    (x.gated = true → x.woken = true → x.heldFaults = [] → ∃ u, exec .coreWake s = .next u ∧ u.mem = s.mem ∧
      u.cc = { x with gated := false, wakeReq := false, woken := false, idleAt := s.now }) ∧
    ((s.request t).isSome = true → x.stopped = false → x.gated = true → exec .coreStop s = .next (wakeCore t k s)) ∧
    ((s.request t).isSome = true → x.stopped = false → x.gated = false → (∀ cl, (x.clu cl).req = none) →
      (x.halted = true ∨ x.exited.isSome = true ∨
        (s.cur.ix = 1 ∧ x.safeLast.isSome = true ∧ x.trap = false ∧ x.waitsSup = false)) →
      (x.lq = [] → x.sq = [] → x.pend = [] → (∀ cl, (x.clu cl).xq = []) → exec .coreStop s = .next (stopCore t k s)) ∧
      (safeptBits x ≠ 0 → exec .coreStop s =
        .next (deliver { code := .safeptState, kind := .async, task := s.ct.taskid, tile := some (s.ct.ltile, t), core := some (k, .c), pc := some (x.bundlePcs.getD 0 (0, [])).1, extra := BitVec.ofNat 64 (safeptBits x) } s))) ∧
    let v := stopCore t k s
    (v.core t k).stopped = true ∧ (v.core t k).vlat = [] ∧ v.mem = s.mem ∧
      ∀ cl, ((v.core t k).clu cl).stat = .stopped ∧ ((v.core t k).clu cl).lat = []

/-- R216, R219, R410, R433 to R436, R441 and R442: a sample of the governor and its limits on a string's throttle level; what a
delivered fault, a failure of the hub, of a tile, of a core, and a corrected error do. That the record of corrections in a period
that has one waits for the start of the next, and that a bypass and a map-out act at once, is the model's choice (log 35). -/
def Obligations.UnitEventsComplete : Prop :=
  ∀ (s : State),
    let t := s.cur.tile
    let n : StringId := fin 8 s.cur.ix
    (∀ imb : List Int, (s.str n).level < 2 → ∃ u, exec (.governorSample imb) s = .next u ∧ u.mem = s.mem ∧
      (u.str n).level ≤ (s.str n).level + 1 ∧ (s.str n).level ≤ (u.str n).level + 1 ∧
      (∀ j, j < 4 → (s.tile (fin 32 (4 * n.val + j))).inService = true →
        (u.tile (fin 32 (4 * n.val + j))).strimb = BitVec.ofInt 32 (imbSat (imb.getD j 0))) ∧
      ∃ v, (3200 * (s.now / 3200 + 1), Act.instr 0 0 n.val (.governorSample v)) ∈ u.agenda) ∧
    (∀ r, exec (.faultDelivery r) s = .next (deliver r s)) ∧
    (∃ u, exec .hubFailure s = .next u ∧ u.hub.dead = true) ∧
    (∀ c : Fin 3, bypassDue s t c.val = false → exec (.tileBypass c) s = .next s) ∧
    (s.ct.inService = true → ∀ c : Fin 3, bypassDue s t c.val = true → ∃ u, exec (.tileBypass c) s = .next u ∧ (u.tile t).inService = false ∧
      (u.str (stringOf t)).bypassed = true ∧ (u.str (stringOf t)).millivolts = 1350) ∧
    (s.ct.inService = true → ∀ c : CoreId, s.ct.present.getLsbD c.val = true → 12 < s.ct.ncores →
      ∃ u, exec (.coreFailed c) s = .next u ∧ (u.tile t).present.getLsbD c.val = false) ∧
    (∀ (mpa : Mpa) (store : BitVec 4),
      (s.cur.ix = 1 → s.ct.soft ≠ 0 → ∃ u, exec (.softCorrected mpa store) s = .next u ∧
        u.ct.soft = 0 ∧ u.ct.softAt = some s.now ∧ u.hub.rseq = s.hub.rseq + 1) ∧
      (s.cur.ix ≠ 1 → s.ct.softAt = none → ∃ u, exec (.softCorrected mpa store) s = .next u ∧
        u.ct.soft = 0 ∧ u.ct.softAt = some s.now ∧ u.hub.rseq = s.hub.rseq + 1) ∧
      ∀ m, s.cur.ix ≠ 1 → s.ct.softAt = some m → m / 3200000 = s.now / 3200000 →
        ∃ u, exec (.softCorrected mpa store) s = .next u ∧ u.ct.soft = s.ct.soft + 1 ∧ u.hub = s.hub ∧ u.mem = s.mem ∧
          (3200000 * (s.now / 3200000 + 1), Act.instr t 0 1 (.softCorrected mpa store)) ∈ u.agenda)

/-! ## Tasks -/

/-- R42, R206, R207, R212 to R214 and R410: a doorbell; a cycle of the dispatcher, and what a scan makes of the candidate of a
queue.
R61, R63, R64, R79 and R80: the grant of a lease, the start of a task, and what the launch state of a tile is. That REASON 1 comes before every other cause of a refusal, and that the slot is taken at the launch decision, is the model's choice: log 31. -/
def Obligations.LaunchComplete : Prop :=
  (∀ (s : State),
    (∀ v, (s.hub.stage ≠ 0xE → exec (.taskDoorbell v) s = .next (s.modHub fun h => { h with early := true })) ∧
      (s.hub.stage = 0xE → s.hub.dead = true → exec (.taskDoorbell v) s = .next s) ∧
      (s.hub.stage = 0xE → s.hub.dead = false → ∃ u, exec (.taskDoorbell v) s = .next u ∧
        u.hub.bells = s.hub.bells ++ [(fin 8 s.cur.ix, v)] ∧ u.mem = s.mem ∧ ∃ n, s.now ≤ n ∧ n ≤ s.now + 3 ∧
          (n, Act.instr 0 0 0 .dispatcherScan) ∈ u.agenda)) ∧
    (∃ u, exec .dispatcherScan s = .next u ∧
      (s.hub.bells = [] ∨ s.hub.dead = true → s.hub.tasks = [] → u.hub.bells = [] ∧ u.hub.tasks = [] ∧ u.mem = s.mem ∧
        u.hub.scanned = some (s.now / 2)) ∧
      ∀ b d, s.hub.bells = [(b, d)] → s.hub.dead = false → s.hub.tasks = [] →
        let r := (s.modHub fun h => { h with scanned := some (s.now / 2) }).modHub fun h => { h with bells := [] }
        let a := mpaField d 6
        let i := mpaField (r.readDWord a) 6
        let c := countRead a 64 r
        let v := countRead i (c.leAt (i + 48) 8) c
        parseImage v i = none → u.hub.bells = [] ∧ u.hub.tasks = [] ∧
          u.mem = (completion (mpaField (r.readDWord (a + 24)) 4) ((r.readDWord (a + 8)).extractLsb' 48 16) 0x03 0 1 v).mem) ∧
    ∀ q x, s.candidate q = some x → (s.hub.reserved.all fun r => r.1 != x.id) = true →
      (placeTask s x (s.freeStrings x.id) = none → scanQueue s q = preemptFor x s) ∧
      ∀ ss slot, placeTask s x (s.freeStrings x.id) = some ss → s.freeSlot = some slot → x.stat = .queued →
        s.task? x.id = some x → ∃ y, (scanQueue s q).task? x.id = some y ∧ y.stat = .launching ∧ y.strings = ss ∧
          y.slot = some slot ∧ (scanQueue s q).mem = s.mem) ∧
  (∀ (s : State),
    (∀ pl x ss, s.task? (BitVec.ofNat 16 s.cur.ix) = some x → leaseStrings s x = some ss →
      placesOk s { x with strings := ss } pl = true → ∃ u y, exec (.leaseGrant pl) s = .next u ∧
        u.task? x.id = some y ∧ y.places = pl ∧ y.leases = pieces x.img.ranges pl ∧ y.granted = true ∧ u.mem = s.mem ∧
        ∀ n, x.stat = .launching → x.slot = some n → (stepAfter s.now, Act.instr 0 0 n.val .launch) ∈ u.agenda) ∧
    (∀ x, s.slotTask (fin 8 s.cur.ix) = some x → x.granted = true → x.saves = [] → x.live = [] →
      (x.stat = .launching ∨ x.stat = .takeover) →
      (s.now % 32 = 0 → s.streaming = false → handlesIdle s x = true →
        exec .launch s = .next (startTask x (fin 8 s.cur.ix) s)) ∧
      (s.now % 32 ≠ 0 ∨ s.streaming = true ∨ handlesIdle s x = false →
        exec .launch s = .next (s.dueN (stepAfter s.now) (fin 8 s.cur.ix).val .launch))) ∧
    (∀ x t tix (k : CoreId), k ∈ (s.tile t).coreList →
      let y := launchTile s x t tix false
      let c := y.core k
      y.sems = {} ∧ y.wins = {} ∧ y.inbs = {} ∧ y.shapes = {} ∧ y.chans = {} ∧ y.groups = {} ∧ y.routes = (s.tile t).routes ∧
        c.s = {} ∧ c.a = {} ∧ c.v = {} ∧ c.k = {} ∧ c.e = {} ∧ c.acc = {} ∧ c.rgn = {} ∧ c.fpflags = 0 ∧ c.trap = false ∧
        c.trapvec = 0x1FFFF ∧ c.cdiv = 2 ∧ c.mdiv = 2 ∧
        ∀ cl, (c.clu cl).guards = 1 ∧ (c.clu cl).loops = [] ∧ (c.clu cl).xq = []) ∧
    ∀ (t : TileId) (c off : Nat), c < 16 → off < 0x400000 → (zeroPads t s).readByte (onDieMpa t.val c 0 off) = 0)

/-- R42: before READY the dispatcher accepts no task, and a doorbell write is discarded and sets EARLY. -/
def Obligations.NoTaskBeforeReady : Prop :=
  ∀ (s : State), s.hub.stage ≠ 0xE →
    (∀ v, ∃ u, exec (.taskDoorbell v) s = .next u ∧ u.hub = { s.hub with early := true } ∧ u.agenda = s.agenda ∧
      u.mem = s.mem) ∧
    (s.hub.bells = [] → ∃ u, exec .dispatcherScan s = .next u ∧
      u.hub.tasks.map (fun x => (x.id, x.stat, x.slot)) = s.hub.tasks.map fun x => (x.id, x.stat, x.slot))

/-- R82, R85, R87, R88 and R387: a pre-emption's request, the stop of the rig program, its completion, and the restart of what
was put aside.
R78, R79, R210 and R211: a tile that has ended its part; the end of a task whose tiles all have, with the successor that
takes over or without. That the stop of a rig program ends its wait for an acknowledgement is the model's choice: log 28; the place, the bytes and the frame of the save areas are log 34, and the rules of a successor log 31, choices of the model too. -/
def Obligations.PreemptionAndEndComplete : Prop :=
  (∀ (s : State) (x : Task), s.slotTask (fin 8 s.cur.ix) = some x →
    let n : SlotId := fin 8 s.cur.ix
    (x.stat = .stopping → x.preemptAt = none → ∃ u, exec .preemptionRequest s = .next u ∧ u.mem = s.mem ∧
      u.slotTask n = some { x with preemptAt := some s.now, rig := { x.rig with stopReq := true } } ∧
      (∀ t ∈ s.taskTiles x, ∀ k ∈ (s.tile t).coreList, (u.core t k).watch = s.now ∧
        (s.now, Act.instr t k 0 .coreStop) ∈ u.agenda)) ∧
    (x.stat = .stopping → x.rig.stopReq = true → x.rig.stopped = false → s.now % 32 = 0 →
      (∀ p ∈ s.slotHandles n, (s.circ p.1 p.2.val).unsettled = false) →
      ∃ u, exec .rigProgramStop s = .next u ∧ u.mem = s.mem ∧ u.slotTask n = some { x with rig :=
        { x.rig with stopped := true, holdLeft := x.rig.holdTo - s.now / 32, waitXport := none } }) ∧
    (x.stat = .stopping → x.preemptAt.isSome = true → (∀ t ∈ s.taskTiles x, (s.tile t).settled = true) →
      x.rig.stopped = true → x.supFault = false → x.derigging = true →
      (s.slotHandles n = [] →
        let saves := (s.tixTiles x).map fun p => (p.2, spillTile s x p.1 p.2)
        (∀ l, saveAreas s saves = some l → exec .preemptionComplete s = .next (putAside x (saves.map Prod.snd) l s)) ∧
        (saveAreas s saves = none →
          exec .preemptionComplete s = .next (s.dueN (stepAfter s.now) n.val .preemptionComplete))) ∧
      (s.slotHandles n ≠ [] → exec .preemptionComplete s = .next (s.dueN (stepAfter s.now) n.val .preemptionComplete))) ∧
    (Safe s → badSpill s x = none → s.task? x.id = some x → ∀ saves l, (∀ c ∈ l, c.mpa + c.size ≤ 2 ^ 41) →
      ∃ y, (putAside x saves l s).task? x.id = some y ∧ y.stat = .preempted ∧ y.slot = none ∧ y.saves = saves ∧
        y.saveAt = l ∧ y.modid = s.hub.modid ∧
        ∀ a, (∀ c ∈ l, a < c.mpa ∨ c.mpa + c.size ≤ a) → (putAside x saves l s).readByte a = s.readByte a) ∧
    (x.stat = .launching → x.granted = true → s.now % 32 = 0 → s.streaming = false →
      (x.saves = [] → x.live ≠ [] →
        (∀ l ∈ x.live, ∃ t, s.bound x l.1 = some t ∧ (s.circ t l.2.1.val).state = .live) →
        exec .resume s = .next (restartTask x n s)) ∧
      (x.saves ≠ [] → bindingHolds s x = false → exec .resume s = .next (unbind x s)) ∧
      (x.saves ≠ [] → x.live = [] → bindingHolds s x = true → handlesIdle s x = true →
        (∀ c ∈ x.saveAt, s.badIn c.mpa c.size = none) → exec .resume s = .next (restartTask x n
          ((rerigTask x (restoreTiles x s)).modTask x.id fun y => { y with saves := [], saveAt := [] }))))) ∧
  (∀ (s : State),
    (∀ x, s.tileTask s.cur.tile = some x → (x.stat = .running ∨ x.stat = .stopping) → x.derigging = false →
      s.ct.partDone = false → s.ct.ended = true → (∀ z ∈ s.hub.tasks, z.exits = []) →
      ∃ u, exec .tilePartEnd s = .next u ∧ u.ct = { s.ct with partDone := true } ∧ u.mem = s.mem ∧ u.hub = s.hub ∧
        ∀ n, x.slot = some n → (∀ t ∈ s.taskTiles x, t ≠ s.cur.tile → (s.tile t).partDone = true) →
          (stepAfter s.now, Act.instr 0 0 n.val .taskEnd) ∈ u.agenda) ∧
    ∀ x, s.slotTask (fin 8 s.cur.ix) = some x → (x.stat = .running ∨ x.stat = .stopping) → x.derigging = false →
      (∀ t ∈ s.taskTiles x, (s.tile t).partDone = true) →
      let t := x.firstExit.getD 0
      (t = 0 → exec .taskEnd s = .next (retire x 0x00 0 0 (fun _ => false) false s)) ∧
      (t ≠ 0 → successor s x t = none → exec .taskEnd s = .next (retire x 0x01 t 0 (fun n => n != t) false s)) ∧
      ∀ y, successor s x t = some y → y.id ≠ x.id → (∀ z ∈ s.hub.tasks, z.hold = none ∧ (z.id = y.id → z = y)) →
        ∃ u z, exec .taskEnd s = .next u ∧ u.task? y.id = some z ∧ z.stat = .takeover ∧
        z.strings = x.strings ∧ z.slot = some (fin 8 s.cur.ix) ∧ z.pred = 0 ∧
        (stepAfter s.now, Act.instr 0 0 (fin 8 s.cur.ix).val .launch) ∈ u.agenda)

/-! ## The host and the management processor -/

/-- R35, R39, R40, R41, R43 and R44: a reset of the module leaves time, memory, tiles and hub as at reset, but for what survives
it; the image of hub firmware decides stage 1; a stage of start-up leads to the next; READY follows the last; no string left is
FAILED. That memory is emptied, and that a version below the fuse gives CAUSE 2, is the model's choice (log 38), what survives the
reset is log 37, and that the three other images do not decide is deduced (log 11). -/
def Obligations.StartUpComplete : Prop :=
  ∀ (s : State),
    let fresh : Hub := { stored := s.hub.stored, leafIx := s.hub.leafIx, phys := s.hub.phys, kept := s.hub.kept, stage := 1 }
    let done (i : Instr) : Prop := ∃ u n, exec i s = .next u ∧ u.now = 0 ∧ u.mem = [] ∧ u.tiles = {} ∧ u.strs = {} ∧
      u.bad = [] ∧ u.pool = [] ∧ u.hub = fresh ∧ n ≤ 160000000 ∧ u.agenda = [(n, Act.instr 0 0 1 .powerUp)]
    (s.cur.ix = 0 → done .powerUp) ∧ done .fundamentalReset ∧ done .functionLevelReset ∧
    (s.cur.ix = 1 → s.hub.stage = 1 →
      let img : FwImage := s.hub.phys.images.get 0 {}
      let signed : Prop := img.sig.length = 2820 ∧ Config.xmssGood img.bytes img.sig = true
      let fresh : Prop := s.hub.phys.fuse.toNat ≤ img.version.toNat
      (signed → fresh → ∃ u, exec .powerUp s = .next u ∧ u.hub.stage = 2 ∧ u.hub.modid = s.hub.stored ∧
        u.hub.secver = img.version) ∧
      (¬ signed → ∃ u, exec .powerUp s = .next u ∧ u.hub.stage = 0xF ∧ u.hub.cause = 1) ∧
      (signed → ¬ fresh → ∃ u, exec .powerUp s = .next u ∧ u.hub.stage = 0xF ∧ u.hub.cause = 2 ∧
        u.hub.secver = img.version)) ∧
    (∀ n, 2 ≤ n → n ≤ 6 → s.cur.ix = n → s.hub.stage = n → ∃ u, exec .powerUp s = .next u ∧
      (u.hub.stage = n + 1 ∨ (u.hub.stage = 0xF ∧ u.hub.cause = 3)) ∧
      (s.hub.phys.lamps = [] → s.hub.phys.tiles = [] → s.hub.phys.hbm = [] → (∀ t, s.hub.phys.cores.get t 0 = 0) →
        s.someString = true → u.hub.stage = n + 1)) ∧
    (s.cur.ix = 7 → s.hub.stage = 7 → s.hub.startRecs = [] → ∃ u, exec .powerUp s = .next u ∧ u.hub.stage = 0xE ∧
      u.hub.invseq = s.hub.invseq + 1 ∧ u.mem = s.mem)

/-- R7, R30 to R34, R39, R41, R47, R50, R51, R58, R419 and R421: the link, MSI-X, configuration requests, BAR2 and what a 32-bit
write to a register of BAR0 does. The doorbells at offsets 0x10000 to 0x1003F are written with 64 bits (R207): such a write is
`taskDoorbell`'s, of which `DispatcherComplete` speaks, and is outside the clause on offsets that nothing changes. A BAR2 write before
READY, and a consumer count that goes backwards, are the model's choices (log 36). -/
def Obligations.HostAccessesComplete : Prop :=
  ∀ (s : State),
    (∃ u, exec .linkDown s = .next u ∧ u.hub.linkUp = false ∧ u.hub.rseq = s.hub.rseq + 1 ∧ u.mem = s.mem) ∧
    (∀ w r, ∃ u, exec (.linkRetrain w r) s = .next u ∧ u.hub.linkUp = true ∧ u.mem = s.mem ∧
      (16 ≤ w.toNat → 64 ≤ r.toNat → u.hub.rseq = s.hub.rseq ∧ ∀ n ∈ u.hub.msixPend, u.hub.msixMask.get n true = true) ∧
      (w.toNat < 16 ∨ r.toNat < 64 → u.hub.rseq = s.hub.rseq + 1)) ∧
    (∀ v, ∃ u, exec (.msixUnmask v) s = .next u ∧ u.hub.msixMask.get v.val true = false ∧ u.mem = s.mem ∧
      (s.hub.linkUp = true → v.val ∉ u.hub.msixPend ∧ (v.val ∈ s.hub.msixPend → v.val ∈ u.hub.msixOut))) ∧
    exec .configurationRequest s = .next (s.modHub fun h => { h with cfg := some (decide (h.stage ≤ 1)) }) ∧
    (s.hub.stage = 0xE → s.hub.stream = none → ∀ off x,
      (∀ p, s.hub.held2 = [] → s.aperture off false = some p → s.badIn p 4 = none → ∃ u, exec (.bar2Read off) s = .next u ∧
        u.hub.read2 = some (s.readWord p) ∧ u.mem = s.mem) ∧
      (s.hub.held2 = [] → s.aperture off false = none → ∃ u, exec (.bar2Read off) s = .next u ∧
        u.hub.read2 = some 0xFFFFFFFF ∧ u.hub.rseq = s.hub.rseq + 1 ∧ u.mem = s.mem) ∧
      (∀ p, s.aperture off true = some p → s.badPart p 4 = none → exec (.bar2Write off x) s = .next (performWord p x (askRows (asUnit .host) [p] s))) ∧
      (s.aperture off true = none → ∃ u, exec (.bar2Write off x) s = .next u ∧ u.mem = s.mem ∧
        u.hub.rseq = s.hub.rseq + 1)) ∧
    (∀ off x, s.hub.stage ≠ 0xE → exec (.bar2Write off x) s = .next s) ∧
    ∀ (off : BitVec 24) (x : Word), ∃ u, exec (.registerWrite off x) s = .next u ∧ u.mem = s.mem ∧
      let o := off.toNat / 4 * 4
      (o = 0x10 → u.hub = { s.hub with early := s.hub.early && !x.getLsbD 27 }) ∧
      (o = 0x30004 → countOk x s.hub.faultProd = true → u.hub = { s.hub with faultCons := x }) ∧
      (o = 0x30004 → countOk x s.hub.faultProd = false → u = s) ∧
      (o = 0x28004 → countOk x s.hub.cplprod = false → u = s) ∧
      (o = 0x20000 → 511 < (x - s.hub.cmdcons).toNat → u = s) ∧
      (0x20040 ≤ o → o < 0x28000 → u.hub.bar0.get (o / 4) 0 = x) ∧
      (0x40000 ≤ o → o < 0x40040 → u.hub.bar0.get (o / 4) 0 = x) ∧
      (o = 0x40040 → x.getLsbD 0 = false → u = s) ∧
      (0x50000 ≤ o → o < 0x58000 → o % 16 = 12 → u.hub.msixMask.get ((o - 0x50000) / 16) true = x.getLsbD 0) ∧
      (0x60000 ≤ o → o < 0x61FC0 → u.hub.bar0.get (o / 4) 0 = x &&& 0xFFFFFCFF) ∧
      (o = 0x100020 → x.getLsbD 0 = true → s.hub.astat ≠ 1 → u.hub.astat = 1 ∧ u.hub.capNonce = s.hub.bar0Bytes 0x100000 32) ∧
      (o < 0x10 ∨ (0x14 ≤ o ∧ o < 0x10000) ∨ (0x10040 ≤ o ∧ o < 0x20000) ∨ 0x100024 ≤ o → u = s)

/-- R31, R38 and R423: the requests of the memory processor's mailbox. R38 gives NOT_MAPPED for XLATE and IN_USE for HOSTUNMAP:
NOT_MAPPED for UNMAPSLOT, and IN_USE and INVALID for HOSTMAP, are the model's choices (log 36), as is the open permission bit of XLATE
(log 6). -/
def Obligations.MailboxComplete : Prop :=
  ∀ (s : State), s.hub.mailBusy = true → s.req 32 32 = 0 →
    let arg := s.req 4 4
    let x := s.req 8 8
    let y := s.req 16 8
    let z := s.req 24 8
    (arg / 2 ^ 10 = 0 → arg / 2 ^ 6 % 4 = 0 → y = 0 → z = 0 → x % 2 ^ 30 = 0 → x < 2 ^ 48 → s.place x ≠ .hole →
      ∃ u, exec .mapslot s = .next u ∧ u.hub.mailBusy = false ∧ u.mem = s.mem ∧ u.hub.slots2.get (arg % 64) {} =
        { mapped := true, base := x, rd := arg / 2 ^ 8 % 2 == 1, wr := arg / 2 ^ 9 % 2 == 1 } ∧
        ∀ n, n ≠ arg % 64 → u.hub.slots2.get n {} = s.hub.slots2.get n {}) ∧
    (arg / 2 ^ 10 = 0 → arg / 2 ^ 6 % 4 = 0 → y = 0 → z = 0 → x % 2 ^ 30 ≠ 0 → exec .mapslot s = .next (mailReply 1 0 0 s)) ∧
    (arg / 2 ^ 6 = 0 → x = 0 → y = 0 → z = 0 →
      ((s.hub.slots2.get arg {}).mapped = true → ∃ u, exec .unmapslot s = .next u ∧ u.hub.mailBusy = false ∧ u.mem = s.mem ∧
        u.hub.slots2.get arg {} = {}) ∧
      ((s.hub.slots2.get arg {}).mapped = false → exec .unmapslot s = .next (mailReply 2 0 0 s))) ∧
    (arg / 2 ^ 4 = 0 → y = 0 → z = 0 →
      ((∀ t ∈ s.hub.tasks, t.ctx ≠ some arg) → exec .xlate s = .next (mailReply 2 0 0 s)) ∧
      ∀ t l, (s.hub.tasks.find? fun t => t.ctx == some arg) = some t →
        (t.leases.find? fun l => decide (l.va ≤ x) && decide (x < l.va + l.size)) = some l →
        ∃ u, ∃ b : BitVec 1, exec .xlate s = .next (mailReply 0 (BitVec.ofNat 64 (l.mpa.getD 0 + (x - l.va)))
          ((0 : BitVec 29) ++ b ++ BitVec.ofBool l.wr ++ BitVec.ofBool l.rd) u) ∧ u = { s with freeCtr := s.freeCtr + 1 }) ∧
    (arg = 0 → x % pageSize = 0 → hostRange y z = true → s.leaseHolds y z = false →
      exec .hostmap s = .next (mailReply 0 0 0 (retryGrants (s.modHub fun h => { h with hostmap := unmapHost y z h.hostmap ++ [(x, y, z)] })))) ∧
    (arg = 0 → x = 0 → hostRange y z = true → s.leaseHolds y z = false → s.hostMapped y z = true →
      exec .hostunmap s = .next (mailReply 0 0 0 (s.modHub fun h => { h with hostmap := unmapHost y z h.hostmap }))) ∧
    ∀ i ∈ [Instr.hostmap, .hostunmap], arg = 0 → (i = .hostmap → x % pageSize = 0) → (i = .hostunmap → x = 0) →
      (hostRange y z = false → exec i s = .next (mailReply 1 0 0 s)) ∧
      (hostRange y z = true → s.leaseHolds y z = true → exec i s = .next (mailReply 3 0 0 s))

/-- R35, R45 to R52, R55 to R58: attestation and the commands of the management queue.
R164 and R165: how the commands of a fibre port end. That RESTORE checks its ports before its tasks is the model's choice: log 52; where the index of a signature stands is the model's choice: log 11. -/
def Obligations.ManagementComplete : Prop :=
  (∀ (s : State),
    (s.hub.astat = 1 → (∀ e ∈ s.pool, e.2.2.2 ≠ .attestationComplete) →
      exec .attestationRequest s = .next (s.enable 0 0 0 .attestationComplete)) ∧
    (s.hub.astat = 1 → s.hub.leafIx < 2 ^ 20 → ∃ u, exec .attestationComplete s = .next u ∧ u.hub.astat = 2 ∧
      u.hub.report = reportBytes s ∧ u.hub.signature = signatureOf s.hub.leafIx (reportBytes s) ∧ u.hub.signature.length = 2820 ∧
      u.hub.leafIx = s.hub.leafIx + 1 ∧ u.mem = s.mem) ∧
    (s.hub.astat = 1 → 2 ^ 20 ≤ s.hub.leafIx → ∃ u, exec .attestationComplete s = .next u ∧ u.hub.astat = 3 ∧
      u.hub.report = [] ∧ u.hub.leafIx = s.hub.leafIx) ∧
    ((s.hub.capNonce.length = 32 → (reportBytes s).length = 200)) ∧
    (s.hub.cmd.isSome = true →
      (let x (c : BitVec 2) : XCmd := { cmd := c, tbl := (s.cmdWord 0).getLsbD 55, entry := ((s.cmdWord 1).extractLsb' 39 25).setWidth 32 <<< 6 };
        exec .mgmtXportDrain s = .next (xport (fin 64 s.cur.ix) (x 0) s) ∧
        exec .mgmtXportDark s = .next (xport (fin 64 s.cur.ix) (x 1) s) ∧
        exec .mgmtXportProbe s = .next (xport (fin 64 s.cur.ix) (x 2) s) ∧
        exec .mgmtXportOpen s = .next (xport (fin 64 s.cur.ix) (x 3) s)) ∧
      (∀ y, s.task? s.cmdArg = some y → y.slot.isSome = true →
        exec .abort s = .next (mgmtDone 0 0 0 [] (retire y 0x06 0 0 (fun _ => true) false s))) ∧
      (s.task? s.cmdArg = none → exec .abort s = .next (mgmtDone 5 0 0 [] s)) ∧
      (∃ u, exec .setmodid s = .next u ∧ u.hub.stored = s.cmdArg.truncate 10 ∧ u.hub.modid = s.hub.modid ∧ u.mem = s.mem) ∧
      (s.hub.stream = none →
        (portsReady s (s.cmdWord 2) = false → exec .checkpoint s = .next (mgmtDone 1 0 0 [] s) ∧
          exec .restore s = .next (mgmtDone 1 0 0 [] s)) ∧
        (portsReady s (s.cmdWord 2) = true →
          (∃ u, exec .checkpoint s = .next u ∧ u.hub.stream = some { pmask := s.cmdWord 2, sid := s.cmdWord 3, tasks := (s.hub.tasks.filter fun x => x.stat == .running || x.stat == .stopping).map (·.id) } ∧ u.mem = s.mem ∧
            (∀ x ∈ u.hub.tasks, x.slot.isSome = true → x.stat ≠ .running) ∧
            (stepAfter s.now, Act.instr 0 0 0 .checkpoint) ∈ u.agenda) ∧
          (s.hub.tasks ≠ [] → exec .restore s = .next (mgmtDone 6 0 0 [] s)) ∧
          (s.hub.tasks = [] → exec .restore s = .next
            (startStream { restore := true, pmask := s.cmdWord 2, sid := s.cmdWord 3 } .restore s))))) ∧
    ∀ st, s.hub.stream = some st →
      (st.restore = false → st.phase = 2 → streamDone s st = true → exec .checkpointComplete s =
        .next (endStream st 0 (BitVec.ofNat 64 (s.memChunks * 4096)) (BitVec.ofNat 64 st.sent) (digestWords st.sponge.digest) s)) ∧
      ∀ d n, st.restore = true → st.closing = some (d, n) → allArrived st = true → ∃ m v e, exec .restoreComplete s =
          .next (endStream st e (BitVec.ofNat 64 m) (BitVec.ofNat 64 (n + 1)) (digestWords (arrivedDigest st n)) v) ∧
        (e = 0 ↔ arrivedDigest st n = d ∧ (arrivedTasks s st n).isSome = true) ∧ (e = 0 ∨ (e = 7 ∧ v = s)) ∧
        (e = 0 → ∃ l, arrivedTasks s st n = some l ∧ v.hub.tasks = s.hub.tasks ++ l.map fun x => { x with ctx := none })) ∧
  (∀ (s : State),
    let f : FibreId := fin 64 s.cur.ix
    let y := s.fib f.val
    (∀ loss : BitVec 16, y.state = .probing → ∃ u, exec (.probeComplete loss) s = .next u ∧ u.mem = s.mem ∧
      (u.fib f.val).state = (if loss.toNat ≤ 90 then .aligned else .dark) ∧
      (stepAt s.now, Act.instr 0 0 f.val .drainComplete) ∈ u.agenda) ∧
    (y.state = .probing → y.probeAt + 64000 ≤ s.now → ∃ u, exec .probeTimeout s = .next u ∧ u.mem = s.mem ∧
      (u.fib f.val).state = .dark ∧ (stepAt s.now, Act.instr 0 0 f.val .drainComplete) ∈ u.agenda) ∧
    ((y.draining = false ∨ s.onFib f ≠ []) → y.busy = true → exec .drainComplete s = .next s) ∧
    (y.draining = true → y.state = .fopen → s.onFib f = [] → (∀ p ∈ s.hub.releasing, p.2.2.fibs.contains f = false) →
      (y.thenDark = false → exec .drainComplete s = .next
        (fibNext f 64 (fibFinish f 0 0 (s.modFib f.val fun y => { y with state := .aligned, draining := false })))) ∧
      (y.thenDark = true → exec .drainComplete s = .next (fibNext f 64 (fibFinish f 0 0 (makeDark f.val s))))))

/-! ## Traps, records, reset -/

/-- R278, R279 and R414: trap entry keeps where each cluster stood and puts it at its word of the handler block; the return
puts it back; a contained fault on the LOCAL route enters its core's handler with the trap registers of its record, and waits
while the core is in one. No register, queue or byte of memory changes with either. That a halted or exited core issues no word of its handler is the model's choice: log 21. -/
def Obligations.TrapsEnterAndReturn : Prop :=
  ∀ (t : TileId) (k : CoreId) (s : State),
    let x := s.core t k
    (∀ (cause hi : Word) (val : DWord),
      let u := trapEntry t k cause hi val s
      let y := u.core t k
      y.trap = true ∧ y.trapcause = cause ∧ y.trappcHi = hi ∧ y.trapval = val ∧ y.vlat = [] ∧ y.trapRetDepth = x.ret.length ∧
        (∀ cl, (y.clu cl).stat = (if x.halted || x.exited.isSome then .stopped else .running) ∧ (y.clu cl).lat = [] ∧ (y.clu cl).loops = (x.clu cl).loops ∧
          (y.clu cl).xq = (x.clu cl).xq ∧ (y.clu cl).guards = (x.clu cl).guards ∧
          ((x.clu cl).req = none → (y.clu cl).pc = BitVec.ofNat 19 (4 * x.trapvec.toNat + cl.code) ∧
            (y.clu cl).trapRet = (x.clu cl).pc)) ∧
        y.s = x.s ∧ y.a = x.a ∧ y.e = x.e ∧ y.v = x.v ∧ y.k = x.k ∧ y.acc = x.acc ∧ y.lq = x.lq ∧ y.sq = x.sq ∧
        y.pend = x.pend ∧ y.ret = x.ret ∧ u.mem = s.mem ∧ u.hub = s.hub ∧
        (∀ j i, ¬(j = t ∧ i = k) → u.core j i = s.core j i) ∧
        let w := trapReturn t k u
        (w.core t k).trap = false ∧ (w.core t k).ret = x.ret ∧ (w.core t k).s = x.s ∧ (w.core t k).v = x.v ∧ w.mem = s.mem ∧
          ∀ cl, (x.clu cl).req = none →
            ((w.core t k).clu cl).pc = (x.clu cl).pc ∧ ((w.core t k).clu cl).loops = (x.clu cl).loops) ∧
    ∀ (r : FaultRec) (l : BitVec 5) (c : Cluster), adjust s r = (.loc, .contained) → r.tile = some (l, t) →
      r.core = some (k, c) →
      let u := deliver r s
      (x.trap = false → x.stopped = false → x.waitsSup = false → x.gated = false → (u.core t k).trap = true ∧
        (u.core t k).trapcause = r.code.num ++ r.num ++ BitVec.ofNat 2 c.code ++ (1 : BitVec 2) ++ (0 : Byte) ∧
        (∀ p, r.pc = some p → (u.core t k).trappcHi = BitVec.ofNat 2 c.code ++ (0 : BitVec 11) ++ p) ∧
        (∀ m a, r.addr = some (m, a) → (u.core t k).trapval = a.setWidth 64) ∧
        (r.addr = none → (u.core t k).trapval = r.extra)) ∧
      (x.trap = true ∨ x.stopped = true ∨ x.waitsSup = true → x.heldFaults.length < 16 →
        u.core t k = { x with heldFaults := x.heldFaults ++ [(r, 0)] })

/-- R409, R413 and R419: a record's fields, its number, its place in the management log, and in the HOST ring while that has
room; it changes nothing else. -/
def Obligations.FaultRecordsAreWritten : Prop :=
  ∀ (r : FaultRec) (rt : Route) (sev : Severity) (s : State),
    let l := recWords s r rt sev
    let w (i : Nat) : DWord := l.getD i 0
    let u := writeRec r rt sev s
    l.length = 8 ∧ (w 0).extractLsb' 60 4 = r.code.num.extractLsb' 8 4 ∧ (w 0).extractLsb' 48 12 = r.code.num ∧
      (w 0).extractLsb' 46 2 = sev.code ∧ (w 0).extractLsb' 44 2 = rt.code ∧ (w 0).extractLsb' 42 2 = r.kind.code ∧
      (w 0).extractLsb' 32 8 = r.num ∧ (w 0).extractLsb' 0 32 = s.hub.rseq ∧ (w 1).extractLsb' 54 10 = s.hub.modid ∧
      (∀ a t, r.tile = some (a, t) → (w 1).extractLsb' 49 5 = a ∧ (w 1).extractLsb' 44 5 = BitVec.ofNat 5 t.val ∧
        (w 1).getLsbD 37 = true) ∧
      (r.tile = none → (w 1).extractLsb' 44 10 = 0 ∧ (w 1).getLsbD 37 = false) ∧
      (∀ k c, r.core = some (k, c) → (w 1).extractLsb' 40 4 = BitVec.ofNat 4 k.val ∧
        (w 1).extractLsb' 38 2 = BitVec.ofNat 2 c.code ∧ (w 1).getLsbD 36 = true) ∧
      (w 1).extractLsb' 16 16 = r.task ∧
      (∀ p, r.pc = some p → (w 2).getLsbD 63 = true ∧ (w 2).extractLsb' 0 19 = p) ∧ (r.pc = none → w 2 = 0) ∧
      (∀ m a, r.addr = some (m, a) → (w 3).getLsbD 63 = true ∧ (w 3).getLsbD 62 = m ∧ (w 3).extractLsb' 0 60 = a) ∧
      (r.addr = none → w 3 = 0) ∧ (r.fab = none → w 4 = 0) ∧
      (∀ f, r.fab = some f → (w 4).getLsbD 63 = true ∧ (w 4).extractLsb' 57 6 = f.handle ∧ (w 4).extractLsb' 53 4 = f.port ∧
        (w 4).extractLsb' 0 32 = f.mseq) ∧
      (r.time = none → w 5 = BitVec.ofNat 64 s.now) ∧ w 6 = r.extra ∧ w 7 = 0x8000000000000000 ∧
      u.hub.rseq = s.hub.rseq + 1 ∧ u.hub.mlog = s.hub.mlog ++ [recBits l] ∧ u.hub.tasks = s.hub.tasks ∧ u.mem = s.mem ∧
      u.tiles = s.tiles ∧ u.agenda = s.agenda ∧
      (rt ≠ .host → u.hub.faultProd = s.hub.faultProd ∧ u.hub.faultLost = s.hub.faultLost) ∧
      (rt = .host → s.hub.faultProd - s.hub.faultCons = 1023 → u.hub.faultProd = s.hub.faultProd ∧
        u.hub.faultLost = s.hub.faultLost + 1) ∧
      (rt = .host → s.hub.faultProd - s.hub.faultCons ≠ 1023 → u.hub.faultProd = s.hub.faultProd + 1 ∧
        u.hub.faultLost = s.hub.faultLost ∧ ∀ i, i < 8 →
          let o := (0x30000 + 64 * (1 + s.hub.faultProd.toNat % 1023)) / 4 + 2 * i
          u.hub.bar0.get o 0 = (w i).truncate 32 ∧ u.hub.bar0.get (o + 1) 0 = (w i).extractLsb' 32 32)

/-- R237 and R415: a C word with a reserved code in a used field faults with RESERVED_OPERAND, and outside a bundle that is
all it does: its record is delivered, and no source is read. -/
def Obligations.ReservedOperandsFault : Prop :=
  (∀ p ∈ ([(.add, 2), (.sub, 2), (.mul, 2), (.mulh, 2), (.mulhu, 2), (.mad, 3), (.and, 2), (.or, 2), (.xor, 2), (.andn, 2),
      (.shl, 2), (.shr, 2), (.sar, 2), (.rotl, 2), (.min, 2), (.max, 2), (.minu, 2), (.maxu, 2), (.clz, 1), (.popc, 1),
      (.brev, 1), (.mov, 1)] : List ((Hdr → RR → Instr) × Nat)),
    ∀ (h : Hdr) (f : RR) (s : State), Issues .c h s →
      (dstOk .c f.d = false ∨ ∃ c ∈ rrOps p.2 f, srcOk .c c = false) →
      exec (p.1 h f) s = .next (settle (atWord .c s) (atWord .c s).reserved)) ∧
    (∀ c : BitVec 7, srcOk .c c = true ↔ c.toNat < 0x44 ∨ c = 0x45 ∨ 0x60 ≤ c.toNat) ∧
    ∀ (s : State), s.cur.bundle = false → s.ccl.redir = none →
      let v := s.modCcl fun y => { y with req := none, ans := none }
      settle s s.reserved = deliver { code := .reservedOperand, kind := .precise, task := s.ct.taskid, tile := some (s.ct.ltile, s.cur.tile), core := some (s.cur.core, s.cur.cl), pc := some s.ccl.pc, extra := 0, handlerWork := s.cc.trap }
        (match s.cc.post with
        | some (.trap n p) => takeTrap s.cur.tile s.cur.core n p v
        | _ => v)

/-- What reset leaves (R7, R41, R103, R106, R109, R217, R226, R229, R282, R411): the registers and tables with the values that the field
maps give. -/
def Obligations.ResetState : Prop :=
  let s := State.reset
  s.now = 0 ∧ s.hub.rseq = 0 ∧ s.hub.cmdprod = 0 ∧ s.hub.cmdcons = 0 ∧ s.hub.cplprod = 0 ∧ s.hub.faultProd = 0 ∧
    s.hub.faultCons = 0 ∧ s.hub.faultLost = 0 ∧ s.hub.activeB = false ∧
    ∀ (t : TileId) (k : CoreId),
      let u : State := { s with cur := { tile := t, core := k } }
      (∀ n ∈ [0x000, 0x001, 0x002, 0x003, 0x004, 0x005, 0x008, 0x010, 0x011, 0x012, 0x013, 0x014, 0x020, 0x021, 0x022, 0x023,
          0x030, 0x031, 0x032], srValue u n = some 0) ∧
        srValue u 0x015 = some 0x0007FFFC ∧ srValue u 0x033 = some 0x80000200 ∧ srValue u 0x040 = some 0x00020202 ∧
        (s.tile t).routes = 0x0003E400 ∧ (∀ n, (s.core t k).rgn.get n 0 = 0) ∧
        (∀ n, ((s.tile t).wins.get n {}).v = false) ∧ (∀ n, ((s.tile t).inbs.get n {}).v = false) ∧
        ∀ h, (s.circ t h).state = .idle

/-- The memory of the state after reset is in canonical form. The canonical form is the model's own (log 2). -/
def Obligations.ResetMemoryCanonical : Prop := Safe State.reset

/-- Every step keeps the memory in canonical form: addresses strictly rise, and no entry holds what an unlisted address reads
as. The canonical form is the model's own (log 2). -/
def Obligations.StepKeepsMemoryCanonical : Prop := ∀ s t : State, Safe s → step s = .next t → Safe t
end

