-- ==== Sys2Proof/Laws/Flit.lean ====
section
/-!
SUPPORT. A flit is read as it was written: its fields come back from its 72 bytes, and its CRC is good (R152).
-/
namespace Sys2Proof.Laws
open Machine

/-- Bits of an append from above its low part. -/
theorem append_bits {a b : Nat} (x : BitVec a) (y : BitVec b) (i n : Nat) (h : b ≤ i) :
    (x ++ y).extractLsb' i n = x.extractLsb' (i - b) n := by
  ext j hj; simp [BitVec.getLsbD_append, show ¬ i + j < b by omega, show i + j - b = i - b + j by omega]

/-- Bits of an append from its low part. -/
theorem append_low {a b : Nat} (x : BitVec a) (y : BitVec b) (i n : Nat) (h : i + n ≤ b) :
    (x ++ y).extractLsb' i n = y.extractLsb' i n := by
  ext j hj; simp [BitVec.getLsbD_append, show i + j < b by omega]

/-- All bits. -/
theorem extract_all {a : Nat} (x : BitVec a) : x.extractLsb' 0 a = x := by
  ext j hj; simp

/-- The fields of trailer bits [63:16] stand where R152 puts them. -/
theorem top_fields (f : Flit) : f.top.extractLsb' 44 4 = f.ty ∧ f.top.extractLsb' 38 6 = f.pos ∧
    f.top.getLsbD 37 = f.last ∧ f.top.extractLsb' 0 32 = f.side := by
  refine ⟨?_, ?_, ?_, ?_⟩
  · exact (append_bits (f.ty ++ f.pos ++ BitVec.ofBool f.last ++ (0 : BitVec 5)) f.side 44 4 (by decide)).trans
      ((append_bits (f.ty ++ f.pos ++ BitVec.ofBool f.last) (0 : BitVec 5) 12 4 (by decide)).trans
      ((append_bits (f.ty ++ f.pos) (BitVec.ofBool f.last) 7 4 (by decide)).trans
      ((append_bits f.ty f.pos 6 4 (by decide)).trans (extract_all _))))
  · exact (append_bits (f.ty ++ f.pos ++ BitVec.ofBool f.last ++ (0 : BitVec 5)) f.side 38 6 (by decide)).trans
      ((append_bits (f.ty ++ f.pos ++ BitVec.ofBool f.last) (0 : BitVec 5) 6 6 (by decide)).trans
      ((append_bits (f.ty ++ f.pos) (BitVec.ofBool f.last) 1 6 (by decide)).trans
      ((append_low f.ty f.pos 0 6 (by decide)).trans (extract_all _))))
  · have h (a : BitVec 10) (b : BitVec 1) (c : BitVec 5) (d : BitVec 32) :
        (a ++ b ++ c ++ d).getLsbD 37 = b.getLsbD 0 := by
      rw [BitVec.getLsbD_append, BitVec.getLsbD_append, BitVec.getLsbD_append]; simp
    exact (h (f.ty ++ f.pos) (BitVec.ofBool f.last) 0 f.side).trans (by cases f.last <;> rfl)
  · exact (append_low (f.ty ++ f.pos ++ BitVec.ofBool f.last ++ (0 : BitVec 5)) f.side 0 32 (by decide)).trans
      (extract_all _)

/-- The payload, the trailer and the CRC stand where R152 puts them. -/
theorem word_fields (f : Flit) : f.word.extractLsb' 528 48 = f.top ∧ f.word.extractLsb' 0 512 = f.pay ∧
    f.word.extractLsb' 512 16 = flitCrc f.top f.pay := by
  refine ⟨?_, ?_, ?_⟩
  · exact (append_bits (f.top ++ flitCrc f.top f.pay) f.pay 528 48 (by decide)).trans
      ((append_bits f.top (flitCrc f.top f.pay) 16 48 (by decide)).trans (extract_all _))
  · exact (append_low (f.top ++ flitCrc f.top f.pay) f.pay 0 512 (by decide)).trans (extract_all _)
  · exact (append_bits (f.top ++ flitCrc f.top f.pay) f.pay 512 16 (by decide)).trans
      ((append_low f.top (flitCrc f.top f.pay) 0 16 (by decide)).trans (extract_all _))

/-- A flit written is read back, with a good CRC. -/
theorem readFlit_word (f : Flit) : readFlit f.word = (f, true) := by
  obtain ⟨h1, h2, h3⟩ := word_fields f
  obtain ⟨t1, t2, t3, t4⟩ := top_fields f
  simp only [readFlit, h1, h2, h3, t1, t2, t3, t4, beq_self_eq_true]

/-- The CRC over bytes is that of each byte in turn. -/
theorem crcOver_foldl (l : List Byte) (c : BitVec 16) : crcOver c l = l.foldl crcByte c := by
  induction l generalizing c with
  | nil => rfl
  | cons b r ih =>
    simp only [crcOver, List.foldl_cons]
    split
    · rename_i h; rw [h, ih]
    · exact ih _

/-- Flits that meet no error arrive as they were sent. -/
theorem arriving_clean (l : List Flit) (i : Nat) : arriving [] i l = l.map Flit.word := by
  induction l generalizing i with
  | nil => rfl
  | cons f r ih => simp [arriving, ih]

/-- What a port finds wrong with flits that meet no error. -/
theorem runFault_clean (l : List Flit) :
    runFault (l.map Flit.word) = if l.any fun f => decide (4 < f.ty.toNat) then 2 else if posRun 0 l then 0 else 3 := by
  have h : (l.map Flit.word).map readFlit = l.map fun f => (f, true) := by simp [readFlit_word]
  simp [runFault, h, List.any_map, Function.comp_def]

/-- No kind of message has a TYPE that is reserved or CONTROL. -/
theorem code_le (ty : MsgType) : ¬ 4 < ty.code.toNat := by cases ty <;> decide

/-- The flits of n rows count POS from 0 up to the LAST one (R153). -/
theorem rowFlits_run (ty : MsgType) (m : Msg) (hm : m.pay.length ≤ 16) (k i : Nat) (h : i + k + 1 = 4 * m.pay.length) :
    posRun i ((List.range' i (k + 1)).map (rowFlit ty m)) = true := by
  induction k generalizing i with
  | zero =>
    have hi : i < 64 := by omega
    simp [List.range', posRun, rowFlit, show i % 64 = i by omega, show i + 1 = 4 * m.pay.length by omega]
  | succ k ih =>
    have hi : i < 64 := by omega
    have hn : ¬ i + 1 = 4 * m.pay.length := by omega
    rw [List.range'_succ, List.map_cons, posRun]
    simp [rowFlit, show i % 64 = i by omega, hn]
    simpa [rowFlit] using ih (i + 1) (by omega)

/-- A message of one row to 16 that meets no error on the way is well formed, unless its OP is reserved (R153, R154). -/
theorem msgFault_clean (ty : MsgType) (m : Msg) (he : m.errs = []) (h0 : m.pay ≠ []) (hm : m.pay.length ≤ 16) :
    msgFault ty m = if 4 ≤ m.op.toNat then 2 else 0 := by
  have hr : runFault (arriving m.errs 0 (msgFlits ty m)) = 0 := by
    rw [he, arriving_clean, runFault_clean]
    have hl : 0 < m.pay.length := List.length_pos_iff.2 h0
    have hc := code_le ty
    unfold msgFlits
    split
    · simp [oneFlit, hc, posRun]
    · have hp := rowFlits_run ty m hm (4 * m.pay.length - 1) 0 (by omega)
      rw [show 4 * m.pay.length - 1 + 1 = 4 * m.pay.length by omega, ← List.range_eq_range'] at hp
      have ha : (((List.range (4 * m.pay.length)).map (rowFlit ty m)).any fun f => decide (4 < f.ty.toNat)) = false := by
        simp [rowFlit, hc]
      rw [ha, hp]; rfl
  simp only [msgFault, hr, true_and]

end Sys2Proof.Laws
end

