-- ==== Sys2Proof/Laws/Tbl.lean ====
section
/-!
SUPPORT. Tables by number: a key read after a write, and the other keys.
-/
namespace Sys2Proof.Machine

theorem Tbl.find_put {α : Type} (l : List (Nat × α)) (k : Nat) (x d : α) : Tbl.find (Tbl.put l k x) k d = x := by
  induction l with
  | nil => simp [Tbl.put, Tbl.find]
  | cons p r ih =>
    obtain ⟨j, y⟩ := p
    unfold Tbl.put
    split
    · simp [Tbl.find]
    · split
      · simp [Tbl.find]
      · simp [Tbl.find, ih]; omega

theorem Tbl.find_put_ne {α : Type} (l : List (Nat × α)) {k j : Nat} (x d : α) (h : j ≠ k) :
    Tbl.find (Tbl.put l k x) j d = Tbl.find l j d := by
  induction l with
  | nil => simp [Tbl.put, Tbl.find, Ne.symm h]
  | cons p r ih =>
    obtain ⟨i, y⟩ := p
    unfold Tbl.put
    split
    · simp [Tbl.find, Ne.symm h]
    · split
      · subst_vars; simp [Tbl.find, Ne.symm h]
      · simp [Tbl.find, ih]

/-- A key reads the value last written to it. -/
@[simp] theorem Tbl.get_set {α : Type} (t : Tbl α) (k : Nat) (x d : α) : (t.set k x).get k d = x :=
  Tbl.find_put t.rows k x d

/-- Every other key keeps its value. -/
theorem Tbl.get_set_ne {α : Type} (t : Tbl α) {k j : Nat} (x d : α) (h : j ≠ k) : (t.set k x).get j d = t.get j d :=
  Tbl.find_put_ne t.rows x d h

/-- A table with nothing listed reads its default everywhere. -/
@[simp] theorem Tbl.get_empty {α : Type} (k : Nat) (d : α) : (Tbl.get {} k d : α) = d := rfl

end Sys2Proof.Machine
end

