-- ==== Sys2Proof/Laws/State.lean ====
section
/-!
SUPPORT. The updates of the state, field by field: what each leaves as it was, and what is read back from the part it
replaces.
-/
namespace Sys2Proof.Machine

/-! ## Fields that an update leaves -/

@[simp] theorem State.setTile_now (s : State) (t : TileId) (x : Tile) : (s.setTile t x).now = s.now := rfl
@[simp] theorem State.setTile_cur (s : State) (t : TileId) (x : Tile) : (s.setTile t x).cur = s.cur := rfl
@[simp] theorem State.setTile_agenda (s : State) (t : TileId) (x : Tile) : (s.setTile t x).agenda = s.agenda := rfl
@[simp] theorem State.setTile_pool (s : State) (t : TileId) (x : Tile) : (s.setTile t x).pool = s.pool := rfl
@[simp] theorem State.setTile_freeCtr (s : State) (t : TileId) (x : Tile) : (s.setTile t x).freeCtr = s.freeCtr := rfl
@[simp] theorem State.setTile_mem (s : State) (t : TileId) (x : Tile) : (s.setTile t x).mem = s.mem := rfl
@[simp] theorem State.setTile_bad (s : State) (t : TileId) (x : Tile) : (s.setTile t x).bad = s.bad := rfl
@[simp] theorem State.setTile_strs (s : State) (t : TileId) (x : Tile) : (s.setTile t x).strs = s.strs := rfl
@[simp] theorem State.setTile_hub (s : State) (t : TileId) (x : Tile) : (s.setTile t x).hub = s.hub := rfl

@[simp] theorem State.modTile_now (s : State) (t : TileId) (f : Tile → Tile) : (s.modTile t f).now = s.now := rfl
@[simp] theorem State.modTile_cur (s : State) (t : TileId) (f : Tile → Tile) : (s.modTile t f).cur = s.cur := rfl
@[simp] theorem State.modTile_agenda (s : State) (t : TileId) (f : Tile → Tile) : (s.modTile t f).agenda = s.agenda := rfl
@[simp] theorem State.modTile_pool (s : State) (t : TileId) (f : Tile → Tile) : (s.modTile t f).pool = s.pool := rfl
@[simp] theorem State.modTile_freeCtr (s : State) (t : TileId) (f : Tile → Tile) : (s.modTile t f).freeCtr = s.freeCtr := rfl
@[simp] theorem State.modTile_mem (s : State) (t : TileId) (f : Tile → Tile) : (s.modTile t f).mem = s.mem := rfl
@[simp] theorem State.modTile_bad (s : State) (t : TileId) (f : Tile → Tile) : (s.modTile t f).bad = s.bad := rfl
@[simp] theorem State.modTile_strs (s : State) (t : TileId) (f : Tile → Tile) : (s.modTile t f).strs = s.strs := rfl
@[simp] theorem State.modTile_hub (s : State) (t : TileId) (f : Tile → Tile) : (s.modTile t f).hub = s.hub := rfl

@[simp] theorem State.setCore_now (s : State) (t : TileId) (k : CoreId) (x : Core) : (s.setCore t k x).now = s.now := rfl
@[simp] theorem State.setCore_cur (s : State) (t : TileId) (k : CoreId) (x : Core) : (s.setCore t k x).cur = s.cur := rfl
@[simp] theorem State.setCore_agenda (s : State) (t : TileId) (k : CoreId) (x : Core) : (s.setCore t k x).agenda = s.agenda := rfl
@[simp] theorem State.setCore_pool (s : State) (t : TileId) (k : CoreId) (x : Core) : (s.setCore t k x).pool = s.pool := rfl
@[simp] theorem State.setCore_freeCtr (s : State) (t : TileId) (k : CoreId) (x : Core) : (s.setCore t k x).freeCtr = s.freeCtr := rfl
@[simp] theorem State.setCore_mem (s : State) (t : TileId) (k : CoreId) (x : Core) : (s.setCore t k x).mem = s.mem := rfl
@[simp] theorem State.setCore_bad (s : State) (t : TileId) (k : CoreId) (x : Core) : (s.setCore t k x).bad = s.bad := rfl
@[simp] theorem State.setCore_strs (s : State) (t : TileId) (k : CoreId) (x : Core) : (s.setCore t k x).strs = s.strs := rfl
@[simp] theorem State.setCore_hub (s : State) (t : TileId) (k : CoreId) (x : Core) : (s.setCore t k x).hub = s.hub := rfl

@[simp] theorem State.modCore_now (s : State) (t : TileId) (k : CoreId) (f : Core → Core) : (s.modCore t k f).now = s.now := rfl
@[simp] theorem State.modCore_cur (s : State) (t : TileId) (k : CoreId) (f : Core → Core) : (s.modCore t k f).cur = s.cur := rfl
@[simp] theorem State.modCore_agenda (s : State) (t : TileId) (k : CoreId) (f : Core → Core) : (s.modCore t k f).agenda = s.agenda := rfl
@[simp] theorem State.modCore_pool (s : State) (t : TileId) (k : CoreId) (f : Core → Core) : (s.modCore t k f).pool = s.pool := rfl
@[simp] theorem State.modCore_freeCtr (s : State) (t : TileId) (k : CoreId) (f : Core → Core) : (s.modCore t k f).freeCtr = s.freeCtr := rfl
@[simp] theorem State.modCore_mem (s : State) (t : TileId) (k : CoreId) (f : Core → Core) : (s.modCore t k f).mem = s.mem := rfl
@[simp] theorem State.modCore_bad (s : State) (t : TileId) (k : CoreId) (f : Core → Core) : (s.modCore t k f).bad = s.bad := rfl
@[simp] theorem State.modCore_strs (s : State) (t : TileId) (k : CoreId) (f : Core → Core) : (s.modCore t k f).strs = s.strs := rfl
@[simp] theorem State.modCore_hub (s : State) (t : TileId) (k : CoreId) (f : Core → Core) : (s.modCore t k f).hub = s.hub := rfl

@[simp] theorem State.modCc_now (s : State) (f : Core → Core) : (s.modCc f).now = s.now := rfl
@[simp] theorem State.modCc_cur (s : State) (f : Core → Core) : (s.modCc f).cur = s.cur := rfl
@[simp] theorem State.modCc_agenda (s : State) (f : Core → Core) : (s.modCc f).agenda = s.agenda := rfl
@[simp] theorem State.modCc_pool (s : State) (f : Core → Core) : (s.modCc f).pool = s.pool := rfl
@[simp] theorem State.modCc_freeCtr (s : State) (f : Core → Core) : (s.modCc f).freeCtr = s.freeCtr := rfl
@[simp] theorem State.modCc_mem (s : State) (f : Core → Core) : (s.modCc f).mem = s.mem := rfl
@[simp] theorem State.modCc_bad (s : State) (f : Core → Core) : (s.modCc f).bad = s.bad := rfl
@[simp] theorem State.modCc_strs (s : State) (f : Core → Core) : (s.modCc f).strs = s.strs := rfl
@[simp] theorem State.modCc_hub (s : State) (f : Core → Core) : (s.modCc f).hub = s.hub := rfl

@[simp] theorem State.modCcl_now (s : State) (f : Clu → Clu) : (s.modCcl f).now = s.now := rfl
@[simp] theorem State.modCcl_cur (s : State) (f : Clu → Clu) : (s.modCcl f).cur = s.cur := rfl
@[simp] theorem State.modCcl_agenda (s : State) (f : Clu → Clu) : (s.modCcl f).agenda = s.agenda := rfl
@[simp] theorem State.modCcl_pool (s : State) (f : Clu → Clu) : (s.modCcl f).pool = s.pool := rfl
@[simp] theorem State.modCcl_freeCtr (s : State) (f : Clu → Clu) : (s.modCcl f).freeCtr = s.freeCtr := rfl
@[simp] theorem State.modCcl_mem (s : State) (f : Clu → Clu) : (s.modCcl f).mem = s.mem := rfl
@[simp] theorem State.modCcl_bad (s : State) (f : Clu → Clu) : (s.modCcl f).bad = s.bad := rfl
@[simp] theorem State.modCcl_strs (s : State) (f : Clu → Clu) : (s.modCcl f).strs = s.strs := rfl
@[simp] theorem State.modCcl_hub (s : State) (f : Clu → Clu) : (s.modCcl f).hub = s.hub := rfl

@[simp] theorem State.modCt_now (s : State) (f : Tile → Tile) : (s.modCt f).now = s.now := rfl
@[simp] theorem State.modCt_cur (s : State) (f : Tile → Tile) : (s.modCt f).cur = s.cur := rfl
@[simp] theorem State.modCt_agenda (s : State) (f : Tile → Tile) : (s.modCt f).agenda = s.agenda := rfl
@[simp] theorem State.modCt_pool (s : State) (f : Tile → Tile) : (s.modCt f).pool = s.pool := rfl
@[simp] theorem State.modCt_freeCtr (s : State) (f : Tile → Tile) : (s.modCt f).freeCtr = s.freeCtr := rfl
@[simp] theorem State.modCt_mem (s : State) (f : Tile → Tile) : (s.modCt f).mem = s.mem := rfl
@[simp] theorem State.modCt_bad (s : State) (f : Tile → Tile) : (s.modCt f).bad = s.bad := rfl
@[simp] theorem State.modCt_strs (s : State) (f : Tile → Tile) : (s.modCt f).strs = s.strs := rfl
@[simp] theorem State.modCt_hub (s : State) (f : Tile → Tile) : (s.modCt f).hub = s.hub := rfl

@[simp] theorem State.modCirc_now (s : State) (t : TileId) (h : Nat) (f : Circ → Circ) : (s.modCirc t h f).now = s.now := rfl
@[simp] theorem State.modCirc_cur (s : State) (t : TileId) (h : Nat) (f : Circ → Circ) : (s.modCirc t h f).cur = s.cur := rfl
@[simp] theorem State.modCirc_agenda (s : State) (t : TileId) (h : Nat) (f : Circ → Circ) : (s.modCirc t h f).agenda = s.agenda := rfl
@[simp] theorem State.modCirc_pool (s : State) (t : TileId) (h : Nat) (f : Circ → Circ) : (s.modCirc t h f).pool = s.pool := rfl
@[simp] theorem State.modCirc_freeCtr (s : State) (t : TileId) (h : Nat) (f : Circ → Circ) : (s.modCirc t h f).freeCtr = s.freeCtr := rfl
@[simp] theorem State.modCirc_mem (s : State) (t : TileId) (h : Nat) (f : Circ → Circ) : (s.modCirc t h f).mem = s.mem := rfl
@[simp] theorem State.modCirc_bad (s : State) (t : TileId) (h : Nat) (f : Circ → Circ) : (s.modCirc t h f).bad = s.bad := rfl
@[simp] theorem State.modCirc_strs (s : State) (t : TileId) (h : Nat) (f : Circ → Circ) : (s.modCirc t h f).strs = s.strs := rfl
@[simp] theorem State.modCirc_hub (s : State) (t : TileId) (h : Nat) (f : Circ → Circ) : (s.modCirc t h f).hub = s.hub := rfl

@[simp] theorem State.modHub_now (s : State) (f : Hub → Hub) : (s.modHub f).now = s.now := rfl
@[simp] theorem State.modHub_cur (s : State) (f : Hub → Hub) : (s.modHub f).cur = s.cur := rfl
@[simp] theorem State.modHub_agenda (s : State) (f : Hub → Hub) : (s.modHub f).agenda = s.agenda := rfl
@[simp] theorem State.modHub_pool (s : State) (f : Hub → Hub) : (s.modHub f).pool = s.pool := rfl
@[simp] theorem State.modHub_freeCtr (s : State) (f : Hub → Hub) : (s.modHub f).freeCtr = s.freeCtr := rfl
@[simp] theorem State.modHub_mem (s : State) (f : Hub → Hub) : (s.modHub f).mem = s.mem := rfl
@[simp] theorem State.modHub_bad (s : State) (f : Hub → Hub) : (s.modHub f).bad = s.bad := rfl
@[simp] theorem State.modHub_tiles (s : State) (f : Hub → Hub) : (s.modHub f).tiles = s.tiles := rfl
@[simp] theorem State.modHub_strs (s : State) (f : Hub → Hub) : (s.modHub f).strs = s.strs := rfl

@[simp] theorem State.modTask_now (s : State) (id : BitVec 16) (f : Task → Task) : (s.modTask id f).now = s.now := rfl
@[simp] theorem State.modTask_cur (s : State) (id : BitVec 16) (f : Task → Task) : (s.modTask id f).cur = s.cur := rfl
@[simp] theorem State.modTask_agenda (s : State) (id : BitVec 16) (f : Task → Task) : (s.modTask id f).agenda = s.agenda := rfl
@[simp] theorem State.modTask_pool (s : State) (id : BitVec 16) (f : Task → Task) : (s.modTask id f).pool = s.pool := rfl
@[simp] theorem State.modTask_freeCtr (s : State) (id : BitVec 16) (f : Task → Task) : (s.modTask id f).freeCtr = s.freeCtr := rfl
@[simp] theorem State.modTask_mem (s : State) (id : BitVec 16) (f : Task → Task) : (s.modTask id f).mem = s.mem := rfl
@[simp] theorem State.modTask_bad (s : State) (id : BitVec 16) (f : Task → Task) : (s.modTask id f).bad = s.bad := rfl
@[simp] theorem State.modTask_tiles (s : State) (id : BitVec 16) (f : Task → Task) : (s.modTask id f).tiles = s.tiles := rfl
@[simp] theorem State.modTask_strs (s : State) (id : BitVec 16) (f : Task → Task) : (s.modTask id f).strs = s.strs := rfl

@[simp] theorem State.modStr_now (s : State) (n : StringId) (f : Str → Str) : (s.modStr n f).now = s.now := rfl
@[simp] theorem State.modStr_cur (s : State) (n : StringId) (f : Str → Str) : (s.modStr n f).cur = s.cur := rfl
@[simp] theorem State.modStr_agenda (s : State) (n : StringId) (f : Str → Str) : (s.modStr n f).agenda = s.agenda := rfl
@[simp] theorem State.modStr_pool (s : State) (n : StringId) (f : Str → Str) : (s.modStr n f).pool = s.pool := rfl
@[simp] theorem State.modStr_freeCtr (s : State) (n : StringId) (f : Str → Str) : (s.modStr n f).freeCtr = s.freeCtr := rfl
@[simp] theorem State.modStr_mem (s : State) (n : StringId) (f : Str → Str) : (s.modStr n f).mem = s.mem := rfl
@[simp] theorem State.modStr_bad (s : State) (n : StringId) (f : Str → Str) : (s.modStr n f).bad = s.bad := rfl
@[simp] theorem State.modStr_tiles (s : State) (n : StringId) (f : Str → Str) : (s.modStr n f).tiles = s.tiles := rfl
@[simp] theorem State.modStr_hub (s : State) (n : StringId) (f : Str → Str) : (s.modStr n f).hub = s.hub := rfl

@[simp] theorem State.due_now (s : State) (n : Nat) (a : Act) : (s.due n a).now = s.now := rfl
@[simp] theorem State.due_cur (s : State) (n : Nat) (a : Act) : (s.due n a).cur = s.cur := rfl
@[simp] theorem State.due_pool (s : State) (n : Nat) (a : Act) : (s.due n a).pool = s.pool := rfl
@[simp] theorem State.due_freeCtr (s : State) (n : Nat) (a : Act) : (s.due n a).freeCtr = s.freeCtr := rfl
@[simp] theorem State.due_mem (s : State) (n : Nat) (a : Act) : (s.due n a).mem = s.mem := rfl
@[simp] theorem State.due_bad (s : State) (n : Nat) (a : Act) : (s.due n a).bad = s.bad := rfl
@[simp] theorem State.due_tiles (s : State) (n : Nat) (a : Act) : (s.due n a).tiles = s.tiles := rfl
@[simp] theorem State.due_strs (s : State) (n : Nat) (a : Act) : (s.due n a).strs = s.strs := rfl
@[simp] theorem State.due_hub (s : State) (n : Nat) (a : Act) : (s.due n a).hub = s.hub := rfl

@[simp] theorem State.dueU_now (s : State) (n : Nat) (t : TileId) (k : CoreId) (ix : Nat) (i : Instr) : (s.dueU n t k ix i).now = s.now := rfl
@[simp] theorem State.dueU_cur (s : State) (n : Nat) (t : TileId) (k : CoreId) (ix : Nat) (i : Instr) : (s.dueU n t k ix i).cur = s.cur := rfl
@[simp] theorem State.dueU_pool (s : State) (n : Nat) (t : TileId) (k : CoreId) (ix : Nat) (i : Instr) : (s.dueU n t k ix i).pool = s.pool := rfl
@[simp] theorem State.dueU_freeCtr (s : State) (n : Nat) (t : TileId) (k : CoreId) (ix : Nat) (i : Instr) : (s.dueU n t k ix i).freeCtr = s.freeCtr := rfl
@[simp] theorem State.dueU_mem (s : State) (n : Nat) (t : TileId) (k : CoreId) (ix : Nat) (i : Instr) : (s.dueU n t k ix i).mem = s.mem := rfl
@[simp] theorem State.dueU_bad (s : State) (n : Nat) (t : TileId) (k : CoreId) (ix : Nat) (i : Instr) : (s.dueU n t k ix i).bad = s.bad := rfl
@[simp] theorem State.dueU_tiles (s : State) (n : Nat) (t : TileId) (k : CoreId) (ix : Nat) (i : Instr) : (s.dueU n t k ix i).tiles = s.tiles := rfl
@[simp] theorem State.dueU_strs (s : State) (n : Nat) (t : TileId) (k : CoreId) (ix : Nat) (i : Instr) : (s.dueU n t k ix i).strs = s.strs := rfl
@[simp] theorem State.dueU_hub (s : State) (n : Nat) (t : TileId) (k : CoreId) (ix : Nat) (i : Instr) : (s.dueU n t k ix i).hub = s.hub := rfl

@[simp] theorem State.dueT_now (s : State) (n : Nat) (t : TileId) (i : Instr) : (s.dueT n t i).now = s.now := rfl
@[simp] theorem State.dueT_cur (s : State) (n : Nat) (t : TileId) (i : Instr) : (s.dueT n t i).cur = s.cur := rfl
@[simp] theorem State.dueT_pool (s : State) (n : Nat) (t : TileId) (i : Instr) : (s.dueT n t i).pool = s.pool := rfl
@[simp] theorem State.dueT_freeCtr (s : State) (n : Nat) (t : TileId) (i : Instr) : (s.dueT n t i).freeCtr = s.freeCtr := rfl
@[simp] theorem State.dueT_mem (s : State) (n : Nat) (t : TileId) (i : Instr) : (s.dueT n t i).mem = s.mem := rfl
@[simp] theorem State.dueT_bad (s : State) (n : Nat) (t : TileId) (i : Instr) : (s.dueT n t i).bad = s.bad := rfl
@[simp] theorem State.dueT_tiles (s : State) (n : Nat) (t : TileId) (i : Instr) : (s.dueT n t i).tiles = s.tiles := rfl
@[simp] theorem State.dueT_strs (s : State) (n : Nat) (t : TileId) (i : Instr) : (s.dueT n t i).strs = s.strs := rfl
@[simp] theorem State.dueT_hub (s : State) (n : Nat) (t : TileId) (i : Instr) : (s.dueT n t i).hub = s.hub := rfl

@[simp] theorem State.dueH_now (s : State) (n : Nat) (t : TileId) (ix : Nat) (i : Instr) : (s.dueH n t ix i).now = s.now := rfl
@[simp] theorem State.dueH_cur (s : State) (n : Nat) (t : TileId) (ix : Nat) (i : Instr) : (s.dueH n t ix i).cur = s.cur := rfl
@[simp] theorem State.dueH_pool (s : State) (n : Nat) (t : TileId) (ix : Nat) (i : Instr) : (s.dueH n t ix i).pool = s.pool := rfl
@[simp] theorem State.dueH_freeCtr (s : State) (n : Nat) (t : TileId) (ix : Nat) (i : Instr) : (s.dueH n t ix i).freeCtr = s.freeCtr := rfl
@[simp] theorem State.dueH_mem (s : State) (n : Nat) (t : TileId) (ix : Nat) (i : Instr) : (s.dueH n t ix i).mem = s.mem := rfl
@[simp] theorem State.dueH_bad (s : State) (n : Nat) (t : TileId) (ix : Nat) (i : Instr) : (s.dueH n t ix i).bad = s.bad := rfl
@[simp] theorem State.dueH_tiles (s : State) (n : Nat) (t : TileId) (ix : Nat) (i : Instr) : (s.dueH n t ix i).tiles = s.tiles := rfl
@[simp] theorem State.dueH_strs (s : State) (n : Nat) (t : TileId) (ix : Nat) (i : Instr) : (s.dueH n t ix i).strs = s.strs := rfl
@[simp] theorem State.dueH_hub (s : State) (n : Nat) (t : TileId) (ix : Nat) (i : Instr) : (s.dueH n t ix i).hub = s.hub := rfl

@[simp] theorem State.dueK_now (s : State) (n : Nat) (t : TileId) (k : CoreId) (i : Instr) : (s.dueK n t k i).now = s.now := rfl
@[simp] theorem State.dueK_cur (s : State) (n : Nat) (t : TileId) (k : CoreId) (i : Instr) : (s.dueK n t k i).cur = s.cur := rfl
@[simp] theorem State.dueK_pool (s : State) (n : Nat) (t : TileId) (k : CoreId) (i : Instr) : (s.dueK n t k i).pool = s.pool := rfl
@[simp] theorem State.dueK_freeCtr (s : State) (n : Nat) (t : TileId) (k : CoreId) (i : Instr) : (s.dueK n t k i).freeCtr = s.freeCtr := rfl
@[simp] theorem State.dueK_mem (s : State) (n : Nat) (t : TileId) (k : CoreId) (i : Instr) : (s.dueK n t k i).mem = s.mem := rfl
@[simp] theorem State.dueK_bad (s : State) (n : Nat) (t : TileId) (k : CoreId) (i : Instr) : (s.dueK n t k i).bad = s.bad := rfl
@[simp] theorem State.dueK_tiles (s : State) (n : Nat) (t : TileId) (k : CoreId) (i : Instr) : (s.dueK n t k i).tiles = s.tiles := rfl
@[simp] theorem State.dueK_strs (s : State) (n : Nat) (t : TileId) (k : CoreId) (i : Instr) : (s.dueK n t k i).strs = s.strs := rfl
@[simp] theorem State.dueK_hub (s : State) (n : Nat) (t : TileId) (k : CoreId) (i : Instr) : (s.dueK n t k i).hub = s.hub := rfl

@[simp] theorem State.dueN_now (s : State) (n : Nat) (ix : Nat) (i : Instr) : (s.dueN n ix i).now = s.now := rfl
@[simp] theorem State.dueN_cur (s : State) (n : Nat) (ix : Nat) (i : Instr) : (s.dueN n ix i).cur = s.cur := rfl
@[simp] theorem State.dueN_pool (s : State) (n : Nat) (ix : Nat) (i : Instr) : (s.dueN n ix i).pool = s.pool := rfl
@[simp] theorem State.dueN_freeCtr (s : State) (n : Nat) (ix : Nat) (i : Instr) : (s.dueN n ix i).freeCtr = s.freeCtr := rfl
@[simp] theorem State.dueN_mem (s : State) (n : Nat) (ix : Nat) (i : Instr) : (s.dueN n ix i).mem = s.mem := rfl
@[simp] theorem State.dueN_bad (s : State) (n : Nat) (ix : Nat) (i : Instr) : (s.dueN n ix i).bad = s.bad := rfl
@[simp] theorem State.dueN_tiles (s : State) (n : Nat) (ix : Nat) (i : Instr) : (s.dueN n ix i).tiles = s.tiles := rfl
@[simp] theorem State.dueN_strs (s : State) (n : Nat) (ix : Nat) (i : Instr) : (s.dueN n ix i).strs = s.strs := rfl
@[simp] theorem State.dueN_hub (s : State) (n : Nat) (ix : Nat) (i : Instr) : (s.dueN n ix i).hub = s.hub := rfl

@[simp] theorem State.undue_now (s : State) (p : Act → Bool) : (s.undue p).now = s.now := rfl
@[simp] theorem State.undue_cur (s : State) (p : Act → Bool) : (s.undue p).cur = s.cur := rfl
@[simp] theorem State.undue_pool (s : State) (p : Act → Bool) : (s.undue p).pool = s.pool := rfl
@[simp] theorem State.undue_freeCtr (s : State) (p : Act → Bool) : (s.undue p).freeCtr = s.freeCtr := rfl
@[simp] theorem State.undue_mem (s : State) (p : Act → Bool) : (s.undue p).mem = s.mem := rfl
@[simp] theorem State.undue_bad (s : State) (p : Act → Bool) : (s.undue p).bad = s.bad := rfl
@[simp] theorem State.undue_tiles (s : State) (p : Act → Bool) : (s.undue p).tiles = s.tiles := rfl
@[simp] theorem State.undue_strs (s : State) (p : Act → Bool) : (s.undue p).strs = s.strs := rfl
@[simp] theorem State.undue_hub (s : State) (p : Act → Bool) : (s.undue p).hub = s.hub := rfl

/-! ## The part an update replaces -/

@[simp] theorem State.modHub_hub (s : State) (f : Hub → Hub) : (s.modHub f).hub = f s.hub := rfl

@[simp] theorem State.setTile_tile (s : State) (t : TileId) (x : Tile) : (s.setTile t x).tile t = x := by
  simp [State.tile, State.setTile]

theorem State.setTile_tile_ne (s : State) {t u : TileId} (x : Tile) (h : u ≠ t) : (s.setTile t x).tile u = s.tile u := by
  have : u.val ≠ t.val := fun e => h (Fin.ext e)
  simp [State.tile, State.setTile, Tbl.get_set_ne _ _ _ this]

@[simp] theorem State.modTile_tile (s : State) (t : TileId) (f : Tile → Tile) : (s.modTile t f).tile t = f (s.tile t) := by
  simp [State.modTile]

theorem State.modTile_tile_ne (s : State) {t u : TileId} (f : Tile → Tile) (h : u ≠ t) :
    (s.modTile t f).tile u = s.tile u := by
  simp [State.modTile, State.setTile_tile_ne s _ h]

@[simp] theorem Tile.setCore_core (x : Tile) (k : CoreId) (c : Core) : (x.setCore k c).core k = c := by
  simp [Tile.core, Tile.setCore]

theorem Tile.setCore_core_ne (x : Tile) {k j : CoreId} (c : Core) (h : j ≠ k) : (x.setCore k c).core j = x.core j := by
  have : j.val ≠ k.val := fun e => h (Fin.ext e)
  simp [Tile.core, Tile.setCore, Tbl.get_set_ne _ _ _ this]

@[simp] theorem State.modCore_core (s : State) (t : TileId) (k : CoreId) (f : Core → Core) :
    (s.modCore t k f).core t k = f (s.core t k) := by
  simp [State.modCore, State.setCore, State.core]

theorem State.modCore_core_tile_ne (s : State) {t u : TileId} (k j : CoreId) (f : Core → Core) (h : u ≠ t) :
    (s.modCore t k f).core u j = s.core u j := by
  simp [State.modCore, State.setCore, State.core, State.setTile_tile_ne s _ h]

theorem State.modCore_core_ne (s : State) (t : TileId) {k j : CoreId} (f : Core → Core) (h : j ≠ k) :
    (s.modCore t k f).core t j = s.core t j := by
  simp [State.modCore, State.setCore, State.core, Tile.setCore_core_ne _ _ h]

@[simp] theorem State.modCc_cc (s : State) (f : Core → Core) : (s.modCc f).cc = f s.cc := by
  simp [State.modCc, State.cc]

@[simp] theorem State.modCt_ct (s : State) (f : Tile → Tile) : (s.modCt f).ct = f s.ct := by
  simp [State.modCt, State.ct]

@[simp] theorem Core.setClu_clu (x : Core) (cl : Cluster) (y : Clu) : (x.setClu cl y).clu cl = y := by
  cases cl <;> rfl

theorem Core.setClu_clu_ne (x : Core) {cl d : Cluster} (y : Clu) (h : d ≠ cl) : (x.setClu cl y).clu d = x.clu d := by
  cases cl <;> cases d <;> first | rfl | exact absurd rfl h

@[simp] theorem Core.modClu_clu (x : Core) (cl : Cluster) (f : Clu → Clu) : (x.modClu cl f).clu cl = f (x.clu cl) := by
  simp [Core.modClu]

theorem Core.modClu_clu_ne (x : Core) {cl d : Cluster} (f : Clu → Clu) (h : d ≠ cl) :
    (x.modClu cl f).clu d = x.clu d := by
  simp [Core.modClu, Core.setClu_clu_ne x _ h]

@[simp] theorem State.modCcl_ccl (s : State) (f : Clu → Clu) : (s.modCcl f).ccl = f s.ccl := by
  simp [State.modCcl, State.ccl]

/-! ## Registers of a core -/

@[simp] theorem Core.modClu_s (x : Core) (cl : Cluster) (f : Clu → Clu) : (x.modClu cl f).s = x.s := by
  cases cl <;> rfl
@[simp] theorem Core.modClu_a (x : Core) (cl : Cluster) (f : Clu → Clu) : (x.modClu cl f).a = x.a := by
  cases cl <;> rfl
@[simp] theorem Core.modClu_e (x : Core) (cl : Cluster) (f : Clu → Clu) : (x.modClu cl f).e = x.e := by
  cases cl <;> rfl
@[simp] theorem Core.modClu_v (x : Core) (cl : Cluster) (f : Clu → Clu) : (x.modClu cl f).v = x.v := by
  cases cl <;> rfl
@[simp] theorem Core.modClu_k (x : Core) (cl : Cluster) (f : Clu → Clu) : (x.modClu cl f).k = x.k := by
  cases cl <;> rfl
@[simp] theorem Core.modClu_vlat (x : Core) (cl : Cluster) (f : Clu → Clu) : (x.modClu cl f).vlat = x.vlat := by
  cases cl <;> rfl
@[simp] theorem Core.modClu_ret (x : Core) (cl : Cluster) (f : Clu → Clu) : (x.modClu cl f).ret = x.ret := by
  cases cl <;> rfl
@[simp] theorem Core.modClu_lq (x : Core) (cl : Cluster) (f : Clu → Clu) : (x.modClu cl f).lq = x.lq := by
  cases cl <;> rfl
@[simp] theorem Core.modClu_sq (x : Core) (cl : Cluster) (f : Clu → Clu) : (x.modClu cl f).sq = x.sq := by
  cases cl <;> rfl
@[simp] theorem Core.modClu_pend (x : Core) (cl : Cluster) (f : Clu → Clu) : (x.modClu cl f).pend = x.pend := by
  cases cl <;> rfl
@[simp] theorem Core.modClu_mcount (x : Core) (cl : Cluster) (f : Clu → Clu) : (x.modClu cl f).mcount = x.mcount := by
  cases cl <;> rfl
@[simp] theorem Core.modClu_rgn (x : Core) (cl : Cluster) (f : Clu → Clu) : (x.modClu cl f).rgn = x.rgn := by
  cases cl <;> rfl
@[simp] theorem Core.modClu_acc (x : Core) (cl : Cluster) (f : Clu → Clu) : (x.modClu cl f).acc = x.acc := by
  cases cl <;> rfl
@[simp] theorem Core.modClu_macros (x : Core) (cl : Cluster) (f : Clu → Clu) : (x.modClu cl f).macros = x.macros := by
  cases cl <;> rfl
@[simp] theorem Core.modClu_mxq (x : Core) (cl : Cluster) (f : Clu → Clu) : (x.modClu cl f).mxq = x.mxq := by
  cases cl <;> rfl
@[simp] theorem Core.modClu_hxq (x : Core) (cl : Cluster) (f : Clu → Clu) : (x.modClu cl f).hxq = x.hxq := by
  cases cl <;> rfl
@[simp] theorem Core.modClu_chq (x : Core) (cl : Cluster) (f : Clu → Clu) : (x.modClu cl f).chq = x.chq := by
  cases cl <;> rfl
@[simp] theorem Core.modClu_sendq (x : Core) (cl : Cluster) (f : Clu → Clu) : (x.modClu cl f).sendq = x.sendq := by
  cases cl <;> rfl
@[simp] theorem Core.modClu_fpflags (x : Core) (cl : Cluster) (f : Clu → Clu) : (x.modClu cl f).fpflags = x.fpflags := by
  cases cl <;> rfl
@[simp] theorem Core.modClu_fpend (x : Core) (cl : Cluster) (f : Clu → Clu) : (x.modClu cl f).fpend = x.fpend := by
  cases cl <;> rfl
@[simp] theorem Core.modClu_trap (x : Core) (cl : Cluster) (f : Clu → Clu) : (x.modClu cl f).trap = x.trap := by
  cases cl <;> rfl
@[simp] theorem Core.modClu_trapcause (x : Core) (cl : Cluster) (f : Clu → Clu) : (x.modClu cl f).trapcause = x.trapcause := by
  cases cl <;> rfl
@[simp] theorem Core.modClu_trappcHi (x : Core) (cl : Cluster) (f : Clu → Clu) : (x.modClu cl f).trappcHi = x.trappcHi := by
  cases cl <;> rfl
@[simp] theorem Core.modClu_trapval (x : Core) (cl : Cluster) (f : Clu → Clu) : (x.modClu cl f).trapval = x.trapval := by
  cases cl <;> rfl
@[simp] theorem Core.modClu_trapvec (x : Core) (cl : Cluster) (f : Clu → Clu) : (x.modClu cl f).trapvec = x.trapvec := by
  cases cl <;> rfl
@[simp] theorem Core.modClu_cdiv (x : Core) (cl : Cluster) (f : Clu → Clu) : (x.modClu cl f).cdiv = x.cdiv := by
  cases cl <;> rfl
@[simp] theorem Core.modClu_mdiv (x : Core) (cl : Cluster) (f : Clu → Clu) : (x.modClu cl f).mdiv = x.mdiv := by
  cases cl <;> rfl
@[simp] theorem Core.modClu_exited (x : Core) (cl : Cluster) (f : Clu → Clu) : (x.modClu cl f).exited = x.exited := by
  cases cl <;> rfl
@[simp] theorem Core.modClu_halted (x : Core) (cl : Cluster) (f : Clu → Clu) : (x.modClu cl f).halted = x.halted := by
  cases cl <;> rfl
@[simp] theorem Core.modClu_stopped (x : Core) (cl : Cluster) (f : Clu → Clu) : (x.modClu cl f).stopped = x.stopped := by
  cases cl <;> rfl
@[simp] theorem Core.modClu_lk (x : Core) (cl : Cluster) (f : Clu → Clu) : (x.modClu cl f).lk = x.lk := by
  cases cl <;> rfl
@[simp] theorem Core.modClu_sk (x : Core) (cl : Cluster) (f : Clu → Clu) : (x.modClu cl f).sk = x.sk := by
  cases cl <;> rfl
@[simp] theorem Core.modClu_bankq (x : Core) (cl : Cluster) (f : Clu → Clu) : (x.modClu cl f).bankq = x.bankq := by
  cases cl <;> rfl
@[simp] theorem Core.modClu_engEc (x : Core) (cl : Cluster) (f : Clu → Clu) : (x.modClu cl f).engEc = x.engEc := by
  cases cl <;> rfl
@[simp] theorem Core.modClu_tileid (x : Core) (cl : Cluster) (f : Clu → Clu) : (x.modClu cl f).tileid = x.tileid := by
  cases cl <;> rfl
@[simp] theorem Core.modClu_coreid (x : Core) (cl : Cluster) (f : Clu → Clu) : (x.modClu cl f).coreid = x.coreid := by
  cases cl <;> rfl
@[simp] theorem Core.modClu_bundleXqs (x : Core) (cl : Cluster) (f : Clu → Clu) : (x.modClu cl f).bundleXqs = x.bundleXqs := by
  cases cl <;> rfl
@[simp] theorem Core.modClu_post (x : Core) (cl : Cluster) (f : Clu → Clu) : (x.modClu cl f).post = x.post := by
  cases cl <;> rfl
@[simp] theorem Core.owe_s (x : Core) (cl : Cluster) (ks : List Nat) (p : Bool) (t : Nat) :
    (x.owe cl ks p t).s = x.s := by
  by_cases h : t < unknown <;> simp only [Core.owe, h, if_true, if_false] <;> cases cl <;> rfl
@[simp] theorem Core.owe_a (x : Core) (cl : Cluster) (ks : List Nat) (p : Bool) (t : Nat) :
    (x.owe cl ks p t).a = x.a := by
  by_cases h : t < unknown <;> simp only [Core.owe, h, if_true, if_false] <;> cases cl <;> rfl
@[simp] theorem Core.owe_e (x : Core) (cl : Cluster) (ks : List Nat) (p : Bool) (t : Nat) :
    (x.owe cl ks p t).e = x.e := by
  by_cases h : t < unknown <;> simp only [Core.owe, h, if_true, if_false] <;> cases cl <;> rfl
@[simp] theorem Core.owe_v (x : Core) (cl : Cluster) (ks : List Nat) (p : Bool) (t : Nat) :
    (x.owe cl ks p t).v = x.v := by
  by_cases h : t < unknown <;> simp only [Core.owe, h, if_true, if_false] <;> cases cl <;> rfl
@[simp] theorem Core.owe_k (x : Core) (cl : Cluster) (ks : List Nat) (p : Bool) (t : Nat) :
    (x.owe cl ks p t).k = x.k := by
  by_cases h : t < unknown <;> simp only [Core.owe, h, if_true, if_false] <;> cases cl <;> rfl
@[simp] theorem Core.owe_vlat (x : Core) (cl : Cluster) (ks : List Nat) (p : Bool) (t : Nat) :
    (x.owe cl ks p t).vlat = x.vlat := by
  by_cases h : t < unknown <;> simp only [Core.owe, h, if_true, if_false] <;> cases cl <;> rfl
@[simp] theorem Core.owe_ret (x : Core) (cl : Cluster) (ks : List Nat) (p : Bool) (t : Nat) :
    (x.owe cl ks p t).ret = x.ret := by
  by_cases h : t < unknown <;> simp only [Core.owe, h, if_true, if_false] <;> cases cl <;> rfl
@[simp] theorem Core.owe_lq (x : Core) (cl : Cluster) (ks : List Nat) (p : Bool) (t : Nat) :
    (x.owe cl ks p t).lq = x.lq := by
  by_cases h : t < unknown <;> simp only [Core.owe, h, if_true, if_false] <;> cases cl <;> rfl
@[simp] theorem Core.owe_sq (x : Core) (cl : Cluster) (ks : List Nat) (p : Bool) (t : Nat) :
    (x.owe cl ks p t).sq = x.sq := by
  by_cases h : t < unknown <;> simp only [Core.owe, h, if_true, if_false] <;> cases cl <;> rfl
@[simp] theorem Core.owe_pend (x : Core) (cl : Cluster) (ks : List Nat) (p : Bool) (t : Nat) :
    (x.owe cl ks p t).pend = x.pend := by
  by_cases h : t < unknown <;> simp only [Core.owe, h, if_true, if_false] <;> cases cl <;> rfl
@[simp] theorem Core.owe_mcount (x : Core) (cl : Cluster) (ks : List Nat) (p : Bool) (t : Nat) :
    (x.owe cl ks p t).mcount = x.mcount := by
  by_cases h : t < unknown <;> simp only [Core.owe, h, if_true, if_false] <;> cases cl <;> rfl
@[simp] theorem Core.owe_rgn (x : Core) (cl : Cluster) (ks : List Nat) (p : Bool) (t : Nat) :
    (x.owe cl ks p t).rgn = x.rgn := by
  by_cases h : t < unknown <;> simp only [Core.owe, h, if_true, if_false] <;> cases cl <;> rfl
@[simp] theorem Core.owe_acc (x : Core) (cl : Cluster) (ks : List Nat) (p : Bool) (t : Nat) :
    (x.owe cl ks p t).acc = x.acc := by
  by_cases h : t < unknown <;> simp only [Core.owe, h, if_true, if_false] <;> cases cl <;> rfl
@[simp] theorem Core.owe_macros (x : Core) (cl : Cluster) (ks : List Nat) (p : Bool) (t : Nat) :
    (x.owe cl ks p t).macros = x.macros := by
  by_cases h : t < unknown <;> simp only [Core.owe, h, if_true, if_false] <;> cases cl <;> rfl
@[simp] theorem Core.owe_mxq (x : Core) (cl : Cluster) (ks : List Nat) (p : Bool) (t : Nat) :
    (x.owe cl ks p t).mxq = x.mxq := by
  by_cases h : t < unknown <;> simp only [Core.owe, h, if_true, if_false] <;> cases cl <;> rfl
@[simp] theorem Core.owe_hxq (x : Core) (cl : Cluster) (ks : List Nat) (p : Bool) (t : Nat) :
    (x.owe cl ks p t).hxq = x.hxq := by
  by_cases h : t < unknown <;> simp only [Core.owe, h, if_true, if_false] <;> cases cl <;> rfl
@[simp] theorem Core.owe_chq (x : Core) (cl : Cluster) (ks : List Nat) (p : Bool) (t : Nat) :
    (x.owe cl ks p t).chq = x.chq := by
  by_cases h : t < unknown <;> simp only [Core.owe, h, if_true, if_false] <;> cases cl <;> rfl
@[simp] theorem Core.owe_sendq (x : Core) (cl : Cluster) (ks : List Nat) (p : Bool) (t : Nat) :
    (x.owe cl ks p t).sendq = x.sendq := by
  by_cases h : t < unknown <;> simp only [Core.owe, h, if_true, if_false] <;> cases cl <;> rfl
@[simp] theorem Core.owe_fpflags (x : Core) (cl : Cluster) (ks : List Nat) (p : Bool) (t : Nat) :
    (x.owe cl ks p t).fpflags = x.fpflags := by
  by_cases h : t < unknown <;> simp only [Core.owe, h, if_true, if_false] <;> cases cl <;> rfl
@[simp] theorem Core.owe_fpend (x : Core) (cl : Cluster) (ks : List Nat) (p : Bool) (t : Nat) :
    (x.owe cl ks p t).fpend = x.fpend := by
  by_cases h : t < unknown <;> simp only [Core.owe, h, if_true, if_false] <;> cases cl <;> rfl
@[simp] theorem Core.owe_trap (x : Core) (cl : Cluster) (ks : List Nat) (p : Bool) (t : Nat) :
    (x.owe cl ks p t).trap = x.trap := by
  by_cases h : t < unknown <;> simp only [Core.owe, h, if_true, if_false] <;> cases cl <;> rfl
@[simp] theorem Core.owe_trapcause (x : Core) (cl : Cluster) (ks : List Nat) (p : Bool) (t : Nat) :
    (x.owe cl ks p t).trapcause = x.trapcause := by
  by_cases h : t < unknown <;> simp only [Core.owe, h, if_true, if_false] <;> cases cl <;> rfl
@[simp] theorem Core.owe_trappcHi (x : Core) (cl : Cluster) (ks : List Nat) (p : Bool) (t : Nat) :
    (x.owe cl ks p t).trappcHi = x.trappcHi := by
  by_cases h : t < unknown <;> simp only [Core.owe, h, if_true, if_false] <;> cases cl <;> rfl
@[simp] theorem Core.owe_trapval (x : Core) (cl : Cluster) (ks : List Nat) (p : Bool) (t : Nat) :
    (x.owe cl ks p t).trapval = x.trapval := by
  by_cases h : t < unknown <;> simp only [Core.owe, h, if_true, if_false] <;> cases cl <;> rfl
@[simp] theorem Core.owe_trapvec (x : Core) (cl : Cluster) (ks : List Nat) (p : Bool) (t : Nat) :
    (x.owe cl ks p t).trapvec = x.trapvec := by
  by_cases h : t < unknown <;> simp only [Core.owe, h, if_true, if_false] <;> cases cl <;> rfl
@[simp] theorem Core.owe_cdiv (x : Core) (cl : Cluster) (ks : List Nat) (p : Bool) (t : Nat) :
    (x.owe cl ks p t).cdiv = x.cdiv := by
  by_cases h : t < unknown <;> simp only [Core.owe, h, if_true, if_false] <;> cases cl <;> rfl
@[simp] theorem Core.owe_mdiv (x : Core) (cl : Cluster) (ks : List Nat) (p : Bool) (t : Nat) :
    (x.owe cl ks p t).mdiv = x.mdiv := by
  by_cases h : t < unknown <;> simp only [Core.owe, h, if_true, if_false] <;> cases cl <;> rfl
@[simp] theorem Core.owe_exited (x : Core) (cl : Cluster) (ks : List Nat) (p : Bool) (t : Nat) :
    (x.owe cl ks p t).exited = x.exited := by
  by_cases h : t < unknown <;> simp only [Core.owe, h, if_true, if_false] <;> cases cl <;> rfl
@[simp] theorem Core.owe_halted (x : Core) (cl : Cluster) (ks : List Nat) (p : Bool) (t : Nat) :
    (x.owe cl ks p t).halted = x.halted := by
  by_cases h : t < unknown <;> simp only [Core.owe, h, if_true, if_false] <;> cases cl <;> rfl
@[simp] theorem Core.owe_stopped (x : Core) (cl : Cluster) (ks : List Nat) (p : Bool) (t : Nat) :
    (x.owe cl ks p t).stopped = x.stopped := by
  by_cases h : t < unknown <;> simp only [Core.owe, h, if_true, if_false] <;> cases cl <;> rfl
@[simp] theorem Core.owe_lk (x : Core) (cl : Cluster) (ks : List Nat) (p : Bool) (t : Nat) : (x.owe cl ks p t).lk = x.lk := by
  by_cases h : t < unknown <;> simp only [Core.owe, h, if_true, if_false] <;> cases cl <;> rfl
@[simp] theorem Core.owe_sk (x : Core) (cl : Cluster) (ks : List Nat) (p : Bool) (t : Nat) : (x.owe cl ks p t).sk = x.sk := by
  by_cases h : t < unknown <;> simp only [Core.owe, h, if_true, if_false] <;> cases cl <;> rfl
@[simp] theorem Core.owe_bankq (x : Core) (cl : Cluster) (ks : List Nat) (p : Bool) (t : Nat) : (x.owe cl ks p t).bankq = x.bankq := by
  by_cases h : t < unknown <;> simp only [Core.owe, h, if_true, if_false] <;> cases cl <;> rfl
@[simp] theorem Core.owe_engEc (x : Core) (cl : Cluster) (ks : List Nat) (p : Bool) (t : Nat) : (x.owe cl ks p t).engEc = x.engEc := by
  by_cases h : t < unknown <;> simp only [Core.owe, h, if_true, if_false] <;> cases cl <;> rfl
@[simp] theorem Core.owe_tileid (x : Core) (cl : Cluster) (ks : List Nat) (p : Bool) (t : Nat) : (x.owe cl ks p t).tileid = x.tileid := by
  by_cases h : t < unknown <;> simp only [Core.owe, h, if_true, if_false] <;> cases cl <;> rfl
@[simp] theorem Core.owe_coreid (x : Core) (cl : Cluster) (ks : List Nat) (p : Bool) (t : Nat) : (x.owe cl ks p t).coreid = x.coreid := by
  by_cases h : t < unknown <;> simp only [Core.owe, h, if_true, if_false] <;> cases cl <;> rfl
@[simp] theorem Core.owe_bundleXqs (x : Core) (cl : Cluster) (ks : List Nat) (p : Bool) (t : Nat) : (x.owe cl ks p t).bundleXqs = x.bundleXqs := by
  by_cases h : t < unknown <;> simp only [Core.owe, h, if_true, if_false] <;> cases cl <;> rfl
@[simp] theorem Core.owe_post (x : Core) (cl : Cluster) (ks : List Nat) (p : Bool) (t : Nat) :
    (x.owe cl ks p t).post = x.post := by
  by_cases h : t < unknown <;> simp only [Core.owe, h, if_true, if_false] <;> cases cl <;> rfl

@[simp] theorem Core.modClu_reg (x : Core) (cl d : Cluster) (f : Clu → Clu) (n : Nat) :
    (x.modClu cl f).reg d n = x.reg d n := by
  cases cl <;> cases d <;> rfl

/-- What keeps an old value for the windows touches one cluster, and of it the values kept alone (R94). -/
theorem Core.keep_eq (x : Core) (cl : Cluster) (key : Nat) (bits : Row) (now t : Nat) :
    x.keep cl key bits now t = x.modClu cl fun y =>
      { y with
        late := (y.late.filter fun e => decide (now < e.t)) ++ [{ key := key, t := t, old := x.cell cl key, bits := bits }] } :=
  rfl

@[simp] theorem Core.keep_reg (x : Core) (cl d : Cluster) (key : Nat) (bits : Row) (now t n : Nat) :
    (x.keep cl key bits now t).reg d n = x.reg d n := by simp [Core.keep_eq]

@[simp] theorem Core.owe_reg (x : Core) (cl d : Cluster) (ks : List Nat) (p : Bool) (t n : Nat) :
    (x.owe cl ks p t).reg d n = x.reg d n := by
  by_cases h : t < unknown <;> simp only [Core.owe, h, if_true, if_false] <;> cases cl <;> cases d <;> rfl

/-- A register written reads the value written (R233); V has no 32-bit registers. -/
theorem Core.setReg_reg (x : Core) (cl : Cluster) (n : Nat) (w : Word) (h : cl ≠ .v) : (x.setReg cl n w).reg cl n = w := by
  cases cl <;> simp_all [Core.setReg, Core.reg]

/-- Another register of the file keeps its value. -/
theorem Core.setReg_reg_ne (x : Core) (cl : Cluster) {n m : Nat} (w : Word) (h : m ≠ n) :
    (x.setReg cl n w).reg cl m = x.reg cl m := by
  cases cl <;> simp [Core.setReg, Core.reg, Tbl.get_set_ne _ _ _ h]

/-- The other files keep their values. -/
theorem Core.setReg_reg_file (x : Core) {cl d : Cluster} (n m : Nat) (w : Word) (h : d ≠ cl) :
    (x.setReg cl n w).reg d m = x.reg d m := by
  cases cl <;> cases d <;> first | rfl | exact absurd rfl h

@[simp] theorem Core.setV_vreg (x : Core) (n : Nat) (r : Row) : (x.setV n r).vreg n = r := by
  simp [Core.setV, Core.vreg]

theorem Core.setV_vreg_ne (x : Core) {n m : Nat} (r : Row) (h : m ≠ n) : (x.setV n r).vreg m = x.vreg m := by
  simp [Core.setV, Core.vreg, Tbl.get_set_ne _ _ _ h]

/-- g0 reads 1 (R235). -/
@[simp] theorem Clu.guard_zero (y : Clu) : y.guard 0 = true := rfl

/-- A write to g0 is ignored (R235). -/
@[simp] theorem Clu.setGuard_zero (y : Clu) (b : Bool) : y.setGuard 0 b = y := rfl

/-- k0 reads all ones (R239). -/
@[simp] theorem Core.mask_zero (x : Core) : x.mask 0 = BitVec.allOnes 64 := rfl

/-- A write to k0 is ignored (R292). -/
@[simp] theorem Core.setMask_zero (x : Core) (m : BitVec 64) : x.setMask 0 m = x := rfl

theorem Core.setMask_mask (x : Core) {n : Nat} (m : BitVec 64) (h : n ≠ 0) : (x.setMask n m).mask n = m := by
  simp [Core.setMask, Core.mask, h]

theorem Core.setMask_mask_ne (x : Core) {n j : Nat} (m : BitVec 64) (h : j ≠ n) : (x.setMask n m).mask j = x.mask j := by
  by_cases hn : n = 0
  · simp [Core.setMask, hn]
  · simp [Core.setMask, Core.mask, hn, Tbl.get_set_ne _ _ _ h]

/-! ## Reset -/

/-- The memory of the reset state lists nothing. -/
@[simp] theorem State.reset_mem : State.reset.mem = [] := rfl

end Sys2Proof.Machine
end

