-- ==== Sys2Proof/Laws/Issue.lean ====
section
/-!
SUPPORT. What the shared operations of word issue do: a word that issues runs its body on the state `atWord` (R73,
R235), and the readable operands of a word are read.
-/
namespace Sys2Proof.Machine
open Claims

theorem dropLatches_clu (x : Core) (cl : Cluster) :
    ((x.dropLatches cl).clu cl).guards = (x.clu cl).guards ∧ ((x.dropLatches cl).clu cl).req = (x.clu cl).req ∧
      ((x.dropLatches cl).clu cl).noSync = (x.clu cl).noSync := by
  cases cl <;> exact ⟨rfl, rfl, rfl⟩

/-- A change of grouping leaves the guards of the cluster (R74). -/
theorem enterMode_guard (s : State) (n : Nat) : (enterMode s).ccl.guard n = s.ccl.guard n := by
  unfold enterMode
  split
  · rfl
  · have h : ∀ f : Core → Core, (s.modCc f).ccl = (f s.cc).clu s.cur.cl := by
      intro f; simp [State.ccl]
    rw [h]
    simp [Clu.guard, (dropLatches_clu s.cc s.cur.cl).1, State.ccl]

@[simp] theorem enterMode_cur (s : State) : (enterMode s).cur = s.cur := by
  unfold enterMode; split <;> rfl

@[simp] theorem enterMode_now (s : State) : (enterMode s).now = s.now := by
  unfold enterMode; split <;> rfl

@[simp] theorem enterMode_mem (s : State) : (enterMode s).mem = s.mem := by
  unfold enterMode; split <;> rfl

@[simp] theorem atWord_cl (cl : Cluster) (s : State) : (atWord cl s).cur.cl = cl := by simp [atWord]

@[simp] theorem atWord_now (cl : Cluster) (s : State) : (atWord cl s).now = s.now := by simp [atWord]

@[simp] theorem atWord_mem (cl : Cluster) (s : State) : (atWord cl s).mem = s.mem := by simp [atWord]

theorem atWord_cur (cl : Cluster) (s : State) : (atWord cl s).cur = { s.cur with cl := cl } := by simp [atWord]

/-- The M cluster that may issue is not held (R107). -/
theorem MFree.mHeld {s : State} (h : MFree s) : (atWord .m s).mHeld = false := by
  unfold State.mHeld
  rw [atWord_cur]
  exact h

/-- A word that issues: its body on the state `atWord`, and what comes of it (R73, R107, R235). -/
theorem cword_issues {cl : Cluster} {h : Hdr} {s : State} (hi : Issues cl h s) (body : State → Eff) :
    cword cl h body s = settle (atWord cl s) (body (atWord cl s)) := by
  obtain ⟨h1, h2, h3, h4⟩ := hi
  have hreq : ({ s with cur := { s.cur with cl := cl } } : State).ccl.req = none := h1
  have hg : (atWord cl s).ccl.guard h.gd.toNat = (s.cc.clu cl).guard h.gd.toNat := enterMode_guard _ _
  have hns : ({ s with cur := { s.cur with cl := cl } } : State).ccl.noSync = (s.cc.clu cl).noSync := rfl
  have hh : (h.sync && !(s.cc.clu cl).noSync && !s.cur.bundle) = false := by
    cases hs : h.sync
    · rfl
    · rcases h2 hs with hb' | hn <;> simp_all
  have hm : ¬(cl = .m ∧ (atWord cl s).mHeld = true) := by
    rintro ⟨rfl, h5⟩
    rw [MFree.mHeld (h4 rfl)] at h5
    cases h5
  simp only [cword, hreq, hns, hh, Option.isSome_none, Bool.false_eq_true, if_false]
  change (if (atWord cl s).ccl.guard h.gd.toNat != h.gn then
    settle (atWord cl s) (if cl = .m ∧ (atWord cl s).mHeld = true then _ else _) else _) = _
  rw [hg, if_pos (by simpa using h3), if_neg hm]
  rfl

/-- A word that waits goes on where it was. -/
theorem cword_waits {cl : Cluster} {h : Hdr} {r : Req} {s : State} (hw : Waits cl r s) (body : State → Eff) :
    cword cl h body s =
      settle { s with cur := { s.cur with cl := cl } } (body { s with cur := { s.cur with cl := cl } }) := by
  have hreq : ({ s with cur := { s.cur with cl := cl } } : State).ccl.req = some r := hw
  simp [cword, hreq]

/-- Readable sources are read (R237). -/
theorem srcs_readable {cl : Cluster} {enc : Bool} {cs : List (BitVec 7)} {s : State} (he : enc = true)
    (hr : Readable cl cs s) (k : List Word → State → Eff) :
    srcs cl enc cs k s = k (readSrcs cl cs s).1 (readSrcs cl cs s).2 := by
  obtain ⟨h1, h2, h3, h4, h5⟩ := hr
  simp [srcs, he, h1, h2, h3, h4, h5]

/-- Readable registers are read (R260, R318, R443). -/
theorem reads_readable {cl : Cluster} {rs ks : List Nat} {s : State} (hr : RegsReadable cl rs s) (hw : s.owed cl ks = false)
    (k : State → Eff) : reads cl rs ks k s = k s := by
  have h : s.owed cl (rs ++ ks) = false := by
    have h1 := hr.1
    simp only [State.owed, List.any_append, Bool.or_eq_false_iff] at h1 hw ⊢
    exact ⟨h1, hw⟩
  simp [reads, held, h, hr.2]

/-- Readable sources of a V word are read (R237). -/
theorem vsrcs_readable {enc : Bool} {ks : List Nat} {cs : List (Pos × BitVec 7)} {s : State} (he : enc = true)
    (hr : VReadable ks cs s) (k : List Row → State → Eff) :
    vsrcs enc ks cs k s = k (readVSrcs cs s).1 (readVSrcs cs s).2 := by
  obtain ⟨h1, h2, h3, h4, h5, h6, h7, h8⟩ := hr
  have h34 : ((cs.map Prod.snd).any (s.srcOwed .v) || s.owed .v (ks.map fun k => 128 + k)) = false := by simp [h3, h4]
  simp only [vsrcs, he, h1, h2, h34, h5, h6, h7, h8]
  simp

/-- A V word of a free pace runs in the paced state (R289). -/
theorem paced_free {p : Pace} {s : State} (h : PaceFree p s) (k : State → Eff) : paced p k s = k (pacedState p s) := by
  unfold paced pacedState
  split
  · rfl
  · rcases h with h | h
    · contradiction
    · simp [h]

/-- The word that a cluster waits for is the same in the state in which it issues (R74). -/
theorem atWord_req (cl : Cluster) (s : State) : (atWord cl s).ccl.req = (s.cc.clu cl).req := by
  unfold atWord enterMode
  split
  · rfl
  · have : ∀ (t : State) (f : Core → Core), (t.modCc f).ccl = (f t.cc).clu t.cur.cl := by
      intro t f
      simp [State.ccl]
    rw [this]
    simp only [Core.modClu_clu, (dropLatches_clu _ _).2.1]
    rfl

@[simp] theorem Clu.popXq_xq (y : Clu) : y.popXq.xq = y.xq.drop 1 := rfl
@[simp] theorem Clu.popXq_lat (y : Clu) : y.popXq.lat = y.lat := rfl
@[simp] theorem Clu.popXq_guards (y : Clu) : y.popXq.guards = y.guards := rfl
@[simp] theorem Clu.popXq_loops (y : Clu) : y.popXq.loops = y.loops := rfl
@[simp] theorem Clu.popXq_pc (y : Clu) : y.popXq.pc = y.pc := rfl
@[simp] theorem Clu.popXq_req (y : Clu) : y.popXq.req = y.req := rfl

theorem readSrc_owed (cl : Cluster) (c : BitVec 7) (s : State) (cl' : Cluster) (ks : List Nat) :
    (readSrc cl c s).2.owed cl' ks = s.owed cl' ks := by
  unfold readSrc
  split
  · rfl
  · split
    · rfl
    · split
      · have : ∀ k, ((s.modCc fun x => x.modClu cl Clu.popXq).cc.clu cl').busy.get k 0 =
            (s.cc.clu cl').busy.get k 0 := by
          intro k
          cases cl <;> cases cl' <;> simp [Core.modClu, Core.setClu, Core.clu, Clu.popXq, Clu.learn]
        simp only [State.owed, this]
        rfl
      · rfl

/-- Reading sources leaves what is still to be delivered (R260, R318). -/
theorem readSrcs_owed (cl : Cluster) (cs : List (BitVec 7)) (s : State) (cl' : Cluster) (ks : List Nat) :
    (readSrcs cl cs s).2.owed cl' ks = s.owed cl' ks := by
  induction cs generalizing s with
  | nil => rfl
  | cons c r ih => simp only [readSrcs]; rw [ih, readSrc_owed]

theorem readSrc_badReg (cl : Cluster) (c : BitVec 7) (s : State) (cl' : Cluster) (ks : List Nat) :
    (readSrc cl c s).2.badReg cl' ks = s.badReg cl' ks := by
  unfold readSrc
  split
  · rfl
  · split
    · rfl
    · split
      · have : ((s.modCc fun x => x.modClu cl Clu.popXq).cc.clu cl').badRegs = (s.cc.clu cl').badRegs := by
          cases cl <;> cases cl' <;> simp [Core.modClu, Core.setClu, Core.clu, Clu.popXq, Clu.learn]
        have h2 : (s.modCc fun x => x.modClu cl Clu.popXq).ct.physCore s.cur.core.val = s.ct.physCore s.cur.core.val := by
          simp only [State.modCc, State.modCore, State.setCore, State.ct, State.setTile_cur, State.setTile_tile]
          rfl
        have h3 : ∀ n, (s.modCc fun x => x.modClu cl Clu.popXq).coreMpa s.cur.tile s.cur.core 2 n =
            s.coreMpa s.cur.tile s.cur.core 2 n := by
          intro n
          simp only [State.ct, State.modCc_cur] at h2
          simp only [State.coreMpa, h2]
        simp only [State.badReg, this, State.modCc_cur, h3]
      · rfl

/-- Reading sources leaves which registers were found uncorrectable (R443). -/
theorem readSrcs_badReg (cl : Cluster) (cs : List (BitVec 7)) (s : State) (cl' : Cluster) (ks : List Nat) :
    (readSrcs cl cs s).2.badReg cl' ks = s.badReg cl' ks := by
  induction cs generalizing s with
  | nil => rfl
  | cons c r ih => simp only [readSrcs]; rw [ih, readSrc_badReg]

/-- A word of no source can be read. -/
theorem readable_nil (cl : Cluster) (s : State) : Readable cl [] s := by
  simp [Readable, badLatch, xqPops, Clu.xqReady, State.badSrc, State.badReg, placeBad, lqPops]

end Sys2Proof.Machine
end

