-- ==== Sys2Proof/Laws/Memory.lean ====
section
/-!
SUPPORT. Memory: a byte reads what was last written, other bytes keep their values, and every memory operation keeps
the canonical form (MEMORY of the inventory, log 2).
-/
namespace Sys2Proof.Machine

/-! ## The list of bytes -/

theorem memWfFrom_mono {n m : Nat} (h : n ≤ m) : ∀ {l : List Host.Cell}, memWfFrom m l = true → memWfFrom n l = true
  | [], _ => rfl
  | (x, y) :: r, hw => by
    simp only [memWfFrom, Bool.and_eq_true, decide_eq_true_eq] at hw ⊢
    exact ⟨⟨Nat.le_trans h hw.1.1, hw.1.2⟩, hw.2⟩

/-- Below the bound of a canonical list, every address reads the default. -/
theorem memGet_below {n a : Nat} (h : a < n) : ∀ {l : List Host.Cell}, memWfFrom n l = true → memGet l a = memDefault
  | [], _ => rfl
  | (x, y) :: r, hw => by
    simp only [memWfFrom, Bool.and_eq_true, decide_eq_true_eq] at hw
    have hx : a < x := Nat.lt_of_lt_of_le h hw.1.1
    simp [memGet, Nat.ne_of_gt hx, hx]

/-- A byte reads the value last written to it. -/
theorem memGet_memPut (a : Nat) (b : Byte) :
    ∀ {n : Nat} {l : List Host.Cell}, memWfFrom n l = true → memGet (memPut l a b) a = b
  | _, [], _ => by
    unfold memPut
    split <;> simp_all [memGet]
  | n, (x, y) :: r, hw => by
    simp only [memWfFrom, Bool.and_eq_true, decide_eq_true_eq] at hw
    unfold memPut
    split
    · rename_i hax
      split
      · simp_all [memGet, Nat.ne_of_gt hax]
      · simp [memGet]
    · split
      · split
        · subst_vars
          exact memGet_below (Nat.lt_succ_self _) hw.2
        · simp [memGet]
      · rename_i h1 h2
        have h3 : ¬ a < x := h1
        have h4 : ¬ x = a := h2
        simp [memGet, h3, h4, memGet_memPut a b hw.2]

/-- Every other byte keeps its value. -/
theorem memGet_memPut_ne {a c : Nat} (b : Byte) (h : c ≠ a) :
    ∀ {n : Nat} {l : List Host.Cell}, memWfFrom n l = true → memGet (memPut l a b) c = memGet l c
  | _, [], _ => by
    unfold memPut
    split
    · rfl
    · simp [memGet, Ne.symm h]
  | n, (x, y) :: r, hw => by
    simp only [memWfFrom, Bool.and_eq_true, decide_eq_true_eq] at hw
    unfold memPut
    split
    · rename_i hax
      split
      · rfl
      · simp only [memGet, if_neg (Ne.symm h)]
        split
        · rename_i hca
          have h1 : ¬ x = c := by omega
          have h2 : c < x := by omega
          simp [h1, h2]
        · rfl
    · split
      · rename_i hxa
        subst hxa
        have hx : ¬ x = c := fun e => h e.symm
        split
        · simp only [memGet, if_neg hx]
          split
          · rename_i hc
            exact memGet_below (Nat.lt_succ_of_lt hc) hw.2
          · rfl
        · simp [memGet, hx]
      · simp only [memGet, memGet_memPut_ne b h hw.2]

/-- Writing a byte keeps the canonical form. -/
theorem memWfFrom_memPut (a : Nat) (b : Byte) :
    ∀ {n : Nat} {l : List Host.Cell}, n ≤ a → memWfFrom n l = true → memWfFrom n (memPut l a b) = true
  | n, [], hn, _ => by
    unfold memPut
    split
    · rfl
    · simp_all [memWfFrom]
  | n, (x, y) :: r, hn, hw => by
    have hw' := hw
    simp only [memWfFrom, Bool.and_eq_true, decide_eq_true_eq] at hw
    unfold memPut
    split
    · rename_i hax
      split
      · exact hw'
      · rename_i hb
        simp only [memWfFrom, Bool.and_eq_true, decide_eq_true_eq, bne_iff_ne, ne_eq]
        exact ⟨⟨hn, hb⟩, ⟨hax, by simpa using hw.1.2⟩, hw.2⟩
    · split
      · split
        · exact memWfFrom_mono (Nat.le_succ_of_le hw.1.1) hw.2
        · rename_i hb
          simp only [memWfFrom, Bool.and_eq_true, decide_eq_true_eq, bne_iff_ne, ne_eq]
          exact ⟨⟨hn, hb⟩, by simp_all⟩
      · simp only [memWfFrom, Bool.and_eq_true, decide_eq_true_eq]
        refine ⟨⟨hw.1.1, hw.1.2⟩, memWfFrom_memPut a b ?_ hw.2⟩
        omega

/-- Memory.wf is kept by a write. -/
theorem Memory.wf_memPut {m : List Host.Cell} (a : Nat) (b : Byte) (h : Memory.wf m = true) :
    Memory.wf (memPut m a b) = true := memWfFrom_memPut a b (Nat.zero_le a) h

/-- The memory of the reset state is canonical. -/
theorem State.reset_wf : Memory.wf State.reset.mem = true := rfl

/-! ## Bytes by their address -/

/-- A byte written leaves memory canonical. -/
theorem State.writeByte_wf (s : State) (mpa : Nat) (b : Byte) (h : Memory.wf s.mem = true) :
    Memory.wf (s.writeByte mpa b).mem = true := by
  unfold State.writeByte
  split
  · exact Memory.wf_memPut _ _ h
  · exact Memory.wf_memPut _ _ h
  · exact h
  · split
    · exact Memory.wf_memPut _ _ h
    · exact h
    · exact h
    · split <;> exact h
    · exact h

/-- Bytes written leave memory canonical. -/
theorem State.writeBytes_wf (l : List Byte) :
    ∀ (s : State) (mpa : Nat), Memory.wf s.mem = true → Memory.wf (s.writeBytes mpa l).mem = true := by
  induction l with
  | nil => intro s _ h; exact h
  | cons b r ih => intro s mpa h; exact ih _ _ (State.writeByte_wf s mpa b h)

/-- A word written leaves memory canonical. -/
theorem State.writeWord_wf (s : State) (mpa : Nat) (w : Word) (h : Memory.wf s.mem = true) :
    Memory.wf (s.writeWord mpa w).mem = true := State.writeBytes_wf _ _ _ h

/-- 64 bits written leave memory canonical. -/
theorem State.writeDWord_wf (s : State) (mpa : Nat) (w : DWord) (h : Memory.wf s.mem = true) :
    Memory.wf (s.writeDWord mpa w).mem = true := State.writeBytes_wf _ _ _ h

/-- A row written leaves memory canonical. -/
theorem State.writeRow_wf (s : State) (mpa : Nat) (r : Row) (h : Memory.wf s.mem = true) :
    Memory.wf (s.writeRow mpa r).mem = true := State.writeBytes_wf _ _ _ h

end Sys2Proof.Machine
end

