-- ==== Sys2Proof/Laws/Moves.lean ====
section
/-!
SUPPORT. The operations that change many bytes of memory at once, clearing the scratchpads of a tile (R64) and moving
leased memory (R88), keep the canonical form.
-/
namespace Sys2Proof.Machine

/-- Dropping entries of a canonical list keeps the form. -/
theorem memWfFrom_filter (p : Host.Cell → Bool) :
    ∀ {n : Nat} {l : List Host.Cell}, memWfFrom n l = true → memWfFrom n (l.filter p) = true
  | _, [], _ => rfl
  | n, (x, y) :: r, hw => by
    simp only [memWfFrom, Bool.and_eq_true] at hw
    rw [List.filter_cons]
    split
    · simp only [memWfFrom, Bool.and_eq_true]
      exact ⟨hw.1, memWfFrom_filter p hw.2⟩
    · refine memWfFrom_mono ?_ (memWfFrom_filter p hw.2)
      have h := hw.1.1
      simp only [decide_eq_true_eq] at h
      omega

/-- Clearing the scratchpads of a tile leaves memory canonical (R64). -/
theorem zeroPads_wf (t : TileId) (s : State) (h : Memory.wf s.mem = true) : Memory.wf (zeroPads t s).mem = true :=
  memWfFrom_filter _ h

/-- A fold of operations that keep the canonical form keeps it. -/
theorem foldl_wf {α : Type} (g : List Host.Cell → α → List Host.Cell)
    (hg : ∀ m c, Memory.wf m = true → Memory.wf (g m c) = true) :
    ∀ (l : List α) (m : List Host.Cell), Memory.wf m = true → Memory.wf (l.foldl g m) = true := by
  intro l
  induction l with
  | nil => intro m h; exact h
  | cons c r ih => intro m h; exact ih _ (hg m c h)

/-- Moving leased memory leaves memory canonical (R88). -/
theorem moveMem_wf (old new : List Placement) (m : List Host.Cell) (h : Memory.wf m = true) :
    Memory.wf (moveMem old new m) = true := by
  refine foldl_wf _ ?_ _ _ (memWfFrom_filter _ h)
  intro a c ha
  split
  · exact Memory.wf_memPut _ _ ha
  · exact ha

end Sys2Proof.Machine
end

