-- ==== Sys2Proof/Tests/Slice0.lean ====
section
/-!
SUPPORT. Tests on fixed values: ill-formed terms that WellFormed refuses, words of the spec that decode, steps whose
results the spec's rules and worked examples give, and, for every statement with hypotheses, states and operands that meet
them.
-/
namespace Sys2Proof.Tests
open Machine Claims

set_option Elab.async false

/-! ## Helpers -/

/-- A word of no rendezvous under guard g0. -/
def h0 : Hdr := ⟨false, 0, false⟩
/-- A rendezvous word under guard g0. -/
def hS : Hdr := ⟨true, 0, false⟩
/-- A word whose guard never holds. -/
def hN : Hdr := ⟨false, 0, true⟩
/-- A running cluster. -/
def up : Clu := { stat := .running }
/-- A running core with a few registers: s1 = 7, s2 = -1; a0:a1 = 0x100 and a2 = 5; e1 = 3; v1 all 1.0, v2 lane i = i. -/
def core1 : Core :=
  { c := up, vc := up, m := up, ec := up, s := (({} : Tbl Word).set 1 7).set 2 0xFFFFFFFF,
    a := (({} : Tbl Word).set 0 0x100).set 2 5, e := ({} : Tbl Word).set 1 3,
    v := (({} : Tbl Row).set 1 (splat 0x3F800000)).set 2 (mkRow fun i => BitVec.ofNat 32 i) }
/-- Core 0 of tile 0 as core1, at rc 320. -/
def s1 : State := State.modCore { now := 320 } 0 0 fun _ => core1
/-- The same with f applied to the core. -/
def on (f : Core → Core) : State := s1.modCore 0 0 f
/-- The same with f applied to the tile. -/
def onTile (f : Tile → Tile) : State := s1.modTile 0 f
/-- The same with f applied to the hub. -/
def onHub (f : Hub → Hub) : State := s1.modHub f
/-- In a bundle. -/
def inBundle (s : State) : State := { s with cur := { s.cur with bundle := true } }
/-- What exec answers next; the state of no core where it does not. -/
def after (i : Instr) (s : State) : State :=
  match exec i s with
  | .next t => t
  | _ => {}
/-- A register form. -/
def rr (d a b : BitVec 7) (f : BitVec 23 := 0) (c : BitVec 7 := 0) : RR := ⟨d, true, a, b, c, f⟩
/-- An immediate form. -/
def ri (d a : BitVec 7) (imm : Word) (f5 : BitVec 5 := 0) : RI := ⟨d, true, a, f5, imm⟩
/-- A memory form of base pair 0. -/
def mf (d : BitVec 7) (sz : BitVec 3) (off : BitVec 24 := 0) (x : BitVec 7 := 0) (ord : BitVec 2 := 0) : MemF :=
  ⟨d, true, 0, sz, false, ord, 0, x, off⟩
/-- A branch form. -/
def br (bk : BitVec 4) (disp : Word) (a : BitVec 7 := 0) : BrF := ⟨bk, a, 0, disp⟩
/-- An engine form with no semaphores. -/
def eng (md : BitVec 13 := 0) (a : BitVec 7 := 0x60) (b : BitVec 7 := 0x60) (c : BitVec 7 := 0x60) : EngF :=
  ⟨false, 0, false, 0, a, b, c, md⟩
/-- A row message. -/
def msg (seq : Word) (mpa : Mpa) (pay : List Row) : Msg := ⟨seq, mpa, 0, 0, 0, false, 0, 0, pay, [], [], false, false⟩
/-- A source on this module. -/
def src : Source := ⟨0, 1, 2, none⟩
/-- A store of lane 0 at home whose data are there. -/
def homeStore (lane : Option Nat) : PendStore :=
  { va := 0x100, mpa := 0x800000000100, win := none, lane := lane, data := some 7, g := false, rel := false, sc := 0,
    pc := 0, group := none, handle := 0, handlerWork := false }
/-- A running task on slot 0 and string 0. -/
def task1 : Task := { id := 7, prio := 0, stat := .running, slot := some 0, strings := [0] }
/-- A rig word. -/
def rw (hd : BitVec 6) (body : BitVec 52) : RigW := ⟨hd, body⟩

/-! ## WellFormed refuses -/

theorem test_wf_mdrain : (Instr.mdrain h0 (eng 0x1000)).wf = false := by decide
theorem test_wf_mdrainSend : (Instr.mdrainSend h0 (eng 0)).wf = false := by decide
theorem test_wf_xportDrain : (Instr.xportDrain (rw 0 0x100000000000)).wf = false := by decide
theorem test_wf_xportDark : (Instr.xportDark (rw 0 0)).wf = false := by decide
theorem test_wf_xportProbe : (Instr.xportProbe (rw 0 0x100000000000)).wf = false := by decide
theorem test_wf_xportOpen : (Instr.xportOpen (rw 0 0x200000000000)).wf = false := by decide
theorem test_wf_mziFail : (Instr.mziFail 0 288).wf = false := by decide
theorem test_wf_governor : (Instr.governorSample [0, 0, 0]).wf = false := by decide
theorem test_wf_row : (Instr.row src (msg 0 0 [0, 0])).wf = false := by decide
theorem test_wf_shortStore : (Instr.shortStore src (msg 0 0 [0, 0])).wf = false := by decide
theorem test_wf_shortAtomic : (Instr.shortAtomic src (msg 0 0 [0, 0])).wf = false := by decide
theorem test_wf_shortLoad : (Instr.shortLoad src (msg 0 0 [0, 0])).wf = false := by decide
theorem test_wf_reply : (Instr.reply src (msg 0 0 [0, 0])).wf = false := by decide
theorem test_wf_chunk : (Instr.chunk src (msg 0 0 (List.replicate 17 0))).wf = false := by decide
theorem test_wf_contribution : (Instr.reductionContribution src (msg 0 0 [0, 0])).wf = false := by decide
theorem test_wf_multicast : (Instr.multicastArrival src (msg 0 0 [0, 0])).wf = false := by decide

/-! ## Decoding: words of the spec's examples, bit by bit from R232, R233 and the opcode tables -/

theorem test_dec_add : decode (.cluster .c) 0x0000703D40000000 = .ok (.add h0 ⟨3, true, 1, 0x75, 0, 0⟩) := by rfl
theorem test_dec_addi : decode (.cluster .c) 0x0100706000000001 = .ok (.addi h0 (ri 3 3 1)) := by rfl
theorem test_dec_cmpi : decode (.cluster .c) 0x260040230000000F = .ok (.cmpi h0 ⟨2, false, 1, 3, 15⟩) := by rfl
theorem test_dec_exit : decode (.cluster .c) 0xC100000000000000 = .ok (.exit hS ⟨0, false, 0, 0, 0⟩) := by rfl
theorem test_dec_nop : decode (.cluster .c) 0xFF00000000000000 = .ok (.nop hS 0) := by rfl
theorem test_dec_loop : decode (.cluster .c) 0x71000E0000000008 = .ok (.loop h0 (br 0 8 7)) := by rfl
theorem test_dec_vfma : decode (.cluster .v) 0x0300B02081A40000 = .ok (.vfma h0 (rr 5 1 2 0x240000 3)) := by rfl
theorem test_dec_vrotm : decode (.cluster .v) 0x3C00D8910000012C = .ok (.vrotm h0 ⟨6, true, 0x44, 0x44, 0, 0x12C⟩) := by rfl
theorem test_dec_sst : decode (.cluster .m) 0x130E228500000080 = .ok (.sst h0 ⟨0x71, false, 5, 0, false, 2, 2, 0, 0x80⟩) := by rfl
theorem test_dec_mma : decode (.cluster .e) 0x1100043420000058 = .ok (.mma h0 ⟨false, 0, true, 0x0D, 4, 0, 0, 0x58⟩) := by rfl
theorem test_dec_cpy : decode (.cluster .e) 0x2000047818400400 = .ok (.cpy h0 ⟨false, 0, true, 0x1E, 3, 4, 0, 0x400⟩) := by rfl
theorem test_dec_rig : decode .rig 0x0471300001000000 = .ok (.rig (rw 7 0x1300001000000)) := by rfl
theorem test_dec_sigev : decode .rig 0x1871064000000000 = .ok (.sigev (rw 7 0x1064000000000)) := by rfl
theorem test_dec_reserved : decode (.cluster .c) 0x7E00000000000000 = .error (.reservedCommon 0x7E) := by rfl

/-! ## Results that the rules and the worked examples give -/

/-- R261: 7 + (−1). -/
theorem test_add_wraps : (after (.add h0 (rr 3 1 2)) s1).cc.reg .c 3 = 6 := by decide +kernel
/-- R260: the result is pushed. -/
theorem test_sub_pushes : (after (.sub h0 (rr 3 2 1)) s1).cc.c.lat.head? = some 0xFFFFFFF8 := by decide +kernel
/-- R262: the divisor 0. -/
theorem test_div_zero : (after (.div h0 (rr 3 1 9)) s1).cc.reg .c 3 = 0xFFFFFFFF := by decide +kernel
/-- R261: CLZ of 0 is 32. -/
theorem test_clz_zero : clz 0 = 32 := by decide +kernel
/-- R263: one bit at 31, sign-extended. -/
theorem test_extr_signed : (after (.extr h0 (rr 3 2 0 0x41F)) s1).cc.reg .c 3 = 0xFFFFFFFF := by decide +kernel
/-- R264: 7 ≥ 7 signed. -/
theorem test_cmpi_ge : (after (.cmpi h0 ⟨2, false, 1, 3, 7⟩) s1).cc.c.guard 2 = true := by decide +kernel
/-- R235: a false guard. -/
theorem test_guard_false : (after (.add hN (rr 3 1 2)) s1).cc.reg .c 3 = 0 := by decide +kernel
/-- R266: DISP counts from the branch's own word. -/
theorem test_br_taken : (after (.br h0 (br 2 (BitVec.ofInt 32 (-1)) 1)) s1).cc.c.pc = 0x7FFFF := by decide +kernel
/-- R267: a count of 0 goes past the body. -/
theorem test_loop_zero : (after (.loop h0 (br 0 3 9)) s1).cc.c.pc = 3 := by decide +kernel
/-- R237: a reserved source code raises a record. -/
theorem test_reserved_record : (after (.add h0 (rr 3 0x44 2)) s1).hub.rseq = 1 := by decide +kernel
/-- R290: 1.0 × 1.0 + 1.0 in the last lane. -/
theorem test_vfma : lane ((after (.vfma h0 (rr 5 1 1 0 1)) s1).cc.vreg 5) 63 = 0x40000000 := by decide +kernel
/-- R297. -/
theorem test_vadd : lane ((after (.vadd h0 (rr 5 2 2)) s1).cc.vreg 5) 63 = 126 := by decide +kernel
/-- R309: the inline index −1 names lane 63. -/
theorem test_vperm : lane ((after (.vperm h0 (rr 5 2 0x6F)) s1).cc.vreg 5) 3 = 63 := by decide +kernel
/-- R316: the pair is sign-extended IMM32 longer. -/
theorem test_aaddi64 : (after (.aaddi64 h0 (ri 4 0 0xFFFFFFFF)) s1).cc.pair 4 = 0xFF := by decide +kernel
/-- R321: a register stored at the pair's address plus the offset, little-endian in the own scratchpad. -/
theorem test_sst : (after (.sst h0 (mf 2 0 4)) s1).readWord 0x800000000104 = 5 := by decide +kernel
/-- R320. -/
theorem test_sld : (after (.sld h0 (mf 3 0 4)) (s1.writeWord 0x800000000104 9)).cc.reg .m 3 = 9 := by decide +kernel
/-- R278: TRAP acts after its bundle. -/
theorem test_trap_noted : ((after (.trap hS (ri 0 0 3)) (inBundle s1)).core 0 0).post = some (.trap 3 0) := by
  decide +kernel
/-- R143: 500.0 in E4M3, saturating or not. -/
theorem test_convert : (convert 8 0x0B 0 true 0x43FA0000).1 = 0x7E ∧ (convert 8 0x0B 0 false 0x43FA0000).1 = 0x7F := by
  decide +kernel
/-- R125: the delta −4 is nibble 0xC. -/
theorem test_slot_bits : slotBits 0 (-4) = 0xC ∧ slotScale 0 0xC 0 0 = -4 := by decide +kernel
/-- R126, the worked example. -/
theorem test_row_scales : rowScales (fun n => [2, 0, 0, 8, 0xB, 0xF, 0xD, 0, 0].getD n 0) 3 0 0 = [2, -5, -8] := by
  decide +kernel
/-- R305, the worked example: the scale of a block of 6.0 and 1.5 in 8-bit elements, and its elements. -/
theorem test_block_scale : blockScale 8 0 (fp32.decode 0x40C00000 :: List.replicate 31 (fp32.decode 0x3FC00000)) = -4 ∧
    (quantElem 8 0 (-4) (fp32.decode 0x40C00000)).1 = 0x60 ∧ (quantElem 8 0 (-4) (fp32.decode 0x3FC00000)).1 = 0x18 := by
  decide +kernel
/-- R201, the worked example. -/
theorem test_block_sum : blockSum [100, 50, 3] 0 [100, 10, 1] (-1) = ([75, 28, 2], 1) := by decide +kernel
/-- R348, the worked example: the tie goes to even. -/
theorem test_mdrain : drainElem (eng 0x180) 0x400404000000 0x3F000000 0xBF800000 = 0x3E008000 ∧
    (convert 8 0x0A 0 false 0x3E008000).1 = 0x3E00 := by decide +kernel
/-- R361, the worked example: −1, 0 and 2 from the byte 0x32. -/
theorem test_rice : riceList [0x32] 1 8 3 0 = some [0xFF, 0, 2] := by decide +kernel
/-- R361: the sums of three bytes. -/
theorem test_fletcher : fletcher [0xFF, 0, 2] = 0x0202 := by decide +kernel
/-- R495, the record of RING_DETUNE: its first and second words, and its fabric word. -/
theorem test_record_ring :
    let r : FaultRec := { code := .ringDetune, kind := .async, task := 0x66, tile := some (2, 2), fab := some { handle := 7, port := 6, line := 9 }, extra := 0x261 }
    let l := recWords {} r .host .contained
    (l[0]?, l[1]?, l[4]?) = (some 0x5512780000000000, some 0x0004202000660000, some 0x8ED2000000000000) := by decide +kernel
/-- R409, the worked example of a job fault, taken locally: word 0 of the record. -/
theorem test_record_job :
    let r : FaultRec := { code := .shapeBounds, kind := .job, task := 0x42, tile := some (0, 5), core := some (3, .e), pc := some 0x120, addr := some (false, 0x8000) }
    (recWords { hub := { rseq := 0x17 } } r .loc .contained)[0]? = some 0x4403440000000017 := by decide +kernel
/-- The same example: the trap registers (R414). -/
theorem test_record_trap :
    let r : FaultRec := { code := .shapeBounds, kind := .job, task := 0x42, tile := some (0, 5), core := some (3, .e), pc := some 0x120, addr := some (false, 0x8000) }
    let k := (deliver r ({ hub := { tasks := [{ task1 with id := 0x42 }] } } : State)).core 5 3
    (k.trapcause, k.trappcHi, k.trapval, k.trap) = (0x40300D00, 0xC0000120, 0x8000, true) := by decide +kernel
/-- FIPS 202's digest of the empty message (log 11). -/
theorem test_shake : shake256 [] = 0x2f76d56e64270cb5821bb862ea52cd3f24eb3e74eb3f3b23138da80b2bddb946 := by decide +kernel
/-- R413: the table as it stands at reset puts class 4 on LOCAL. -/
theorem test_reset_route : tableRoute (({} : State).tile 5).routes .shapeBounds = .loc := by decide +kernel

/-! ## Witnesses: for every clause with hypotheses, a state and operands that meet them -/

/-- EncodingRoundTrips, in a word, an event and the widest event. -/
theorem wit_round : (Instr.add h0 (rr 0x7F 1 2)).wf = true ∧ (Instr.xportOpen (rw 0 0x300000000000)).wf = true ∧
    (Instr.row src (msg 0 0 [0])).wf = true := by decide +kernel
/-- StepRunsDecodedWord. -/
theorem wit_step :
    let s := { onTile (fun x => { x with store := x.store.set 0 0x0000703D40000000 }) with agenda := [(320, .issue 0 0 .c)] }
    s.agenda = [(320, .issue 0 0 .c)] ∧ 320 ≤ s.now ∧ ((s.core 0 0).clu .c).held = false ∧
      ((s.core 0 0).clu .c).stat = .running ∧ (s.core 0 0).bundleWait = false ∧ (s.core 0 0).gated = false ∧
      (s.tile 0).badWords.contains ((s.core 0 0).clu .c).pc = false ∧
      decode (.cluster .c) ((s.tile 0).store.get ((s.core 0 0).clu .c).pc.toNat 0x7E00000000000000) =
        .ok (.add h0 ⟨3, true, 1, 0x75, 0, 0⟩) := by
  refine ⟨?_, ?_, ?_, ?_, ?_, ?_, ?_, by rfl⟩ <;> decide +kernel
/-- EveryInstructionAnswersNext: a word whose guard fails, alone and in a bundle; one that waits for its rendezvous; a rig word
without its task. -/
theorem wit_all : .cluster .c ∈ (Instr.add hN (rr 3 1 2)).units ∧ (encode (.add hN (rr 3 1 2))).any (fun x =>
      (hdrOf x).sync == false && s1.ccl.guard (hdrOf x).gd.toNat == (hdrOf x).gn) = true ∧ s1.cur.cl = .c ∧
    (s1.cc.clu .c).req = none ∧ (encode (.nop hS 0)).any (fun x => (hdrOf x).sync) = true ∧ .cluster .c ∈ (Instr.nop hS 0).units ∧
    s1.cur.bundle = false ∧ (s1.cc.clu .c).noSync = false ∧ FetchUnit.rig ∈ (Instr.nops (rw 0 0)).units ∧ s1.slotTask s1.cur.slot = none := by
  decide +kernel
/-- EveryInstructionAnswersNext: events with nothing to act on. -/
theorem wit_rests : s1.slotTask (fin 8 s1.cur.ix) = none ∧ s1.request s1.cur.tile = none ∧ s1.cc.held = false ∧ s1.cc.stuck = false ∧
    s1.cc.gated = false ∧ s1.cc.asks s1.now = false ∧ (∀ k, (s1.ct.core k).asks s1.now = false) ∧
    chanJob s1 s1.cur.tile (fin 8 s1.cur.ix) = none ∧ s1.cc.queue (queueOf s1.cur.ix) = [] ∧
    (s1.ct.cents.get s1.cur.ix {}).rdy = false ∧ firstWalk s1.ct.walkq (s1.now / 2) = none ∧ (hc s1).pathed = false ∧
    (hc s1).waits = false ∧ (hc s1).failed = false ∧ (hc s1).state ≠ .derigging ∧ (hc s1).ext = false ∧ (hc s1).sent = [] ∧
    (hc s1).hears = false ∧ s1.ct.home? src = none ∧ src.md = s1.hub.modid ∧ (s1.fib (s1.cur.ix % 64)).state ≠ .probing ∧
    (s1.fib (s1.cur.ix % 64)).state ≠ .fopen ∧ (s1.str (fin 8 s1.cur.ix)).pausedAt = none ∧
    (onTile fun x => { x with inService := false }).ct.inService = false ∧ s1.hub.cmd = none ∧ s1.hub.stream = none ∧
    s1.hub.astat ≠ 1 ∧ s1.hub.stage ≠ 0xE ∧ (let s := onHub fun h => { h with stage := 0xE, dead := true }
     s.hub.stage = 0xE ∧ s.hub.dead = true) := by decide +kernel
/-- IssueFollowsRendezvousAndGuard: a false guard, in a bundle too; a rendezvous word alone. -/
theorem wit_guard : (s1.cc.clu .c).req = none ∧ (s1.cc.clu .c).guard hN.gd.toNat = hN.gn ∧
    ((inBundle s1).cur.bundle = true) ∧ s1.cur.bundle = false ∧ (s1.cc.clu .v).noSync = false ∧ hS.sync = true := by
  decide +kernel
/-- What every word of a cluster needs to issue, outside a bundle and, for a rendezvous word, in one. -/
theorem wit_issues : Issues .c h0 s1 ∧ Issues .v h0 s1 ∧ Issues .m h0 s1 ∧ Issues .e h0 s1 ∧ Issues .c hS (inBundle s1) := by
  unfold Issues MFree; decide +kernel
/-- SourcesAndResults: the last register, the last latch, xq and the last constant. -/
theorem wit_sources : srcOk .c 0x3F = true ∧ srcOk .m 0x43 = true ∧ srcOk .e 0x45 = true ∧ srcOk .c 0x7F = true ∧
    (on fun x => { x with c := { x.c with xq := [(0, 9)] } }).ccl.xq = [(0, 9)] := by decide +kernel
/-- CompletionFollowsSequence: no loop, a body that ends with passes left and one with none. -/
theorem wit_sequence : s1.cur.bundle = false ∧ s1.cc.post = none ∧ s1.ccl.redir = none ∧
    (let y : Clu := { pc := 3, loops := [{ start := 1, stop := 4, count := 2, depth := 0 }] }
     y.seqNext = (1, [{ start := 1, stop := 4, count := 1, depth := 0 }])) ∧
    (let y : Clu := { pc := 3, loops := [{ start := 1, stop := 4, count := 1, depth := 0 }] }
     y.seqNext = (4, [])) := by decide +kernel
/-- ControlArithmeticComplete, with three operands, two, one and none. -/
theorem wit_arith : dstOk .c (rr 0x3F 1 2 0 0x75).d = true ∧ Readable .c (rrOps 3 (rr 0x3F 1 2 0 0x75)) (atWord .c s1) ∧
    Readable .c [(ri 3 1 5).a] (atWord .c s1) ∧
    (readSrcs .c [1, 2] (atWord .c s1)).2.owed .c [256] = false := by unfold Readable; decide +kernel
/-- BitAndFieldWordsComplete, at the last bit and over all of the word. -/
theorem wit_fields : (let f := rr 3 2 1 0x41F; f.f.toNat % 32 + (f.f.toNat / 32 % 32 + 1) ≤ 32 ∧ dstOk .c f.d = true) ∧
    (let f := rr 3 2 1 0x3E0; f.f.toNat % 32 + (f.f.toNat / 32 % 32 + 1) ≤ 32) ∧ (rr 3 2 1 0 7).c.toNat < 8 ∧
    Readable .c [2, 1] (atWord .c s1) := by unfold Readable; decide +kernel
/-- CompareWordsComplete, with the last condition and the last guard. -/
theorem wit_compare : (rr 7 1 2 10).d.toNat < 8 ∧ (rr 7 1 2 10).f.toNat % 16 ≤ 10 ∧ (ri 7 1 5 10).f5.toNat % 16 ≤ 10 ∧
    Readable .c [1, 2] (atWord .c s1) ∧ Readable .m [1, 2] (atWord .m s1) ∧ Readable .e [1, 2] (atWord .e s1) := by
  unfold Readable; decide +kernel
/-- FlowWordsComplete: JMP, CALL at 15 return addresses, RET with one. -/
theorem wit_calls : (rr 0 1 0).f.getLsbD 0 = false ∧ (rr 0 1 0 1).f.getLsbD 0 = true ∧ Readable .c [1] (atWord .c s1) ∧
    ((readSrcs .c [1] (atWord .c (on fun x => { x with ret := List.replicate 15 3 }))).2.cc.ret.length < 16) ∧
    (br 0 (-2)).bk = 0 ∧ (br 0 (-2)).z = 0 ∧ (atWord .c (on fun x => { x with ret := [5] })).cc.ret = [5] ∧
    s1.cur.bundle = false ∧ s1.ccl.redir = none := by unfold Readable; decide +kernel
/-- The state in which cluster cl acts. -/
def actor (cl : Cluster) : State := { s1 with cur := { s1.cur with cl := cl } }
/-- FlowWordsComplete: BR in C by a value, in V by a mask. -/
theorem wit_branches : (actor .e).cur.cl ≠ .v ∧ (br 6 3 1).bk ≠ 0 ∧ (br 6 3 1).bk.toNat ≤ 6 ∧
    Readable .e [1] (atWord .e (actor .e)) ∧ (actor .v).cur.cl = .v ∧ (br 2 3 7).a.toNat < 8 ∧
    RegsReadable .v [128 + 7] (atWord .v (actor .v)) := by unfold Readable RegsReadable; decide +kernel
/-- FlowWordsComplete: LOOP in C with 3 entries, the innermost of a larger body; in V. -/
theorem wit_loops :
    (let s := on fun x => { x with c := { x.c with loops := List.replicate 3 { start := 0, stop := 9, count := 2, depth := 0 } } }
     let f := br 0 2 1
     let v := (readSrcs .c [1] (atWord .c s)).2
     2 ≤ f.disp.toInt ∧ Readable .c [f.a] (atWord .c s) ∧ v.ccl.loops.length < 4 ∧
       v.ccl.loops.head? = some { start := 0, stop := 9, count := 2, depth := 0 } ∧ v.loopDepth = 0 ∧
       v.ccl.pc + f.disp.truncate 19 < 9) ∧
    VReadable [] [(.int, 2)] (atWord .v (actor .v)) := by unfold Readable VReadable; decide +kernel
/-- SemaphoreWordsSend. -/
theorem wit_sem_send : dstOk .c (ri 0x7F 1 255).d = true ∧ (ri 7 1 255).d.toNat < 8 ∧ (ri 0 0 255 16).f5.toNat / 4 ≤ 4 ∧
    Readable .c [1] (atWord .c s1) := by unfold Readable; decide +kernel
/-- The state in which a word of cluster cl waits with an answer. -/
def answered (cl : Cluster) (r : Req) (a : Ans) : State :=
  s1.modCore 0 0 fun x => x.modClu cl fun y => { y with req := some r, ans := some a }
/-- SemaphoreWordsComplete: an answer of the file; the walker with and without an iteration. -/
theorem wit_sem_done : Answered .c { due := 320, val := 4 } (answered .c (.sem 255) { due := 320, val := 4 }) ∧
    ((answered .c (.sem 255) { due := 320, val := 4 }).cc.clu .c).req = some (.sem 255) ∧
    Answered .c { due := 320, ok := true } (answered .c .walker { due := 320, ok := true }) ∧
    Answered .c { due := 320, ok := false } (answered .c .walker { due := 320, ok := false }) ∧
    (ri 7 0 15).d ≠ 0 ∧ (ri 7 0 15).d.toNat ≤ 7 := by unfold Answered; decide +kernel
/-- EndingAndTrapWordsComplete: SAFEPT of the one map of a task; ERET in a handler that has saved and restored. -/
theorem wit_ends :
    (let x := { task1 with img := { task1.img with sects := [{ ty := 5, cls := 0, size := 32, mpa := 0 }] } }
     let s := { onTile (fun x => { x with slot := some 0, taskid := 7 }) with hub := { tasks := [x] } }
     (ri 0 0 0).imm.toNat < (atWord .c s).liveMaps s.cur.tile ∧ hS.sync = true ∧ (atWord .c s).cc.trap = false) ∧
    (let s := on fun x => { x with trap := true, msaved := true, mrested := true }
     (atWord .c s).cc.trap = true ∧ (atWord .c s).cc.msaved = true ∧ (atWord .c s).cc.mrested = true ∧
       (atWord .c s).cc.hxq = []) := by decide +kernel
/-- SpecialRegisterWordsComplete: a register read, a counter's high half, one written. -/
theorem wit_special : (srValue (atWord .c s1) 0x005).isSome = true ∧ (atWord .c s1).flagsWait 0x005 = false ∧
    (srValue (atWord .c s1) 0x015).isSome = true ∧ srWritable 0x015 = true ∧ (atWord .c s1).flagsWait 0x015 = false ∧
    Readable .c [1] (atWord .c s1) ∧ s1.cc.fpend = [] := by unfold Readable; decide +kernel
/-- SpecialRegisterWordsComplete: CLKDIV keeps one divisor and sets the other to the largest. -/
theorem wit_clkdiv : hS.sync = true ∧ divOk 0 = true ∧ divOk 16 = true ∧ ((ri 0 0 0x1000).imm.toNat % 32 = 0) ∧
    divOk ((ri 0 0 0x1000).imm.toNat / 256 % 32) = true := by decide +kernel
/-- CommonWordsComplete: XPUT from M and from V into a queue of 7. -/
theorem wit_xput :
    (let s := { on (fun x => { x with ec := { x.ec with xq := List.replicate 7 (0, 0) } }) with cur := (actor .m).cur }
     s.cur.cl ≠ .v ∧ Issues .m h0 s ∧ (rr 3 2 0).d.toNat < 4 ∧ Readable .m [2] (atWord .m s) ∧
       ((readSrcs .m [2] (atWord .m s)).2.cc.clu (Cluster.ofCode 3)).xq.length < 8) ∧
    (let s := actor .v
     VReadable [] [(.int, 2)] (atWord .v s) ∧
       ((readVSrcs [(.int, 2)] (atWord .v s)).2.cc.clu (Cluster.ofCode 0)).xq.length < 8) := by
  unfold Issues MFree Readable VReadable; decide +kernel
/-- CommonWordsComplete and GopLooksUp: codes at the bound, and one beyond it. -/
theorem wit_gop : Issues .c h0 s1 ∧ s1.cur.cl = .c ∧ (rr 7 7 7).d.toNat < 8 ∧ (rr 7 7 7).a.toNat < 8 ∧ (rr 7 7 7).b.toNat < 8 ∧
    8 ≤ (rr 8 0 0).d.toNat := by unfold Issues MFree; decide +kernel
/-- RdcntIsRdsr: counter 15, its high half, and the RDSR word of the same number. -/
theorem wit_rdcnt : Issues .c h0 s1 ∧ dstOk .c 3 = true ∧ Readable .c [0x7F] (atWord .c s1) ∧
    arg (readSrcs .c [0x7F] (atWord .c s1)).1 0 = 15 ∧ (ri 3 0 0x12F).imm.toNat % 0x1000 = 0x110 + 2 * 15 + 1 := by
  unfold Issues MFree Readable; decide +kernel
/-- VectorResultIsPlaced: the last register, and sq of a core with a store that waits for an entry, and of one with none. -/
theorem wit_vput : vdstOk 0x1F = true ∧ vdstOk 0x44 = true ∧
    (let s := on fun x => { x with pend := [{ homeStore none with data := none, sq := true }] }
     (s.cc.pend.all fun p => p.data.isSome || p.sq) = true ∧
       s.cc.pend = [] ++ { homeStore none with data := none, sq := true } :: []) ∧
    (on fun x => { x with pend := [homeStore none] }).cc.pend.all (fun p => p.data.isSome) = true := by decide +kernel
/-- The lane-wise words of one, two and three sources, under k0 and k7, at their start intervals. -/
theorem wit_lanes :
    (let f := rr 5 1 2 0x700000 0x78
     vdstOk f.d = true ∧ VReadable [vKm f] [(.fp32, f.a), (.fp32, f.b), (.fp32, f.c)] (atWord .v s1) ∧
       VReadable [vKm f] [(.int, f.a), (.int, f.b)] (atWord .v s1)) ∧
    (let f := rr 0x44 1 2
     VReadable [vKm f] [(.fp32, f.a)] (atWord .v s1) ∧
       PaceFree { ec := 12, group := 1, every := 4 } (readVSrcs [(.fp32, f.a)] (atWord .v s1)).2) ∧
    (let f := rr 5 1 2 0 3
     VReadable [vKm f] [(halfPos f, f.a), (halfPos f, f.b), (.fp32, f.c)] (atWord .v s1)) := by
  unfold VReadable PaceFree; decide +kernel
/-- VpermSelects, with lanes picked by a row and zeroed by bit 31. -/
theorem wit_vperm : Issues .v h0 s1 ∧ VReadable [vKm (rr 5 2 2 1)] [(.int, 2), (.int, 2)] (atWord .v s1) ∧
    (rr 5 2 2 1).f.getLsbD 0 = true ∧ vdstOk 5 = true := by unfold Issues MFree VReadable; decide +kernel
/-- VectorReductionsComplete. -/
theorem wit_reduce :
    (let f := rr 5 1 0
     vdstOk f.d = true ∧ VReadable [vKm f] [(.fp32, f.a)] (atWord .v s1) ∧ VReadable [vKm f] [(.int, f.a)] (atWord .v s1) ∧
       PaceFree { ec := 12, group := 0, every := 4 } (readVSrcs [(.fp32, f.a)] (atWord .v s1)).2 ∧
       PaceFree { ec := 6, group := 2, every := 2 } (readVSrcs [(.int, f.a)] (atWord .v s1)).2) := by
  unfold VReadable PaceFree; decide +kernel
/-- VectorMovesComplete: a lane by number and by row, the last mask, bytes by number and by row, every width. -/
theorem wit_moves : VReadable [vKm (rr 5 1 2 0x3F)] (laneSrcs (rr 5 1 2 0x3F)) (atWord .v s1) ∧
    VReadable [vKm (rr 5 1 2 0x40)] (laneSrcs (rr 5 1 2 0x40)) (atWord .v s1) ∧ idxOk (rr 5 1 2 0 7).c = true ∧
    VReadable [0, 7] [(.int, 1), (.int, 2)] (atWord .v s1) ∧ VReadable [0, 7] [(.int, 1)] (atWord .v s1) ∧
    VReadable [0] [(.int, 1), (.int, 2), (.int, 3)] (atWord .v s1) ∧ (rr 5 1 2 6).f.toNat % 4 < 3 ∧
    PaceFree { ec := 2 } (atWord .v s1) ∧ (rr 3 1 2).d.toNat < 4 ∧
    ((readVSrcs (laneSrcs (rr 3 1 2)) (atWord .v s1)).2.cc.clu (Cluster.ofCode 3)).xq.length < 8 := by
  unfold VReadable PaceFree; decide +kernel
/-- MaskWordsComplete. -/
theorem wit_masks : maskDst 7 = true ∧ maskDst 0x7F = true ∧ VReadable [0] [(.fp32, 1), (.fp32, 2)] (atWord .v s1) ∧
    VReadable [0] [(.int, 1), (.int, 2)] (atWord .v s1) ∧ (rr 7 1 2 10).f.toNat % 16 ≤ 10 ∧
    (rrOps 2 (rr 7 7 7)).all idxOk = true ∧ RegsReadable .v ((rrOps 2 (rr 7 7 7)).map fun m => 128 + m.toNat) (atWord .v s1) ∧
    RegsReadable .v [128 + 7] (atWord .v s1) ∧ vdstOk 5 = true ∧ (rr 7 7 7).d.toNat < 8 ∧ (rr 7 7 7).a.toNat < 8 := by
  unfold VReadable RegsReadable; decide +kernel
/-- AccumulatorWordsComplete, with the high halves of bank 15. -/
theorem wit_acc :
    (let f := ri 5 0x60 0x1FFF 2
     vdstOk f.d = true ∧ f.f5.toNat % 4 < 3 ∧ VReadable [accKm f] [(.int, f.a)] (atWord .v s1) ∧
       PaceFree { ec := 6, group := 5, every := 2 } (readVSrcs [(.int, f.a)] (atWord .v s1)).2 ∧
       (let u := pacedState { ec := 6, group := 5, every := 2 } (readVSrcs [(.int, f.a)] (atWord .v s1)).2
        u.badAccRow u.cur.tile u.cur.core (f.imm.toNat % 16) 63 (u.accLanes f) = none)) ∧
    (let f := ri 0x1F 0x60 0x1FFF 2
     accSrcOk f.d = true ∧ VReadable [accKm f] [(.int, f.a), (.int, f.d)] (atWord .v s1) ∧
       PaceFree { ec := 2, group := 6, every := 2 } (readVSrcs [(.int, f.a), (.int, f.d)] (atWord .v s1)).2 ∧
       (let v := pacedState { ec := 2, group := 6, every := 2 } (readVSrcs [(.int, f.a), (.int, f.d)] (atWord .v s1)).2
        v.badAccRow v.cur.tile v.cur.core (f.imm.toNat % 16) 63 (v.accLanes f) = none)) := by
  unfold VReadable PaceFree; decide +kernel
/-- VectorConversionsComplete: FP32 into the last part of bytes; both modes of the MX words; both of VSGN1. -/
theorem wit_conversions :
    (let f := rr 5 1 0 (BitVec.ofNat 23 (8 + 32 * 0xB + 4096 * 3))
     (cvtWidth (fnBits f % 32) != 0 && cvtWidth (fnBits f / 32 % 32) != 0 &&
        decide (fnBits f / 1024 % 4 * cvtWidth (fnBits f % 32) < 32) &&
        decide (fnBits f / 4096 % 4 * cvtWidth (fnBits f / 32 % 32) < 32)) = true ∧
       VReadable [vKm f] [((if fnBits f % 32 = 8 then .fp32 else .int), f.a)] (atWord .v s1)) ∧
    (let f := rr 5 1 0 (BitVec.ofNat 23 (2 + 4 * 84)) 2
     (mxCode f != 3 && (if f.f.getLsbD 1 then decide (mxPos f ≤ 84) else mxPosOk f)) = true ∧
       VReadable [] [(.fp32, f.a), (.int, f.c)] (atWord .v s1) ∧
       PaceFree { ec := 8, group := 3, every := 2 } (readVSrcs [(.fp32, f.a), (.int, f.c)] (atWord .v s1)).2) ∧
    (let f := rr 5 1 0 (BitVec.ofNat 23 (4 * 3)) 2
     (mxCode f != 3 && (if f.f.getLsbD 1 then decide (mxPos f ≤ 84) else mxPosOk f)) = true) ∧
    (let f := rr 5 1 2 (BitVec.ofNat 23 (4 * 3 + 1024 * 84)) 2
     (mxCode f != 3 && decide (fnBits f / 1024 % 128 ≤ 84) && (f.f.getLsbD 1 || mxPosOk f)) = true ∧
       VReadable [vKm f] [(.int, f.a), (.int, f.b), (.int, f.c)] (atWord .v s1)) ∧
    (VReadable [] [(.fp32, 1), (.fp32, 2)] (atWord .v s1) ∧
      PaceFree { ec := 14, group := 4, every := 4 } (readVSrcs [(.fp32, 1), (.fp32, 2)] (atWord .v s1)).2) := by
  unfold VReadable PaceFree; decide +kernel

/-- AddressWordsComplete: the last pair. -/
theorem wit_address : dstOk .m 0x3F = true ∧ Readable .m [1, 2] (atWord .m s1) ∧ (atWord .m s1).owed .m [0x3F] = false ∧
    (pairOk 0x3E && pairOk 0) = true ∧ RegsReadable .m [0x3E, 0x3F] (atWord .m s1) ∧
    RegsReadable .m [0, 1] (atWord .m s1) := by unfold Readable RegsReadable; decide +kernel
/-- LoadsComplete: a row and a word of the scratchpad at a0:a1, and the answers of the fabric. -/
theorem wit_loads : MFree s1 ∧ loadOrd (mf 0x44 1) = true ∧ RegsReadable .m (baseRegs (mf 0x44 1)) (atWord .m s1) ∧
    LoadsFrom 256 (((atWord .m s1).ea (mf 0x44 1 0xFF)).toNat / 256 * 256) 0x800000000100 (atWord .m s1) ∧
    LoadsFrom 4 (((atWord .m s1).ea (mf 3 0 0xFF)).toNat / 4 * 4) 0x8000000001FC (atWord .m s1) ∧
    RegsReadable .m (baseRegs (mf 3 0)) (atWord .m s1) ∧ (atWord .m s1).owed .m (dstRegs (mf 3 0)) = false ∧
    (atWord .m (on fun x => { x with lq := List.replicate 15 none })).cc.lq.length < 16 ∧
    Answered .m { due := 320, row := 5 } (answered .m (.reply 3 0x800100) { due := 320, row := 5 }) := by
  unfold MFree LoadsFrom Answered RegsReadable; decide +kernel
/-- Tile 0 with a window of tile 1 in the task's own space, over a circuit that is LIVE. -/
def winSt : State :=
  { onTile (fun x => { x with
      slot := some 0, taskid := 7
      circs := x.circs.set 3 { state := .live, ends := [⟨0, 1, 0⟩], pathed := true, slot := some 0 }
      wins := x.wins.set 1 { v := true, lbase := 4, ttile := 1, size := 1, handle := 3, allow := 2 }
      cores := x.cores.set 0 { core1 with a := (core1.a.set 2 0x8001FF).set 3 0, sq := [(0, 5)] } }) with
    hub := { tasks := [task1] } }
/-- StoresComplete: a row and a word at home, from sq and from a register, and a row through a window, at its last row. -/
theorem wit_stores : storeOrd (mf 0x44 1) = true ∧ storeOrd (mf 2 0 0 0 2) = true ∧
    (atWord .m s1).access 0 0 (((atWord .m s1).ea (mf 0x44 1)).toNat / 256 * 256) false true = .loc 0x800000000100 ∧
    (atWord .m s1).ct.behindMark 0x800000000100 = false ∧ Readable .m [2] (atWord .m s1) ∧
    (atWord .m s1).badPart 0x800000000100 4 = none ∧ (atWord .m s1).cc.pend.length < 16 ∧
    RegsReadable .m (baseRegs (mf 0x44 1)) (atWord .m s1) ∧ SqGood (atWord .m s1) ∧ SqGood (atWord .m winSt) ∧
    (atWord .m winSt).access 0 0 0x800100 false true = .win 1 0x100 ∧ MFree winSt := by
  unfold Readable MFree RegsReadable SqGood; decide +kernel
/-- StoreWritesItsBytes: a word and a row at home; a remote store; one whose data are not there. -/
theorem wit_store_bytes : Memory.wf s1.mem = true ∧ s1.cc.vc.last < unknown ∧ s1.cc.pend = [] ∧ (homeStore (some 0)).remote = false ∧ (homeStore none).data.isSome = true ∧
    (homeStore none).ready ≤ s1.now ∧ (homeStore none).rel = false ∧ s1.ct.amoAtPort s1.cur.core = false ∧ s1.place 0x8000000001FF = .onDie 0 0 0 0x1FF ∧
    ({ homeStore none with win := some 1 } : PendStore).remote = true ∧
    ({ homeStore none with data := none } : PendStore).data = none := by
  decide +kernel
/-- StoresComplete: a window that takes the row. -/
theorem wit_window : (winCheck (atWord .m winSt) 0 1 0x100 (BitVec.ofNat 60 0x800100) false false true
    ((atWord .m winSt).mNow · ·)).toOption = some 0x100 := by decide +kernel
/-- AtomicsComplete: AMOADD and AMOCAS of the scratchpad; the port with one request of another core. -/
theorem wit_atomics : (mf 3 0 0 2).sz = 0 ∧ (mf 3 0 0 2 1).ord.toNat < 2 ∧ Readable .m [2] (atWord .m s1) ∧
    RegsReadable .m (baseRegs (mf 3 0 0 2) ++ [3]) (atWord .m s1) ∧ (atWord .m s1).owed .m (dstRegs (mf 3 0 0 2)) = false ∧
    (atWord .m s1).cc.amoWaits = false ∧
    (amoPlace 0x1F (((atWord .m s1).ea (mf 3 0 0 2)).toNat / 4 * 4) (atWord .m s1)).toOption = some (.loc 0x800000000100) ∧
    pendBlocks (atWord .m s1).cc none 0 0x800000000100 = false ∧
    (let q : PortReq := ⟨15, 0x800000000100, ⟨0x18, 1, 0, some 3, 1, false⟩⟩
     Memory.wf (onTile fun x => { x with portq := [q] }).mem = true ∧
       (onTile fun x => { x with portq := [q] }).cc.vc.last < unknown ∧ (onTile fun x => { x with portq := [q] }).ct.portq = [q] ∧ q.amo.d = some 3 ∧ s1.cc.pend = [] ∧
       s1.place 0x800000000103 = .onDie 0 0 0 0x103 ∧ s1.place 0x800000000104 = .onDie 0 0 0 0x104) ∧
    Answered .m { due := 320, val := 4 } (answered .m (.reply 3 0x800100) { due := 320, val := 4 }) ∧
    Waits .m (.reply 3 0x800100) (answered .m (.reply 3 0x800100) { due := 320, val := 4 }) := by
  unfold Readable RegsReadable Answered Waits; decide +kernel
/-- What a fence of classes c and scope sc that issues now asks. -/
def fenced (s : State) (c sc : Nat) : Bool := fenceDone s (s.cc.knows s.ct.jobCtr .m) s.ct.atPort c sc
/-- FencesComplete: nothing earlier; an earlier store of the core; a watermark behind and done. -/
theorem wit_fences : fenced (atWord .m s1) 0 0 = true ∧ fenced (atWord .m winSt) 4 3 = true ∧
    fenced (atWord .m (on fun x => { x with pend := [homeStore none], mcount := 1 })) 0 0 = false ∧
    (let s := answered .m (.fence []) { due := 320 }
     Waits .m (.fence []) s ∧ fenceDone (onWord .m s) (onWord .m s).ccl.since [] 0 0 = true) ∧
    (mf 0 0 0 8).x.getLsbD 3 = true ∧ markDone (atWord .m s1) (mf 0 0 0 8) 0 = true ∧ (mf 0 0).x.getLsbD 3 = false ∧
    (let s := onTile fun x => { x with chans := x.chans.set 7 { wm := some (0x800000000100, 0x800000000200, 0x800000000000) } }
     (atWord .m s).access 0 0 0x100 true false = .loc 0x800000000100 ∧
       (atWord .m s).ct.behindMark 0x800000000100 = true) ∧ (atWord .m s1).ct.behindMark 0x800000000100 = false := by
  unfold Waits; decide +kernel
/-- WindowWordsComplete: four words of zeros clear window 63, two an inbound entry 31; RGNSET of region 7. -/
theorem wit_windows : MFree s1 ∧ winBad (List.replicate 4 0) = false ∧ inbBad (List.replicate 2 0) = false ∧
    ((atWord .m s1).ct.wins.get 63 {}).v = false ∧ (mf 0 0 0 0x3F).x.getLsbD 6 = false ∧ (mf 0 0 0 0x5F).x.getLsbD 5 = false ∧
    (mf 3 0 7 0x3F).off.toNat < 8 ∧ (mf 3 0 3 0x5F).off.toNat < 4 ∧
    (let s := on fun x => { x with a := (x.a.set 4 0).set 5 0x80000040 }
     pairOk 4 = true ∧ RegsReadable .m [4, 5] (atWord .m s) ∧ rgnBad ((atWord .m s).cc.pair 4) = true) ∧
    (let s := on fun x => { x with a := (x.a.set 4 0x00400000).set 5 0x80004000 }
     rgnBad ((atWord .m s).cc.pair 4) = false) := by
  unfold MFree RegsReadable; decide +kernel

/-- EngineRegisterWordsComplete, with a circuit that is LIVE, one that is not, and a word that waits for it. -/
theorem wit_engine : dstOk .e 0x1F = true ∧ Readable .e [1, 0x7F] (atWord .e s1) ∧ (rr 7 1 2 10).f.toNat % 16 ≤ 10 ∧
    (winSt.circ 0 ((rr 0 0 0 3).f.toNat % 64)).state = .live ∧ (winSt.circ 0 ((rr 0 0 0 63).f.toNat % 64)).state ≠ .live ∧
    Waits .e .circuit (answered .e .circuit { due := 0 }) := by unfold Readable Waits; decide +kernel
/-- A state with a record of one INT8 element at scratchpad offset 0, and shape slot 5 holding it at generation 1. -/
def shapeSt : State :=
  let s := onTile fun x => { x with shapes := x.shapes.set 5 { recd := BitVec.ofNat 512 (2 ^ 495 + 2 ^ 64), gen := 1 } }
  ((s.writeByte 0x800000000008 1).writeByte 0x80000000003D 0x80).modCore 0 0 fun x =>
    { x with ec := { x.ec with req := some (.shape 0x1005 0), ans := some { due := 320 } } }
/-- TableWordsComplete: the shape words. -/
theorem wit_shapes :
    let t := onWord .e shapeSt
    Waits .e (.shape 0x1005 0) shapeSt ∧ (shapeSt.cc.clu .e).ans = some { due := 320 } ∧
      padReady t t.ccl.since.m 0 = true ∧ t.badIn (slotMpa 0 (hSlot 0x1005)) 64 = none ∧ (padBytes t 0 64).toOption.any (fun v => recValid (BitVec.ofNat 512 v)) = true ∧
      t.ct.stale 0x1005 = false ∧
      (shapeField (t.ct.shapes.get 5 {}).recd 20 0).any (fun r => fmtOk r && stridesOk r) = true := by unfold Waits; decide +kernel
/-- TableWordsComplete: the three forms of CTSET read zeros; a group with no message out. -/
theorem wit_tables : Readable .e [1, 0x60] (atWord .e s1) ∧
    (∀ n ∈ [0, 1, 2],
      let r := readSrcs .e [1, 0x60] (atWord .e s1)
      let t := askTable (some (ctOff n (arg r.1 1))) r.2
      tableBusy (some (ctOff n (arg r.1 1))) r.2 = false ∧
        ctReady n (t.cc.knows t.ct.jobCtr .e).m (arg r.1 0) (arg r.1 1) t = true ∧ (padBytes t (ctOff n (arg r.1 1)) 32).toOption = some 0) ∧
    (padBytes s1 0 16).toOption = some 0 ∧ (padBytes s1 0 4).toOption = some 0 ∧ (padBytes s1 0 32).toOption = some 0 ∧
    (rjobOf 0).isSome = true ∧ (tslotOf 0).isSome = true ∧ (centryOf 0).isSome = true ∧ groupBad 0x80FF003F = false ∧
    s1.groupOut 0 255 = 0 := by unfold Readable; decide +kernel
/-- JobWordsComplete: the matrix words, in and out of a handler, at the last place of the queue; the words of the channels. -/
theorem wit_jobs :
    (let f := eng 0x7E0 1
     (!f.md.getLsbD 0 && fmtcN f != 7) = true ∧ Readable .e [f.a] (atWord .e s1)) ∧
    drainOk (eng 0x480 1 0x61 2) = true ∧ 0x60 ≤ (eng 0x480 1 0x61 2).b.toNat ∧
    (let j : Job := { id := 0, op := .mma, f := eng, a := 0, b := 0, c := 0, pc := 0 }
     let s := on fun x => { x with mxq := List.replicate 15 j, sendq := List.replicate 7 j, trap := true }
     (readSrcs .e [1] (atWord .e s)).2.cc.mxq.length < 16 ∧ (readSrcs .e [1] (atWord .e s)).2.cc.sendq.length < 8 ∧
       s.cc.trap = true ∧ s.cc.msaved = false ∧ (readSrcs .e [1] (atWord .e s)).2.cc.hxq.length < 16) ∧
    ((eng 4).md.extractLsb' 1 2).toNat ≤ 2 ∧ (ri 0 0 0 9).f5.toNat ≤ 9 ∧ s1.cc.trap = false := by
  unfold Readable; decide +kernel

/-- Slot 0 holds a task on tiles 0 to 3 whose rig program has a leaf word; the circuit of handle 3 of tile 0 is LIVE. -/
def rigSt : State :=
  { winSt with
    hub := { winSt.hub with tasks := [{ task1 with rig := { words := [0, 0x80012000], holdTo := 3 } }] } }
/-- Its task. -/
def rigTask : Task := { task1 with rig := { words := [0, 0x80012000], holdTo := 3 } }
/-- RigWordsComplete: the simple words and the events. -/
theorem wit_rig : rigSt.slotTask rigSt.cur.slot = some rigTask ∧ (rw 0 0).hd = 0 ∧ rbits (rw 0 0xFFFFFFFF) 32 20 = 0 ∧
    rbits (rw 0 0xFFFFFFFF) 0 32 ≠ 0 ∧ rbits (rw 0 0xC000000000000) 32 18 = 0 ∧ rbits (rw 0 0xC00000001FFFF) 16 16 ≠ 0 ∧
    (rigSt.bound rigTask 3).isSome = true ∧ rbits (rw 0 0) 32 7 = 0 ∧
    eventPasses rigSt rigTask false 63 0 3 = true ∧ eventPasses rigSt rigTask true 63 1 3 = false ∧
    rigSt.bound rigTask 0 = some 0 ∧ (rigSt.circ 0 3).state = .live ∧ (rw 0 0).body.extractLsb' 44 2 = 0 ∧
    (rw 0 0x30000).body.getLsbD 17 = true ∧ rbits (rw 0 0x20000) 0 17 = 0 ∧ rigTask.rig.waitXport = none := by decide +kernel
/-- RigWordsComplete: a RIG that no rule refuses, one of a handle in use, and a RIGM of one leaf. -/
theorem wit_rigs :
    (let r := rw 5 0x280013000000
     let e := rigEnd rigSt rigTask (r.body.extractLsb' 33 10) (rbits r 28 5) (rbits r 24 4)
     e = some ⟨0, 1, 3⟩ ∧ rbits r 0 16 = 0 ∧ rbits r 16 4 = 0 ∧ rbits r 21 2 ≠ 3 ∧
       (rigCheck rigSt rigTask ⟨1, 0, 0, 5, 5, [⟨0, 1, 3⟩], false, false, 0, false, 1⟩).toOption.isSome = true ∧
       (rigCheck rigSt rigTask ⟨1, 0, 0, 3, 5, [⟨0, 1, 3⟩], false, false, 0, false, 1⟩).toOption = none) ∧
    (let r := rw 5 0x280000000000
     let ls := rigLeaves rigTask 1
     rbits r 39 4 + 1 = 1 ∧ rbits r 0 16 = 0 ∧ rbits r 24 15 = 0 ∧ rbits r 16 5 = 0 ∧ rbits r 21 2 ≠ 3 ∧
       rigPad rigTask 1 = true ∧ (ls.all fun w => w.getLsbD 31 && w.extractLsb' 0 12 == 0) = true ∧
       (rigEnd rigSt rigTask 0 1 2) = some ⟨0, 1, 2⟩ ∧
       (rigCheck rigSt rigTask ⟨2, 0, 0, 5, 5, [⟨0, 1, 2⟩], false, false, 0, true, 2⟩).toOption.isSome = true) ∧
    rbits (rw 3 0) 0 47 = 0 := by decide +kernel

/-- Tile 0 with a circuit on handle 3, which an event concerns. -/
def circSt (c : Circ) : State :=
  { winSt with
    tiles := winSt.tiles.set 0 { winSt.tile 0 with circs := ({} : Tbl Circ).set 3 c }
    cur := { winSt.cur with ix := 3 } }
/-- A point-to-point circuit to port 0 of tile 1 that has a path and is LIVE. -/
def liveC : Circ := { state := .live, slot := some 0, ends := [⟨0, 1, 0⟩], pathed := true }
/-- A row store not yet sent. -/
def sent1 : Sent := { msg := msg 0 0x100 [5], ty := .row, core := 0, clus := 2 }
/-- CircuitStepsComplete: every state its clauses ask for; what the far half's light does is open (log 6). -/
theorem wit_circuits :
    (let s := circSt { liveC with failed := true }
     (hc s).failed = true ∧ s.paused 0 (hc s) = false) ∧
    (let c := { liveC with state := .derigging }
     (hc (circSt c)).state = .derigging ∧ (hc (circSt c)).drained = true) ∧
    (let s := circSt { liveC with state := .settling, settleAt := 320 }
     (hc s).pathed = true ∧ (hc s).failed = false ∧ (hc s).settleAt ≤ s.now ∧ (hc s).state = .settling ∧ (hc s).rerr = false ∧
       s.paused 0 (hc s) = false ∧ (hc s).ext = false) ∧
    (let s := circSt { liveC with state := .rigging, pathed := false }
     s.handles.filter (fun q => (s.circ q.1 q.2.val).waits) = [(0, 3)]) ∧
    (let s := { circSt { liveC with state := .rigging, pathed := false, rigAt := 320 } with now := 32320 }
     (hc s).waits = true ∧ s.paused 0 (hc s) = false ∧ (hc s).rigAt + 32000 ≤ s.now) := by decide +kernel
/-- FabricFailuresComplete. -/
theorem wit_fabric :
    (let s := { circSt liveC with hub := { winSt.hub with fibs := winSt.hub.fibs.set 3 { state := .fopen } } }
     (s.fib (s.cur.ix % 64)).state = .fopen) ∧
    (let s := { circSt { liveC with ext := true, ends := [⟨5, 1, 0⟩] } with now := 32000 }
     (hc s).ext = true ∧ (hc s).rerr = false ∧ (hc s).state = .live ∧ s.paused 0 (hc s) = false ∧
       (hc s).lastCtl + 32000 ≤ s.now) ∧
    4 ≤ (((s1.tile 0).port 0).loseLine 7 true).count true ∧
    ((s1.str 0).lamp < 8 ∧ (s1.modHub fun h => { h with phys := { h.phys with lamps := [0] } }).spareLamp = some 8 ∧
      (s1.modHub fun h => { h with phys := { h.phys with lamps := [0, 8, 9] } }).spareLamp = none) ∧
    (let s := { s1 with strs := s1.strs.set 7 { pausedAt := some 5 } }
     (s.str 7).pausedAt = some 5) := by decide +kernel
/-- Tile 1 in turn: the home of tile 0's circuit, which gives it leave to all of its memory. -/
def homeSt (y : Home) : State :=
  let s := circSt liveC
  { s with
    cur := { s.cur with tile := 1 }
    tiles := s.tiles.set 1 { s.tile 1 with
      slot := some 0, ltile := 1, taskid := 7, homes := [y]
      circs := (s.tile 1).circs.set 5 { state := .live, slot := some 0, ends := [⟨0, 0, 0⟩], pathed := true }
      inbs := (s.tile 1).inbs.set 0 { v := true, wr := true, rd := true, mbase := 0x8000, size := 1 } } }
/-- A source: tile 0 of this module, handle 3. -/
def src0 : Source := ⟨0, 0, 3, none⟩
/-- Its home, waiting for SEQ 0. -/
def home0 : Home := { src := src0 }
/-- ArrivalsComplete: a malformed message, one out of order, one expected. -/
theorem wit_arrivals : (homeSt home0).ct.home? src0 = some home0 ∧ msgFault .row (msg 1 0 [5]) = 0 ∧
    (msg 1 0 [5]).seq ≠ home0.rcv ∧ msgFault .row { msg 0 0 [5] with spoilt := true } = 0 ∧
    msgFault .row { msg 0 0 [5] with void := true } = 0 ∧ msgFault .row { msg 0 0 [5] with errs := [(1, none)] } ≠ 0 ∧
    msgFault .row (msg 0 0x1000000000 [5]) = 0 ∧ (msg 0 0x1000000000 [5]).op.toNat < 4 ∧
    ((homeSt home0).ct.home? src0 = some home0 ∧ (msg 0 0x1000000000 [5]).seq = home0.rcv) := by decide +kernel
/-- ArrivalsComplete: the last row of the entry, the one after it, and a read whose reply has its way back. -/
theorem wit_refusals :
    (let u := taken src0 4 (homeSt home0)
     refusal u 1 0 0 none 0x10001FFF00 256 true false = 0 ∧ refusal u 1 0 0 none 0x1000200000 256 true false ≠ 0 ∧
       refusal u 1 0 0 none 0x1000000000 256 false true = 0 ∧ replyCheck u 1 src0 5 = 0 ∧ u.streamOf 1 src0 = none) ∧
    (let s := (homeSt home0).modTile 1 fun x => { x with asks := [(3, 0, 0, 9)] }
     ((taken src0 1 s).tile 1).asks.find? (fun a => a.2.1 == src0.md && a.2.2.1 == BitVec.ofNat 5 src0.tile.val && a.2.2.2 == 9) =
       some (3, 0, 0, 9)) := by decide +kernel
/-- GroupMessagesComplete: no group, a live group with a place for its messages, a held message of SEQ 4. -/
theorem wit_groups :
    ((homeSt home0).ct.groups.get 9 {}).v = false ∧
    (let s := (homeSt home0).modTile 1 fun x => { x with
       groups := x.groups.set 9 { v := true, gen := 2 }
       inbs := x.inbs.set 31 { v := true, grp := true, wr := true, gid := 9, mbase := 0x8000, size := 1 } }
     let m : Msg := { msg 0 0x100 [5] with tag := 9, gen := 2 }
     let u := taken src0 4 s
     ((u.tile 1).groups.get m.tag.toNat {}).v = true ∧ ((u.tile 1).groups.get m.tag.toNat {}).gen = m.gen ∧
       castMpa u 1 m = some 0x1000000100 ∧ refusal u 1 0 0 (some 9) 0x1000000100 256 true false = 0 ∧
       (u.tile 1).home? src0 = some { home0 with rcv := 1 }) ∧
    (let y := { home0 with held := [msg 4 0x1000000100 [5]] }
     (homeSt y).ct.home? src0 = some y ∧ y.held = [msg 4 0x1000000100 [5]] ∧ (y.held.any fun m => m.seq == 4) = true) ∧
    (let y := { home0 with held := [msg 3 0x1000000100 [5], msg 4 0x1000000100 [6]] }
     (homeSt y).ct.home? src0 = some y ∧ (y.held.any fun m => m.seq == 4) = true ∧ (3 : Word) ≠ 4 ∧
       y.commits.contains 3 = false) := by decide +kernel
/-- Tile 1 with a live job 2 whose slot 3 belongs to tile 0. -/
def jobSt (l : List Staged) : State :=
  (homeSt home0).modTile 1 fun x => { x with
    rjobs := x.rjobs.set 2 { v := true, base := 0x1000 }, slots := x.slots.set 3 { v := true, job := 2 }, staged := l }
/-- A contribution chunk of slot 3 to it. -/
def chunk1 (cseq : Word) (round : Word) : Msg :=
  { msg 0 0x1000100000 (List.replicate 4 0) with job := 2, side := [0xC00 + cseq <<< 16, round, 0x20000, 0] }
/-- GroupMessagesComplete: each fate of a contribution; the application of the one chunk that may be applied. -/
theorem wit_fates :
    fateOf (taken src0 16 (jobSt [])) 1 (stagedOf src0 (chunk1 0 0)) = .accepted ∧
      fateOf (taken src0 16 (jobSt [])) 1 (stagedOf src0 (chunk1 0 1)) = .held ∧
      fateOf (taken src0 16 (jobSt [])) 1 (stagedOf src0 (chunk1 0 0xFFFFFFFF)) = .discarded ∧
      (∃ n, fateOf (taken src0 16 (jobSt [])) 1 (stagedOf src0 { chunk1 0 0 with job := 5 }) = .refused n) := by
  refine ⟨by decide +kernel, by decide +kernel, by decide +kernel, 1, by decide +kernel⟩
/-- GroupMessagesComplete: the one chunk in staging, applied with its round still open. -/
theorem wit_apply :
    let c := { stagedOf src0 (chunk1 0 0) with accepted := true, nchunk := 2, rows := [0] }
    let s := (jobSt [c]).modTile 1 fun x => { x with slots := x.slots.set 3 { v := true, job := 2, nextc := 1, nchunk := 2 } }
    s.cur.ix ≠ 1 ∧ s.ct.staged = [c] ∧ nextApply s.ct = some c ∧
      (let u := chunkDone 1 c (applyChunk 1 c (s.modTile 1 fun x => { x with unitDone := some (s.now / 2) }))
       nextApply (u.tile 1) = none ∧ roundDone (u.tile 1) c.job = false) ∧ nextApply (jobSt []).ct = none := by decide +kernel
/-- ControlFlitsComplete: the slots of a home, point to point and of a leaf; the circuit that hears them. -/
theorem wit_control :
    (let y := { home0 with dirty := true, liveAt := 320 }
     (homeSt y).ct.home? src0 = some y ∧ (homeSt y).hears 1 src0 = true ∧ ((homeSt y).now - y.liveAt) % 960 = 0 ∧
       ((homeSt y).now - y.liveAt) % 240 = 15 * (srcLeaf src0).val ∧ src0.leaf = none) ∧
    (hc (circSt liveC)).hears = true := by decide +kernel
/-- ControlFlitsComplete: the timer of a circuit, for a message resent twice and for one resent three times. -/
theorem wit_resend :
    let o := { sent1 with sampled := true }
    let s := { circSt { liveC with sent := [{ o with resent := 2 }], seq := 1 } with now := 64000 }
    let v := { circSt { liveC with sent := [{ o with resent := 3 }], seq := 1 } with now := 64000 }
    (hc s).sent.filter (hc s).unreceived = [{ o with resent := 2 }] ∧ s.carries 0 (hc s) = true ∧
      (hc s).timer + 64000 ≤ s.now ∧ (hc v).sent.filter (hc v).unreceived = [{ o with resent := 3 }] ∧
      (hc v).ackLost = false := by decide +kernel
/-- ControlFlitsComplete: a message that the unit may take. -/
theorem wit_send :
    let s := circSt { liveC with waiting := [sent1] }
    (hc s).waiting = [sent1] ∧ sent1.sampled = false ∧ sent1.win = none ∧ sent1.group = none ∧ sent1.job = none ∧
      sent1.ty ≠ .reply ∧ sent1.msg.op = 0 ∧ (hc s).usable = true ∧ s.carries 0 (hc s) = true ∧ (hc s).resync = 0 ∧
      (hc s).mayPass sent1 = true ∧ (hc s).lineTo < 4200 * (s.now + 1) ∧ sent1.notBefore ≤ s.now ∧ s.garbles 0 (hc s) = false := by decide +kernel

/-- A job of a matrix queue. -/
def mjob (op : JobOp) : Job := { id := 5, op := op, f := eng, a := 1, b := 0, c := 0, pc := 0 }
/-- Core 0 with one job in its matrix queue, at an engine cycle. -/
def mxSt (j : Job) : State := on fun x => { x with mxq := [j], engAt := 320 }
/-- MatrixJobsComplete: the first and the last digit cycle of the last row of an MMA, and an MZERO. -/
theorem wit_matrix :
    (let j := { mjob .mma with recA := BitVec.ofNat 512 (2 ^ 495 + 64 * 2 ^ 80), prog := 63 }
     j.finished = false ∧ j.pos = 0 ∧ operandStall (mxSt j) 0 0 j = false ∧ operandBad (mxSt j) 0 0 j = none) ∧
    (let j := { mjob .mma with recA := BitVec.ofNat 512 (2 ^ 495 + 64 * 2 ^ 80), prog := 63, pos := fmtcD 0 - 1 }
     j.finished = false ∧ j.pos ≠ 0 ∧ fmtcD (fmtcN j.f) ≤ j.pos + 1 ∧ j.prog < 64 ∧ j.buf.length ≤ 64) ∧
    ({ mjob .mzero with prog := 15 } : Job).finished = false := by decide +kernel
/-- MatrixJobsComplete: a job that may be offered, a request within the ramp and one above it, a granted job at its boundary,
one that is done, and a frozen queue. -/
theorem wit_matrix_moves :
    (let j := mjob .mbatt
     let s := mxSt j
     s.cc.held = false ∧ s.cc.mxq = [j] ∧ s.cc.hxq = [] ∧ j.stat = .queued ∧ j.f.we = false ∧ j.satisfied s.now = true ∧
       s.cc.gapMet .matrix s.now = true ∧ jobCost j ≠ 0 ∧
       ((checkOnce s 0 0 j).toOption.any fun j' => jobCost j' != 0) = true) ∧
    (let j := { mjob .mbatt with stat := .offered }
     let s := mxSt j
     s.cur.ix ≠ 1 ∧ s.now / 8 ≤ 40 ∧ s.ct.lim.charges = [] ∧ s.ct.lim.gbatt = [] ∧ s.ct.lim.blocked = false ∧
       wants s.ct = [(0, .matrix, j)] ∧ jobCost j ≤ Config.rampTab 0) ∧
    (let j := { mjob .mbatt with stat := .granted, start := 320 }
     let s := mxSt j
     s.cc.engFrom ≤ s.now ∧ s.now % (4 * s.cc.meff) = 0 ∧ s.cc.engAt = s.now ∧ j.stat = .granted ∧
       firingWaits s 0 j = false ∧ j.start ≤ s.now ∧ s.cc.gapMet .matrix s.now = true) ∧
    ({ mjob .mzero with prog := 16 } : Job).finished = true ∧
    (on fun x => { x with trap := true }).cc.trap = true := by decide +kernel
/-- MatrixJobsComplete: a request that the ramp does not take yet; a stopping core whose engines freeze. -/
theorem wit_ramp :
    (let j := { mjob .mbatt with stat := .offered }
     let s := (mxSt j).modTile 0 fun x => { x with
       lim := { x.lim with step := 40, charges := List.replicate 4 { core := 1, job := 9, cost := 1, macs := [0], batt := false } } }
     s.now / 8 ≤ s.ct.lim.step ∧ (∀ c ∈ s.ct.lim.charges, c.ended = none) ∧ s.ct.lim.gtaken = [] ∧ s.ct.lim.gwant = 0 ∧
       wants s.ct = [(0, .matrix, j)] ∧ s.ct.lim.quiet = true ∧ Config.rampTab 0 < s.ct.lim.real + jobCost j) ∧
    (let s := on fun x => { x with frozenCtx := true }
     s.cc.held = true ∧ s.cc.stopped = false) := by decide +kernel
/-- A record of one row of bytes at a scratchpad address. -/
def row1 (base : Nat) : BitVec 512 := BitVec.ofNat 512 (2 ^ 495 + 256 * 2 ^ 64 + 2 ^ 192 + base)
/-- A copy of one row on channel 3. -/
def cjob : Job := { mjob .cpy with recA := row1 0x1000, recB := row1 0x2000, total := 1, begun := true }
/-- Core 0 with one job in the queue of channel 3. -/
def chSt (j : Job) (run : Option CoreId) : State :=
  let s := onTile fun x => { x with chans := x.chans.set 3 { run := run } }
  { s.modCore 0 0 fun x => x.setQueue (.chan 3) [j] with cur := { s.cur with ix := 3 } }
/-- CopyJobsMove: a head that may start; a chunk to copy; a job whose bytes are all there; a parked job. -/
theorem wit_copies :
    (let j := { cjob with stat := .offered }
     let s := chSt j none
     (s.ct.coreList.all fun i => decide (headCheck 0 i (.chan 3) (fun s j => copyChecks s 0 i j)
       (fun s n => s.dueH n 0 3 .channelJobStart) s = s)) = true ∧ (s.ct.chans.get 3 {}).run = none ∧
       chanReady s 0 3 = some (0, j) ∧ j.op ≠ .wmset ∧ j.allSent = false) ∧
    (let j := { cjob with stat := .running }
     let s := chSt j (some 0)
     chanJob s 0 3 = some (0, j) ∧ j.op = .cpy ∧ j.prog < j.total ∧ (s.core 0 0).stopped = false ∧
       j.win = none ∧ (chunkFault s 0 0 j).isNone = true ∧ (s.ct.chans.get 3 {}).wm = none ∧ (s.ct.chans.get 3 {}).debt = 0) ∧
    (let j := { cjob with stat := .running }
     let s := { (chSt j none).modTile 0 fun x => { x with chans := x.chans.set 3 { run := some 0, debt := 3 } } with
       cur := { (chSt j none).cur with ix := 11 } }
     chanJob s 0 (fin 8 s.cur.ix) = some (0, j) ∧ 8 ≤ s.cur.ix ∧ (s.ct.chans.get 3 {}).debt = 2 + 1) ∧
    (let j := { cjob with stat := .running, prog := 1, bytes := 1 }
     let s := chSt j (some 0)
     (s.core 0 0).queue (queueOf 4) = [j] ∧ (j.robbed s 0 0).isNone = true ∧ j.done = true ∧ j.maskInfo = none ∧
       (signalBad s 0 0 j).isNone = true) ∧
    (let j := { cjob with stat := .parked, hub := some 64 }
     (((chSt j none).core 0 0).queue (queueOf 4)).find? (fun j => j.stat == .parked && j.hub.isSome) = some j) := by
  decide +kernel
/-- CopyJobsMove: the bytes of the one row are copied. -/
theorem wit_chunk : (copyLocal 0 3 0 { cjob with stat := .running } (chSt { cjob with stat := .running } (some 0))).toOption.isSome = true := by
  decide +kernel
/-- A compressed block of 32 bytes at 0x1000, three INT8 elements (R361's codes), to be decoded to 0x2000 on channel 3. -/
def cardSt : State :=
  let r (n base : Nat) : BitVec 512 := BitVec.ofNat 512 (2 ^ 495 + n * 2 ^ 64 + 2 ^ 192 + base)
  (chSt { cjob with op := .cpyd, stat := .running, recA := r 32 0x1000, recB := r 3 0x2000, total := 3 } (some 0)).writeBytes
    0x800000001000 [0, 1, 3, 0, 16, 0, 0, 0, 3, 0, 0, 0, 2, 2, 0, 0, 0x32]
/-- Its job. -/
def cardJob : Job := ((cardSt.core 0 0).queue (.chan 3)).headD cjob
/-- CopyJobsMove: a block whose bytes translate and decode, and one whose elements have their places. -/
theorem wit_carder : (chanJob cardSt 0 3 == some (0, cardJob)) = true ∧ cardJob.op = .cpyd ∧ cardJob.card = none ∧
    (cardSt.core 0 0).stopped = false ∧ cardSt.bad = [] ∧ recMx cardJob.recB = false ∧ (cardSt.ct.chans.get 3 {}).wm = none ∧
    (let d := (cardRead 0 3 0 cardJob { org := 0, pos := 0, e := 0, blk := 0 } 16 cardSt).1
     let p := cardRead 0 3 0 cardJob d (d.pos + 32) cardSt
     recBytes cardJob.recA = 32 ∧ 16 + d.field 4 4 = 32 ∧
       ((List.range 32).all fun i => (placeBreach p.2 0 0 cardJob false ((recBase cardJob.recA + d.pos + i : Nat) : Int)).isNone) = true ∧
       (cardBlock p.1.byte 32 (cardJob.total - d.e) (recFmt cardJob.recB) (recW cardJob.recB)).toOption.isSome = true) ∧
    (elemFault (placeBreach cardSt 0 0 cardJob true) cardJob.recB 0 3).isNone = true := by decide +kernel
/-- CopyJobsMove: a running job that has lost a chunk; a parked one whose circuit is gone. -/
theorem wit_robbed :
    (let j := { cjob with stat := .running, lost := some (3, 0x1000) }
     (j.robbed (chSt j (some 0)) 0 0).isSome = true) ∧
    (let j := { cjob with stat := .parked, hub := some 65 }
     (((chSt j none).core 0 0).queue (queueOf 4)).find? (fun j => j.stat == .parked && j.hub.isSome) = some j) ∧
    ((circSt { liveC with state := .faulted }).circ 0 3).state = .faulted := by decide +kernel
/-- CopyJobsMove: a send and a firing that may start; a firing with nothing left. -/
theorem wit_sends :
    (let j := { mjob .send with b := 16, stat := .offered }
     let s := on fun x => { x with sendq := [j] }
     headCheck 0 0 .send (fun s j => if j.op = .ctready then readyChecks s 0 0 j else sendChecks s 0 0 j)
       (fun s n => s.dueK n 0 0 .sendJobStart) s = s ∧ readyHead s 0 0 .send = some j ∧
       firingWaits s 0 j = false ∧ j.allSent = false ∧ (startSend 0 0 j s).toOption.isSome = true) ∧
    (let s := onTile fun x => { x with cents := x.cents.set 3 { v := true, rdy := true } }
     let s := { s with cur := { s.cur with ix := 3 } }
     (s.ct.cents.get s.cur.ix {}).rdy = true ∧ (s.ct.cents.get s.cur.ix {}).left = 0) := by decide +kernel

/-- Tile 0 with one operation landed on semaphore 255, which stands at y. -/
def semSt (y : Sem) (op : SemOp) : State :=
  onTile fun x => { x with sems := x.sems.set 255 y, landing := [⟨320, 255, 0, op⟩] }
/-- SemaphoreFileComplete: counting at the edges of a signal and of a wait; a phase at its last arrival and before it. -/
theorem wit_semaphores :
    (let s := semSt { count := 0xFFFFFFFE } (.sig 1)
     s.ct.landing = [⟨320, 255, 0, .sig 1⟩] ∧ 320 ≤ semBegin s.now ∧ (s.ct.badSems.any fun m => m == 255) = false ∧
       s.ct.jobWaits 255 = false ∧ (List.range 255).all (fun m => !(s.ct.sem m).complete) = true ∧ (s.ct.sem 255).arrv ≠ 0xFFFF ∧ (s.ct.sem 255).count.toNat + 1 < 2 ^ 32) ∧
    2 ^ 32 ≤ ((semSt { count := 0xFFFFFFFF } (.sig 1)).ct.sem 255).count.toNat + 1 ∧
    4 ≤ ((semSt { count := 4 } (.wait 4)).ct.sem 255).count ∧ ((semSt { count := 3 } (.try 4)).ct.sem 255).count < 4 ∧
    (let y := (semSt { phaseMode := true, expa := 1 } .arrive).ct.sem 255
     y.phaseMode = true ∧ y.expa.toNat ≤ y.arrv.toNat + 1 ∧ y.expb.toNat ≤ y.bytes.toNat) ∧
    (let y := (semSt { phaseMode := true, expa := 2 } .arrive).ct.sem 255
     y.arrv.toNat + 1 < y.expa.toNat) ∧ (0x00010000 : Word).extractLsb' 0 16 = (0 : BitVec 16) ∧
    (1 : Word).extractLsb' 0 16 ≠ (0 : BitVec 16) := by decide +kernel
/-- SemaphoreFileComplete: the walker with one request. -/
theorem wit_walker :
    let s := onTile fun x => { x with walkq := [⟨159, 0, 15⟩] }
    s.ct.walkq = [⟨159, 0, 15⟩] ∧ 159 < s.now / 2 := by decide +kernel
/-- A core whose clusters all stall for one another. -/
def stuck1 : Core :=
  let y : Clu := { stat := .running, stall := 6 }
  { c := y, vc := y, m := y, ec := y }
/-- The task of slot 0 with f applied, on tiles 0 to 3. -/
def taskSt (f : Task → Task) : State :=
  { onTile (fun x => { x with slot := some 0, taskid := 7 }) with hub := { stage := 0xE, tasks := [f task1] } }
/-- CoreEventsComplete: a deadlock, a watchdog, a core to gate, to ask and to wake, and a core to stop at its bundle. -/
theorem wit_core_events :
    (let s := { on (fun _ => stuck1) with now := 131072 }
     s.cc.stuck = true ∧ s.cc.quietAt + 65536 * s.cc.cdiv ≤ s.now) ∧
    (let s := { taskSt (fun x => { x with stat := .stopping, preemptAt := some 0 }) with now := 320000 }
     (s.request 0).isSome = true ∧ s.cc.watched = true ∧ s.cc.watch + 320000 ≤ s.now) ∧
    (let s := { (taskSt id).modCore 0 0 (fun x => { x with exited := some 0 }) with now := 512 }
     gateIdle s.ct 0 = true ∧ s.cc.gated = false ∧ alignUp s.cc.idleAt 2 + 512 ≤ s.now) ∧
    (let s := { on (fun x => { x with gated := true, wakeReq := true }) with now := 4096 }
     s.cc.gated = true ∧ s.cc.wakeReq = true ∧ s.cc.woken = false ∧ s.cc.gateAt + 4096 ≤ s.now ∧
       (rrCores s.ct.lastWoken).filter (fun i => (s.ct.core i).asks s.now) = [0] ∧ s.ct.grantFrom ≤ s.now) ∧
    (let s := { taskSt (fun x => { x with stat := .stopping, preemptAt := some 0 }) with now := 320 }
     let v := s.modCore 0 0 fun x => { x with gated := true }
     (v.request 0).isSome = true ∧ v.cc.stopped = false ∧ v.cc.gated = true) ∧
    (let s := on fun x => { x with gated := true, woken := true }
     s.cc.woken = true ∧ s.cc.heldFaults = []) ∧ ({ core1 with halted := true } : Core).halted = true ∧
    (let s := taskSt fun x => { x with stat := .stopping, preemptAt := some 0 }
     let v := { s.modCore 0 0 (fun x => { x with safeLast := some 0 }) with cur := { s.cur with ix := 1 } }
     (v.request 0).isSome = true ∧ v.cc.stopped = false ∧ v.cur.ix = 1 ∧ v.cc.safeLast.isSome = true ∧ v.cc.halted = false ∧
       v.cc.exited = none ∧ v.cc.trap = false ∧ v.cc.waitsSup = false ∧ v.cc.gated = false ∧ ([Cluster.c, .v, .m, .e].all fun cl => (v.cc.clu cl).req.isNone) = true ∧ safeptBits v.cc = 0) ∧
    safeptBits { core1 with sq := [(0, 0)] } = 2 := by decide +kernel
/-- UnitEventsComplete. -/
theorem wit_units : (s1.str 7).level < 2 ∧ s1.ct.inService = true ∧ bypassDue s1 0 1 = true ∧ bypassDue s1 0 2 = false ∧ s1.ct.present.getLsbD 15 = true ∧ 12 < s1.ct.ncores ∧
    s1.ct.softAt = none ∧ s1.cur.ix ≠ 1 ∧
    (let s := onTile fun x => { x with soft := 3, softAt := some 5 }
     s.ct.softAt = some 5 ∧ 5 / 3200000 = s.now / 3200000 ∧ s.ct.soft ≠ 0) := by decide +kernel
/-- A module with tasks, at an event index. -/
def hubSt (l : List Task) (ix : Nat := 0) : State :=
  { s1 with hub := { stage := 0xE, tasks := l }, cur := { s1.cur with ix := ix } }
/-- LaunchComplete: a doorbell before READY, at READY and of a failed hub; the last bell of an image that is none; the
candidate of a queue with a string for it, and with none. -/
theorem wit_doorbell : s1.hub.stage ≠ 0xE ∧ (hubSt []).hub.stage = 0xE ∧ (hubSt []).hub.dead = false ∧
    (let s := (hubSt []).modHub fun h => { h with bells := [(7, 0)] }
     s.hub.bells = [(7, 0)] ∧ s.hub.dead = false ∧ s.hub.tasks = [] ∧
       (let r := (s.modHub fun h => { h with scanned := some (s.now / 2) }).modHub fun h => { h with bells := [] }
        let i := mpaField (r.readDWord (mpaField 0 6)) 6
        let c := countRead (mpaField 0 6) 64 r
        parseImage (countRead i (c.leAt (i + 48) 8) c) i = none)) ∧
    (onHub fun h => { h with dead := true }).hub.dead = true := by decide +kernel
/-- A queued task. -/
def queued1 : Task := { id := 9, prio := 2 }
/-- LaunchComplete: a queue's candidate with strings and a slot; with no string free. -/
theorem wit_candidate :
    (let s := hubSt [queued1]
     s.candidate 2 = some queued1 ∧ (s.hub.reserved.all fun r => r.1 != 9) = true ∧
       placeTask s queued1 (s.freeStrings 9) = some [0] ∧ s.freeSlot = some 0 ∧ s.task? 9 = some queued1) ∧
    (let s := hubSt [queued1, { task1 with strings := fins 8 }]
     s.candidate 2 = some queued1 ∧ placeTask s queued1 (s.freeStrings 9) = none) := by decide +kernel
/-- LaunchComplete: a lease to grant; a launch in a step's first rc and out of it. -/
theorem wit_launch :
    (let x := { task1 with stat := .launching }
     let s := hubSt [x] 7
     s.task? (BitVec.ofNat 16 s.cur.ix) = some x ∧ leaseStrings s x = some [0] ∧ placesOk s { x with strings := [0] } [] = true) ∧
    (let x := { task1 with stat := .launching, granted := true }
     let s := hubSt [x]
     s.slotTask (fin 8 s.cur.ix) = some x ∧ x.granted = true ∧ x.saves = [] ∧ x.live = [] ∧ s.now % 32 = 0 ∧
       s.streaming = false ∧ handlesIdle s x = true) ∧ (15 : CoreId) ∈ (s1.tile 0).coreList ∧ (321 % 32 ≠ 0) := by
  decide +kernel
/-- PreemptionAndEndComplete: no pages of a tile whose HBM is all leased, and a save area of one row that finds none. -/
theorem no_pages (v n : Nat) (h : 0 < n) : placeSpan 0 0 [(0, 2 ^ 36)] 0 (v, n) = none := by
  have h0 : alignUp 0 pageSize = 0 := by decide
  have h1 : alignUp (2 ^ 36) pageSize = 2 ^ 36 := by decide
  have h2 : hbmTop < 2 ^ 36 + n := by simp only [hbmTop]; omega
  have h3 : fitFrom [(0, 2 ^ 36)] n n pageSize hbmTop 2 0 = none := by
    have h5 : meets 0 n 0 (2 ^ 36) = true := by simp only [meets, Nat.zero_add, Bool.and_eq_true, decide_eq_true_eq]; omega
    rw [fitFrom]
    simp only [h0, Nat.zero_add, List.find?_cons, h5]
    split
    · rfl
    · rw [fitFrom]
      simp only [h1, if_pos h2]
  have h4 : holesFrom 0 [(0, 2 ^ 36)] = [] := by decide
  obtain ⟨m, rfl⟩ : ∃ m, n = m + 1 := ⟨n - 1, by omega⟩
  simp only [placeSpan, fit, List.length_singleton, h3, List.foldl_cons, List.foldl_nil, putSpan, h4, fillHoles]
theorem wit_no_room : let all : Placement := { tix := 0, va := 0, mpa := 0, size := 2 ^ 36 }
    saveAreas (hubSt [{ task1 with places := [all] }]) [(0, { tix := 0, tile := {}, rows := [(0, 0, 0)] })] = none := by
  have h : saveArea (hubSt [{ task1 with places := [⟨0, 0, 0, 2 ^ 36⟩] }]) [] 0 { tix := 0, tile := {}, rows := [(0, 0, 0)] } =
      none :=
    no_pages _ _ (Nat.mul_pos (Nat.div_pos (by simp [pageSize]; omega) (by simp [pageSize])) (by simp [pageSize]))
  intro all
  simp only [saveAreas, List.foldl_cons, List.foldl_nil, Option.bind_some]
  rw [show saveArea _ [] 0 _ = none from h]
  rfl
/-- PreemptionAndEndComplete: a request; the stop of a rig program; a task that has settled; one put aside and resumed. -/
theorem wit_preempt :
    (let x := { task1 with stat := .stopping }
     (hubSt [x]).slotTask (fin 8 (hubSt [x]).cur.ix) = some x ∧ x.preemptAt = none) ∧
    (let x := { task1 with stat := .stopping, rig := { stopReq := true } }
     let s := hubSt [x]
     x.rig.stopped = false ∧ s.now % 32 = 0 ∧ (s.slotHandles 0).all (fun p => !(s.circ p.1 p.2.val).unsettled) = true) ∧
    (let x := { task1 with stat := .stopping, preemptAt := some 3, derigging := true, rig := { stopped := true } }
     let s := hubSt [x]
     let v := s.modTile 0 fun y => { y with cores := {} }
     let w := (fins 4).foldl (fun (s : State) (n : Fin 4) => s.modTile (fin 32 n.val) fun y => { y with
       cores := (fins 16).foldl (fun (k : Tbl Core) (i : Fin 16) => k.set i.val { stopped := true }) {} }) v
     (w.taskTiles x).all (fun t => (w.tile t).settled) = true ∧ x.supFault = false ∧ w.slotHandles 0 = [] ∧
       badSpill w x = none ∧ w.task? x.id = some x ∧ Memory.wf w.mem = true) ∧
    (let x := { task1 with strings := [] }
     (saveAreas (hubSt [x]) (((hubSt [x]).tixTiles x).map fun p => (p.2, spillTile (hubSt [x]) x p.1 p.2))) = some []) ∧
    (∀ c ∈ [({ tix := 0, va := 2 ^ 60, mpa := 2 ^ 41 - pageSize, size := pageSize } : Placement)], c.mpa + c.size ≤ 2 ^ 41) ∧
    (let x := { task1 with stat := .launching, granted := true, saves := [{ tix := 0, tile := {} }] }
     let s := hubSt [x]
     s.slotTask 0 = some x ∧ x.saves ≠ [] ∧ bindingHolds s x = false) ∧
    (let x := { task1 with
       stat := .launching, granted := true, strings := [0], saves := (List.range 4).map fun i => { tix := i, tile := {} } }
     let s := hubSt [x]
     s.slotTask 0 = some x ∧ x.saves ≠ [] ∧ x.live = [] ∧ bindingHolds s x = true ∧ handlesIdle s x = true ∧ x.saveAt = []) ∧
    (let x := { task1 with stat := .launching, granted := true, live := [(0, 3, liveC)] }
     let s := { circSt liveC with hub := { winSt.hub with tasks := [x] } }
     s.bound x 0 = some 0 ∧ (s.circ 0 3).state = .live) := by decide +kernel
/-- PreemptionAndEndComplete: a tile that has ended; a task whose tiles all have, with EXIT #0, another, and a successor. -/
theorem wit_task_end :
    (let s := (taskSt id).modTile 0 fun x => { x with
       cores := (fins 16).foldl (fun (k : Tbl Core) (i : Fin 16) => k.set i.val { exited := some 0 }) {} }
     s.tileTask s.cur.tile = some task1 ∧ s.hub.tasks.all (fun z => z.exits.isEmpty) = true ∧ s.ct.partDone = false ∧ s.ct.ended = true ∧ task1.derigging = false) ∧
    (let x := { task1 with firstExit := some 9 }
     let y := { queued1 with pred := 7, granted := true }
     let s := (fins 4).foldl (fun (s : State) (n : Fin 4) => s.modTile (fin 32 n.val) fun y => { y with partDone := true }) (hubSt [x, y])
     s.slotTask (fin 8 s.cur.ix) = some x ∧ (s.taskTiles x).all (fun t => (s.tile t).partDone) = true ∧
       successor s x 9 = some y ∧ y.id ≠ x.id ∧ s.hub.tasks.all (fun z => z.hold.isNone && (z.id != y.id || z == y)) = true ∧
       successor s x 8 = none) := by decide +kernel
/-- StartUpComplete: each stage; images of version 5 under a fuse of 5, and of 6; what verifies is open (log 11). -/
theorem wit_start :
    (let p (fuse : BitVec 16) : Phys := { fuse := fuse, images := ((({} : Tbl FwImage).set 0 { version := 5 }).set 1 { version := 5 }) }
     let s := { s1 with cur := { s1.cur with ix := 1 }, hub := { stage := 1, phys := p 5 } }
     s.cur.ix = 1 ∧ s.hub.stage = 1 ∧ s.hub.phys.fuse.toNat ≤ (s.hub.phys.images.get 0 {}).version.toNat ∧
       (s.hub.phys.images.get 0 {}).sig.length = 2820 ∧ ({ sig := [] } : FwImage).sig.length ≠ 2820 ∧
       ¬ (p 6).fuse.toNat ≤ ((p 6).images.get 0 {}).version.toNat) ∧
    (let s := { s1 with cur := { s1.cur with ix := 6 }, hub := { stage := 6 } }
     s.hub.phys.lamps = [] ∧ s.hub.phys.tiles = [] ∧ s.hub.phys.hbm = [] ∧ s.hub.phys.cores.get 31 0 = 0 ∧ s.someString = true) ∧
    (let s := { s1 with cur := { s1.cur with ix := 7 }, hub := { stage := 7 } }
     s.cur.ix = 7 ∧ s.hub.stage = 7 ∧ s.hub.startRecs = []) := by decide +kernel
/-- HostAccessesComplete: slot 63 mapped for both directions, and slot 0 for none; counts at the edge of a ring. -/
theorem wit_host :
    (let s := (hubSt []).modHub fun h => { h with slots2 := h.slots2.set 63 { mapped := true, base := 0x40000000, rd := true, wr := true } }
     s.aperture 0xFFFFFFFFF false = some 0x7FFFFFFC ∧ s.aperture 0xFFFFFFFFF true = some 0x7FFFFFFC ∧
       s.badIn 0x7FFFFFFC 4 = none ∧ s.badPart 0x7FFFFFFC 4 = none ∧ s.aperture 0 false = none ∧ s.aperture 0 true = none ∧ s.hub.stream = none ∧ s.hub.held2 = []) ∧
    countOk 5 5 = true ∧ countOk 6 5 = false ∧ 511 < ((0x200 : Word) - 0).toNat ∧ (0x57FFC : Nat) % 16 = 12 ∧
    s1.hub.astat ≠ 1 ∧ s1.hub.linkUp = true := by decide +kernel
/-- A module whose mailbox holds a request of words at offsets 4, 8, 16 and 24. -/
def mailSt (arg x y z : Nat) : State :=
  (bar0SetD 0x40000 [BitVec.ofNat 64 (arg * 2 ^ 32), BitVec.ofNat 64 x, BitVec.ofNat 64 y, BitVec.ofNat 64 z] (hubSt [])).modHub
    fun h => { h with mailBusy := true }
/-- MailboxComplete: MAPSLOT of slot 63, UNMAPSLOT, XLATE of a context's lease, HOSTMAP and HOSTUNMAP. -/
theorem wit_mailbox :
    (let s := mailSt 0x33F 0x40000000 0 0
     s.hub.mailBusy = true ∧ s.req 32 32 = 0 ∧ s.req 4 4 = 0x33F ∧ s.req 8 8 = 0x40000000 ∧ s.req 16 8 = 0 ∧ s.req 24 8 = 0 ∧
       s.place 0x40000000 ≠ .hole ∧ s.req 8 8 % 2 ^ 30 = 0 ∧ s.req 8 8 < 2 ^ 48) ∧
    ((mailSt 63 0 0 0).hub.slots2.get 63 {}).mapped = false ∧
    (let l : Lease := { tix := 0, va := 0x40000000, size := 0x200000, rd := true, wr := false, heap := false, mpa := some 0x200000 }
     let t := { task1 with ctx := some 3, leases := [l] }
     let s := (mailSt 3 0x401FFFFF 0 0).modHub fun h => { h with tasks := [t] }
     (s.hub.tasks.find? fun t => t.ctx == some 3) = some t ∧
       (t.leases.find? fun l => decide (l.va ≤ s.req 8 8) && decide (s.req 8 8 < l.va + l.size)) = some l) ∧
    (let s := (mailSt 0 0 0xC00000000000 pageSize).modHub fun h => { h with hostmap := [(0, 0xC00000000000, pageSize)] }
     hostRange (s.req 16 8) (s.req 24 8) = true ∧ s.leaseHolds (s.req 16 8) (s.req 24 8) = false ∧
       s.hostMapped (s.req 16 8) (s.req 24 8) = true ∧ s.req 8 8 % pageSize = 0) ∧
    hostRange 0xC00000000001 pageSize = false := by decide +kernel
/-- A module whose management queue runs a command of these words. -/
def cmdSt (w0 w1 w2 : DWord) (l : List Task := []) : State :=
  (hubSt l 63).modHub fun h => { h with
    cmd := some (leBytes 64 (w0.toNat + 2 ^ 64 * w1.toNat + 2 ^ 128 * w2.toNat), false) }
/-- ManagementComplete: attestation asked for, with the last leaf and with none; ABORT of a running task and of none;
CHECKPOINT and RESTORE with port 63 ready and without. -/
theorem wit_mgmt :
    (let s := (hubSt []).modHub fun h => { h with astat := 1, leafIx := 2 ^ 20 - 1, capNonce := List.replicate 32 0 }
     s.hub.astat = 1 ∧ s.hub.leafIx < 2 ^ 20 ∧ s.pool.all (fun e => e.2.2.2 != .attestationComplete) = true ∧
       s.hub.capNonce.length = 32) ∧
    (let s := cmdSt (7 * 2 ^ 32) 0 0 [task1]
     s.hub.cmd.isSome = true ∧ s.task? s.cmdArg = some task1 ∧ task1.slot.isSome = true ∧
       (cmdSt (8 * 2 ^ 32) 0 0 [task1]).task? (cmdSt (8 * 2 ^ 32) 0 0 [task1]).cmdArg = none) ∧
    (let s := (cmdSt 0 0 0x8000000000000000).modHub fun h => { h with
       fibs := h.fibs.set 63 { state := .fopen }, tblA := h.tblA.set 63 0x80000000 }
     s.hub.stream = none ∧ portsReady s (s.cmdWord 2) = true ∧ s.hub.tasks = [] ∧
       portsReady (cmdSt 0 0 0x8000000000000000) 0x8000000000000000 = false) := by decide +kernel
/-- ManagementComplete: the end of a checkpoint and of a restore. -/
theorem wit_streams :
    (let st : Stream := { phase := 2, sent := 2 ^ 40 }
     let s := (hubSt []).modHub fun h => { h with stream := some st }
     s.hub.stream = some st ∧ st.restore = false ∧ streamDone s st = true) ∧
    (let st : Stream := { restore := true, closing := some (5, 0) }
     st.restore = true ∧ st.closing = some (5, 0) ∧ allArrived st = true) := by decide +kernel
/-- FibrePorts: a probe at its limit, one that is lost, a drain that others keep, and one that is over. -/
theorem wit_ports :
    (let s := { s1 with hub := { fibs := ({} : Tbl Fib).set 0 { state := .probing, probeAt := 320, busy := true } }, now := 64320 }
     (s.fib 0).state = .probing ∧ (s.fib 0).probeAt + 64000 ≤ s.now ∧ (s.fib 0).draining = false ∧ (s.fib 0).busy = true) ∧
    (let s := { s1 with hub := { fibs := ({} : Tbl Fib).set 0 { state := .fopen, draining := true } } }
     (s.fib 0).draining = true ∧ (s.fib 0).state = .fopen ∧ s.onFib 0 = [] ∧
       s.hub.releasing.all (fun p => !p.2.2.fibs.contains 0) = true) := by decide +kernel
/-- TrapsEnterAndReturn: a contained record on the LOCAL route of a core in no handler, of one in its handler, and with 15
records held. -/
theorem wit_traps :
    (let r : FaultRec := { code := .shapeBounds, kind := .job, task := 7, tile := some (0, 0), core := some (0, .e), pc := some 5 }
     let s := taskSt id
     adjust s r = (.loc, .contained) ∧ s.cc.trap = false ∧ s.cc.stopped = false ∧ s.cc.waitsSup = false ∧ s.cc.gated = false ∧ (s.cc.clu .v).req = none ∧
       adjust (s.modCore 0 0 fun x => { x with trap := true, heldFaults := List.replicate 15 (r, 0) }) r = (.loc, .contained)) := by
  decide +kernel
/-- FaultRecordsAreWritten: a ring with one place left, and a full one. -/
theorem wit_records : ((1023 : Word) - 1 ≠ 1023) ∧ ((1023 : Word) - 0 = 1023) := by decide +kernel
/-- ReservedOperandsFault: a reserved destination, a reserved source. -/
theorem wit_reserved : dstOk .c 0x44 = false ∧ (0x44 ∈ rrOps 2 (rr 1 2 0x44)) ∧ srcOk .c 0x44 = false ∧ s1.cur.bundle = false ∧
    s1.ccl.redir = none := by
  decide +kernel
/-- NoTaskBeforeReady, and the memory that StepKeepsMemoryCanonical speaks of: bytes rising, none the default one. -/
theorem wit_memory : s1.hub.stage ≠ 0xE ∧ Memory.wf (s1.writeWord 0x800000000104 0x01020304).mem = true ∧
    (s1.writeWord 0x800000000104 0x01020304).mem.length = 4 := by decide +kernel
/-- StoresComplete: a group whose circuit is LIVE. -/
theorem wit_vstm :
    let s := (winSt.modTile 0 fun x => { x with groups := x.groups.set 9 { v := true, gen := 3, handle := 3 } }).modCore 0 0
      fun x => { x with a := x.a.set 7 9 }
    let r := readSrcs .m [7] (atWord .m s)
    let g := r.2.ct.groups.get ((arg r.1 0).toNat % 256) {}
    Readable .m [7] (atWord .m s) ∧ MFree s ∧ g.v = true ∧ (r.2.circ 0 g.handle.toNat).usable = true ∧
      r.2.cc.pend.length < 16 := by unfold Readable MFree; decide +kernel
/-- MailboxComplete: a range that a lease holds. -/
theorem wit_held :
    let l : Lease := { tix := 0, va := 0x40000000, size := 0x200000, rd := true, wr := false, heap := false, mpa := some 0xC00000000000 }
    ((hubSt [{ task1 with leases := [l], places := [⟨0, 0x40000000, 0xC00000000000, pageSize⟩], granted := true }]).leaseHolds
      0xC00000000000 pageSize) = true := by decide +kernel
/-- R360 to R363: the bytes of a block of three INT8 elements with K = 1 (the codes of R361's example); it is also what
CopyJobsMove asks of a carder's block. -/
theorem test_card_block :
    ((cardBlock (fun i => [0, 1, 3, 0, 16, 0, 0, 0, 3, 0, 0, 0, 2, 2, 0, 0, 0x32].getD i 0) 32 3 0 8).toOption.map
      fun b => (b.elems, b.len)) = some ([0xFF, 0, 2], 32) := by decide +kernel

/-! ## Events: results that the rules give -/

/-- R187, R271: a wait for the whole count leaves 0 and answers it. -/
theorem test_sem_wait : ((after .semaphoreFileCycle (semSt { count := 4 } (.wait 4))).ct.sem 255).count = 0 := by
  decide +kernel
/-- R155, R321: a word that the home takes stands at its address. -/
theorem test_store_lands : (after (.shortStore src0 (msg 0 0x1000000100 [5])) (homeSt home0)).readWord 0x1000000100 = 5 := by
  decide +kernel
/-- R110: one that no inbound entry takes does not. -/
theorem test_row_refused : (after (.row src0 (msg 0 0x1000200000 [5])) (homeSt home0)).mem = [] := by decide +kernel
/-- R325: an atomic addition at the memory port. -/
theorem test_port : (after .memoryPortApply ((s1.writeWord 0x800000000104 9).modTile 0 fun x =>
    { x with portq := [⟨2, 0x800000000104, ⟨0x18, 7, 0, none, 0, false⟩⟩] })).readWord 0x800000000104 = 16 := by decide +kernel
/-- R155: a message that leaves takes the next SEQ. -/
theorem test_send_seq : (hc (after .messageSend (circSt { liveC with waiting := [sent1] }))).seq = 1 := by decide +kernel
/-- R356: the last byte of four copied by a chunk. -/
theorem test_copy :
    let r (base : Nat) : BitVec 512 := BitVec.ofNat 512 (2 ^ 495 + 4 * 2 ^ 64 + 2 ^ 192 + base)
    let j := { cjob with stat := .running, recA := r 0x1000, recB := r 0x2000 }
    (after .copyChunk ((chSt j (some 0)).writeByte 0x800000001003 9)).readByte 0x800000002003 = 9 := by decide +kernel
/-- R222, R223: at the foot of the ramp a fourth macro is granted, a fifth is not. -/
theorem test_ramp :
    let s (n : Nat) : State := (mxSt { mjob .mbatt with stat := .offered }).modTile 0 fun x => { x with
      lim := { x.lim with step := 40, charges := List.replicate n { core := 1, job := 9, cost := 1, macs := [0], batt := false } } }
    (after .limiterStep (s 3)).ct.lim.charges.length = 4 ∧ (after .limiterStep (s 4)).ct.lim.charges.length = 4 := by
  decide +kernel
/-- R42: a doorbell before READY. -/
theorem test_early : (after (.taskDoorbell 0) s1).hub.early = true := by decide +kernel
/-- R164: 90 and 91 of probe loss. -/
theorem test_probe :
    let s : State := { s1 with hub := { fibs := ({} : Tbl Fib).set 0 { state := .probing } } }
    ((after (.probeComplete 90) s).fib 0).state = .aligned ∧ ((after (.probeComplete 91) s).fib 0).state = .dark := by
  decide +kernel
/-- R216: a sample saturates to 16 bits. -/
theorem test_governor : ((after (.governorSample [40000, -40000, 5, 0]) s1).tile 1).strimb = BitVec.ofInt 32 (-32768) := by
  decide +kernel
/-- R278, R279: the handler's word of cluster E, and the way back. -/
theorem test_trap_entry :
    let u := trapEntry 0 0 5 6 7 s1
    (u.core 0 0).ec.pc = 0x7FFFF ∧ ((trapReturn 0 0 u).core 0 0).ec.pc = 0 := by decide +kernel
/-- R105, the worked example of R104's banks: rows 4 KiB apart under span codes 0 and 4, and rows 0 to 15 under code 4. -/
theorem test_banks : ((List.range 16).map fun k => bankOf 0 (4096 * k)) = List.range 16 ∧
    ((List.range 16).map fun k => bankOf 4 (4096 * k)) = List.range 16 ∧
    ((List.range 16).map fun k => bankOf 4 (256 * k)) = List.replicate 16 0 := by decide +kernel
/-- R152: CRC-16 of the bytes 1 to 9 in ASCII, as the CRC's catalogues give it (polynomial 0x1021, initial value 0xFFFF). -/
theorem test_crc : crc16 [0x31, 0x32, 0x33, 0x34, 0x35, 0x36, 0x37, 0x38, 0x39] = 0x29B1 := by decide +kernel
/-- Lemmas of the canonical form at work: a default byte leaves no entry. -/
theorem test_mem_default : (s1.writeWord 0x800000000104 0).mem = [] := by decide +kernel

end Sys2Proof.Tests
end

section
/-!
PROOFS. The state after reset: nothing is listed in its tables, so every tile, core and circuit is the default one (R7, R41).
-/
namespace Sys2Proof.Machine

/-- The state after reset, seen from core k of tile t. -/
def resetAt (t : TileId) (k : CoreId) : State := { State.reset with cur := { tile := t, core := k } }

@[simp] theorem resetAt_now (t : TileId) (k : CoreId) : (resetAt t k).now = 0 := rfl
@[simp] theorem resetAt_cur (t : TileId) (k : CoreId) : (resetAt t k).cur = { tile := t, core := k } := rfl
@[simp] theorem resetAt_hub (t : TileId) (k : CoreId) : (resetAt t k).hub = {} := rfl
@[simp] theorem resetAt_tile (t : TileId) (k : CoreId) (u : TileId) : (resetAt t k).tile u = {} := rfl
@[simp] theorem resetAt_ct (t : TileId) (k : CoreId) : (resetAt t k).ct = {} := rfl
@[simp] theorem resetAt_cc (t : TileId) (k : CoreId) : (resetAt t k).cc = {} := rfl
@[simp] theorem resetAt_level (t : TileId) (k : CoreId) (n : StringId) : ((resetAt t k).str n).level = 0 := rfl

/-- No tile is halted where none has a task (R219). -/
theorem resetAt_tileHalted (t : TileId) (k : CoreId) (u : TileId) : (resetAt t k).tileHalted u = false := rfl

/-- A test that no tile meets gives no bit. -/
theorem State.posBits_false (s : State) (t : TileId) (p : TileId → Bool) (h : ∀ u, p u = false) : s.posBits t p = 0 := by
  refine congrArg (BitVec.ofNat 4) (List.foldlRecOn (motive := fun n => n = 0) (List.range 4) _ rfl fun n hn j _ => ?_)
  rw [hn]
  split
  · simp [h]
  · rfl

/-- STRSTAT is 0 after reset (R217): no tile is halted, and its map is not built before READY (R39). -/
theorem resetAt_strstat (t : TileId) (k : CoreId) : (resetAt t k).strstat t = 0 := by
  have hh : (resetAt t k).posBits t (resetAt t k).tileHalted = 0 := State.posBits_false _ _ _ (resetAt_tileHalted t k)
  have hp : (resetAt t k).posBits t (fun _ => false) = 0 := State.posBits_false _ _ _ fun _ => rfl
  simp [State.strstat, hh, hp]

/-- The special registers that read 0 after reset (R282). -/
theorem resetAt_srValue_zero (t : TileId) (k : CoreId) :
    ∀ n ∈ [0x000, 0x001, 0x002, 0x003, 0x004, 0x005, 0x008, 0x010, 0x011, 0x012, 0x013, 0x014, 0x020, 0x021, 0x022, 0x023,
      0x030, 0x031, 0x032], srValue (resetAt t k) n = some 0 := by
  simp [srValue, resetAt_strstat, Core.flagsAt]

/-- CLKDIVS reads the divisor 2 in its three fields after reset (R229). -/
theorem resetAt_srValue_clkdivs (t : TileId) (k : CoreId) : srValue (resetAt t k) 0x040 = some 0x00020202 :=
  congrArg some (by decide : Core.clkdivs {} = 0x00020202)

/-- TRAPVEC after reset (R282). -/
theorem resetAt_srValue_trapvec (t : TileId) (k : CoreId) : srValue (resetAt t k) 0x015 = some 0x0007FFFC :=
  congrArg some (by decide : (0x1FFFF : BitVec 17).setWidth 32 <<< 2 = (0x0007FFFC : Word))

/-- The limiter's report after reset (R226). -/
theorem resetAt_srValue_report (t : TileId) (k : CoreId) : srValue (resetAt t k) 0x033 = some 0x80000200 := rfl

/-- The tables of a tile and of a core list nothing after reset: no region, no valid window, no circuit (R103, R106, R109). -/
theorem reset_tables (t : TileId) (k : CoreId) : (∀ n, (State.reset.core t k).rgn.get n 0 = 0) ∧
    (∀ n, ((State.reset.tile t).wins.get n {}).v = false) ∧ (∀ n, ((State.reset.tile t).inbs.get n {}).v = false) ∧
    ∀ h, (State.reset.circ t h).state = .idle :=
  ⟨fun _ => rfl, fun _ => rfl, fun _ => rfl, fun _ => rfl⟩

/-- Settles O58: the hub's registers, then the special registers, the route table and the tables of each tile and core. -/
theorem resetState : Obligations.ResetState :=
  ⟨rfl, rfl, rfl, rfl, rfl, rfl, rfl, rfl, rfl, fun t k =>
    ⟨resetAt_srValue_zero t k, resetAt_srValue_trapvec t k, resetAt_srValue_report t k, resetAt_srValue_clkdivs t k, rfl,
      reset_tables t k⟩⟩

/-- Settles O59: the memory of the reset state lists no byte. -/
theorem resetMemoryCanonical : Obligations.ResetMemoryCanonical := State.reset_wf

end Sys2Proof.Machine
end

section
/-!
PROOFS. What the shared operations of the hub leave as it was: interrupts, fault records, the management queue (R33, R34, R48,
R409, R419), counters and requests at the banks (R54, R105).
-/
namespace Sys2Proof.Machine

/-! ## Interrupts and records -/

/-- Raising a vector changes only which vectors are pending and which are sent (R33, R34). -/
theorem raiseVec_eq (n : Nat) (s : State) : ∃ p o, raiseVec n s = s.modHub fun h => { h with msixPend := p, msixOut := o } := by
  simp only [raiseVec, State.modHub]
  split
  · exact ⟨s.hub.msixPend, s.hub.msixOut, rfl⟩
  · split
    · exact ⟨s.hub.msixPend ++ [n], s.hub.msixOut, rfl⟩
    · exact ⟨s.hub.msixPend, s.hub.msixOut ++ [n], rfl⟩

@[simp] theorem raiseVec_mem (n : Nat) (s : State) : (raiseVec n s).mem = s.mem := rfl

/-- 64-bit words written into BAR0 change nothing else. -/
theorem bar0SetD_eq (off : Nat) (l : List DWord) (s : State) : ∃ b, bar0SetD off l s = s.modHub fun h => { h with bar0 := b } := by
  induction l generalizing off s with
  | nil => exact ⟨s.hub.bar0, rfl⟩
  | cons d r ih => exact (ih _ _).imp fun _ hb => hb

@[simp] theorem bar0SetD_mem (off : Nat) (l : List DWord) (s : State) : (bar0SetD off l s).mem = s.mem := by
  obtain ⟨b, hb⟩ := bar0SetD_eq off l s
  rw [hb, State.modHub_mem]

/-- A record entered into the HOST ring changes the ring, its counts and the vectors (R419, R421). -/
theorem hostRing_eq (l : List DWord) (s : State) : ∃ b p o fp fl, hostRing l s = s.modHub fun h =>
    { h with bar0 := b, msixPend := p, msixOut := o, faultProd := fp, faultLost := fl, linkRecs := true } := by
  simp only [hostRing]
  split
  · exact ⟨s.hub.bar0, s.hub.msixPend, s.hub.msixOut, s.hub.faultProd, s.hub.faultLost + 1, rfl⟩
  · obtain ⟨b, hb⟩ := bar0SetD_eq (0x30000 + 64 * (1 + s.hub.faultProd.toNat % 1023)) l s
    rw [hb]
    obtain ⟨p, o, hv⟩ := raiseVec_eq 0 ((s.modHub fun h => { h with bar0 := b }).modHub fun h =>
      { h with faultProd := h.faultProd + 1, linkRecs := true })
    exact ⟨b, p, o, s.hub.faultProd + 1, s.hub.faultLost, hv⟩

/-- A record written advances RSEQ, enters the management log, and may enter the HOST ring (R409, R413, R419). -/
theorem writeRec_eq (r : FaultRec) (rt : Route) (sev : Severity) (s : State) :
    ∃ b p o fp fl k, writeRec r rt sev s = s.modHub fun h =>
      { h with
        rseq := h.rseq + 1, mlog := h.mlog ++ [recBits (recWords s r rt sev)], bar0 := b, msixPend := p, msixOut := o,
        faultProd := fp, faultLost := fl, linkRecs := k } := by
  simp only [writeRec]
  split
  · obtain ⟨b, p, o, fp, fl, hr⟩ := hostRing_eq (recWords s r rt sev)
      (s.modHub fun h => { h with rseq := h.rseq + 1, mlog := h.mlog ++ [recBits (recWords s r rt sev)] })
    exact ⟨b, p, o, fp, fl, true, hr⟩
  · exact ⟨s.hub.bar0, s.hub.msixPend, s.hub.msixOut, s.hub.faultProd, s.hub.faultLost, s.hub.linkRecs, rfl⟩

/-- A corrected fault of the host side is a record on the HOST route and nothing more (R408, R412). -/
theorem deliver_hostRec {code : FaultCode} (x : DWord) (s : State) (hc : sevOf (hostRec code x) = .corrected)
    (hs : code ≠ .softwareTrap) : deliver (hostRec code x) s = writeRec (hostRec code x) .host .corrected s := by
  have ha : adjust s (hostRec code x) = (.host, .corrected) := by
    simp only [adjust, hc]
    simp [hostRec, hs]
  simp only [deliver, ha]

/-- A corrected fault of the host side leaves memory, the link and the answer to a BAR2 read, and advances RSEQ (R409, R421). -/
theorem deliver_hostRec_frame {code : FaultCode} (x : DWord) (s : State) (hc : sevOf (hostRec code x) = .corrected)
    (hs : code ≠ .softwareTrap) :
    (deliver (hostRec code x) s).mem = s.mem ∧ (deliver (hostRec code x) s).hub.linkUp = s.hub.linkUp ∧
      (deliver (hostRec code x) s).hub.read2 = s.hub.read2 ∧ (deliver (hostRec code x) s).hub.rseq = s.hub.rseq + 1 := by
  obtain ⟨b, p, o, fp, fl, k, hw⟩ := writeRec_eq (hostRec code x) .host .corrected s
  rw [deliver_hostRec x s hc hs, hw]
  exact ⟨rfl, rfl, rfl, rfl⟩

/-! ## The management queue -/

@[simp] theorem writeCpl_mem (l : List Byte) (own : Bool) (n : Nat) (r0 r1 : DWord) (d : List DWord) (s : State) :
    (writeCpl l own n r0 r1 d s).mem = s.mem := by
  unfold writeCpl
  extract_lets
  rw [raiseVec_mem, State.modHub_mem, bar0SetD_mem]

@[simp] theorem mgmtNext_mem (n : Nat) (s : State) : (mgmtNext n s).mem = s.mem := by
  induction n generalizing s with
  | zero => rfl
  | succ n ih =>
    simp only [mgmtNext]
    split
    · rfl
    · split
      · split <;> simp [ih]
      · split
        · rfl
        · split <;> simp [ih]

@[simp] theorem mgmtOwn_mem (s : State) : (mgmtOwn s).mem = s.mem := by
  simp only [mgmtOwn]
  split <;> rfl

@[simp] theorem mgmtLook_mem (s : State) : (mgmtLook s).mem = s.mem := by simp [mgmtLook]

/-! ## Counters and requests at the banks -/

@[simp] theorem State.count_mem (s : State) (t : TileId) (ev : Nat) (k : Option CoreId) (m : Nat) : (s.count t ev k m).mem = s.mem := rfl
@[simp] theorem State.count_hub (s : State) (t : TileId) (ev : Nat) (k : Option CoreId) (m : Nat) : (s.count t ev k m).hub = s.hub := rfl

@[simp] theorem countRead_mem (mpa n : Nat) (s : State) : (countRead mpa n s).mem = s.mem := by
  unfold countRead
  split <;> rfl

@[simp] theorem countRead_hub (mpa n : Nat) (s : State) : (countRead mpa n s).hub = s.hub := by
  unfold countRead
  split <;> rfl

@[simp] theorem askCore_mem (who : Asker) (c : Nat) (rows : List Nat) (t : TileId) (k : CoreId) (s : State) :
    (askCore who c rows t k s).mem = s.mem := by
  unfold askCore
  extract_lets
  split <;> rfl

@[simp] theorem askCore_hub (who : Asker) (c : Nat) (rows : List Nat) (t : TileId) (k : CoreId) (s : State) :
    (askCore who c rows t k s).hub = s.hub := by
  unfold askCore
  extract_lets
  split <;> rfl

@[simp] theorem askRows_mem (who : TileId → CoreId → Asker) (rows : List Nat) (s : State) : (askRows who rows s).mem = s.mem :=
  List.foldlRecOn (motive := fun u : State => u.mem = s.mem) _ _ rfl fun u hu _ _ => (askCore_mem _ _ _ _ _ u).trans hu

@[simp] theorem askRows_hub (who : TileId → CoreId → Asker) (rows : List Nat) (s : State) : (askRows who rows s).hub = s.hub :=
  List.foldlRecOn (motive := fun u : State => u.hub = s.hub) _ _ rfl fun u hu _ _ => (askCore_hub _ _ _ _ _ u).trans hu

end Sys2Proof.Machine
end

section
/-!
PROOFS. The accesses of the host: the link and MSI-X (R33, R34, R421), BAR2 (R31, R32), and register writes (R30,
R34, R38, R41, R47, R48, R50, R51, R419).
-/
namespace Sys2Proof.Machine

/-! ## The link and MSI-X -/

/-- While the link is up, the pending vectors that are not masked are sent, and the masked ones stay (R34). -/
theorem sendPending_up (s : State) (h : s.hub.linkUp = true) : sendPending s = s.modHub fun y =>
    { y with
      msixOut := y.msixOut ++ y.msixPend.filter fun n => !y.msixMask.get n true
      msixPend := y.msixPend.filter fun n => y.msixMask.get n true } := by
  simp only [sendPending, State.modHub, h, if_true]

@[simp] theorem sendPending_mem (s : State) : (sendPending s).mem = s.mem := rfl

@[simp] theorem sendPending_msixMask (s : State) : (sendPending s).hub.msixMask = s.hub.msixMask := by
  simp only [sendPending, State.modHub]
  split <;> rfl

@[simp] theorem setMask_mem (n : Nat) (b : Bool) (s : State) : (setMask n b s).mem = s.mem := rfl

@[simp] theorem setMask_msixMask (n : Nat) (b : Bool) (s : State) : (setMask n b s).hub.msixMask = s.hub.msixMask.set n b := by
  simp [setMask, State.modHub]

/-- A vector unmasked while the link is up is no longer pending, and is sent if it was (R34). -/
theorem setMask_unmask_up (n : Nat) (s : State) (h : s.hub.linkUp = true) :
    n ∉ (setMask n false s).hub.msixPend ∧ (n ∈ s.hub.msixPend → n ∈ (setMask n false s).hub.msixOut) := by
  have hu : (s.modHub fun y => { y with msixMask := y.msixMask.set n false }).hub.linkUp = true := h
  rw [setMask, sendPending_up _ hu]
  exact ⟨by simp [State.modHub], fun hn => by simp [State.modHub, hn]⟩

/-- The link goes down: a record, and nothing in memory (R421). -/
theorem linkDown_records (s : State) : ∃ u, exec .linkDown s = .next u ∧ u.hub.linkUp = false ∧ u.hub.rseq = s.hub.rseq + 1 ∧
    u.mem = s.mem := by
  obtain ⟨hm, hl, -, hr⟩ := deliver_hostRec_frame 0 (s.modHub fun h => { h with linkUp := false, linkRecs := false })
    (code := .linkDown) rfl (by decide)
  exact ⟨_, rfl, hl, hr, hm⟩

/-- The state in which a retrained link has sent what it may (R34, R421). -/
def retrained (s : State) : State :=
  sendPending ((if !s.hub.linkUp && s.hub.linkRecs then raiseVec 0 s else s).modHub fun h =>
    { h with linkUp := true, linkRecs := false })

theorem execLinkRetrain_eq (w : BitVec 5) (r : BitVec 8) (s : State) :
    execLinkRetrain w r s = if w.toNat < 16 ∨ r.toNat < 64 then
      .next (deliver (hostRec .linkDegraded (BitVec.ofNat 64 (w.toNat + 256 * r.toNat))) (retrained s))
    else .next (retrained s) := rfl

/-- A retrained link is up, only masked vectors are pending, and no record is written (R34, R421). -/
theorem retrained_frame (s : State) : (retrained s).hub.linkUp = true ∧ (retrained s).mem = s.mem ∧
    (retrained s).hub.rseq = s.hub.rseq ∧ ∀ n ∈ (retrained s).hub.msixPend, (retrained s).hub.msixMask.get n true = true := by
  obtain ⟨p, o, hv⟩ := raiseVec_eq 0 s
  rw [retrained, hv, sendPending_up _ rfl]
  refine ⟨rfl, ?_, ?_, fun n hn => (List.mem_filter.1 hn).2⟩ <;> split <;> rfl

/-- A retrained link that is degraded is recorded, and no other (R421). -/
theorem linkRetrain_records (s : State) (w : BitVec 5) (r : BitVec 8) : ∃ u, exec (.linkRetrain w r) s = .next u ∧
    u.hub.linkUp = true ∧ u.mem = s.mem ∧
    (16 ≤ w.toNat → 64 ≤ r.toNat → u.hub.rseq = s.hub.rseq ∧ ∀ n ∈ u.hub.msixPend, u.hub.msixMask.get n true = true) ∧
    (w.toNat < 16 ∨ r.toNat < 64 → u.hub.rseq = s.hub.rseq + 1) := by
  obtain ⟨hup, hmem, hseq, hpend⟩ := retrained_frame s
  have he : exec (.linkRetrain w r) s = _ := execLinkRetrain_eq w r s
  by_cases hd : w.toNat < 16 ∨ r.toNat < 64
  · obtain ⟨hm, hl, -, hr⟩ := deliver_hostRec_frame (BitVec.ofNat 64 (w.toNat + 256 * r.toNat)) (retrained s)
      (code := .linkDegraded) rfl (by decide)
    rw [if_pos hd] at he
    exact ⟨_, he, hl.trans hup, hm.trans hmem, by omega, fun _ => by rw [hr, hseq]⟩
  · rw [if_neg hd] at he
    exact ⟨_, he, hup, hmem, fun _ _ => ⟨hseq, hpend⟩, fun h => absurd h hd⟩

/-- A vector unmasked (R34). -/
theorem msixUnmask_sends (s : State) (v : VectorId) : ∃ u, exec (.msixUnmask v) s = .next u ∧
    u.hub.msixMask.get v.val true = false ∧ u.mem = s.mem ∧
    (s.hub.linkUp = true → v.val ∉ u.hub.msixPend ∧ (v.val ∈ s.hub.msixPend → v.val ∈ u.hub.msixOut)) :=
  ⟨setMask v.val false s, rfl, by simp, rfl, setMask_unmask_up v.val s⟩

/-! ## BAR2 -/

/-- In READY, with no stream and nothing held, a read through BAR2 is served at once (R31, R32). -/
theorem bar2Read_ready {s : State} (off : BitVec 36) (hr : s.hub.stage = 0xE) (hs : s.hub.stream = none)
    (hh : s.hub.held2 = []) : exec (.bar2Read off) s = .next (readAperture off s) := by
  change execBar2Read off s = _
  simp [execBar2Read, State.restoring, hr, hs, hh]

/-- In READY, with no stream, a write through BAR2 is served at once (R31, R32). -/
theorem bar2Write_ready {s : State} (off : BitVec 36) (x : Word) (hr : s.hub.stage = 0xE) (hs : s.hub.stream = none) :
    exec (.bar2Write off x) s = .next (writeAperture off x s) := by
  change execBar2Write off x s = _
  simp [execBar2Write, hr, hs]

/-- A read that a slot serves returns the word and changes no byte (R32). -/
theorem readAperture_mapped {s : State} {off : BitVec 36} {p : Nat} (ha : s.aperture off false = some p)
    (hb : s.badIn p 4 = none) :
    (readAperture off s).hub.read2 = some (s.readWord p) ∧ (readAperture off s).mem = s.mem := by
  simp [readAperture, ha, hb, State.modHub]

/-- A read that nothing serves returns all ones and is recorded (R32). -/
theorem readAperture_unmapped {s : State} {off : BitVec 36} (ha : s.aperture off false = none) :
    (readAperture off s).hub.read2 = some 0xFFFFFFFF ∧ (readAperture off s).hub.rseq = s.hub.rseq + 1 ∧
      (readAperture off s).mem = s.mem := by
  obtain ⟨hm, -, h2, hr⟩ := deliver_hostRec_frame 0 (s.modHub fun h => { h with read2 := some (BitVec.allOnes 32) })
    (code := .apertureUnmapped) rfl (by decide)
  simp only [readAperture, ha]
  exact ⟨h2.trans (congrArg some (by decide : BitVec.allOnes 32 = 0xFFFFFFFF)), hr, hm⟩

/-- A write that a slot serves is performed at its home (R32). -/
theorem writeAperture_mapped {s : State} {off : BitVec 36} {p : Nat} (x : Word) (ha : s.aperture off true = some p)
    (hb : s.badPart p 4 = none) : writeAperture off x s = performWord p x (askRows (asUnit .host) [p] s) := by
  simp only [writeAperture, ha, hb]

/-- A write that nothing serves is recorded and changes no byte (R32). -/
theorem writeAperture_unmapped {s : State} {off : BitVec 36} (x : Word) (ha : s.aperture off true = none) :
    (writeAperture off x s).mem = s.mem ∧ (writeAperture off x s).hub.rseq = s.hub.rseq + 1 := by
  obtain ⟨hm, -, -, hr⟩ := deliver_hostRec_frame 0 s (code := .apertureUnmapped) rfl (by decide)
  simp only [writeAperture, ha]
  exact ⟨hm, hr⟩

/-- Before READY a write through BAR2 changes nothing (R40). -/
theorem bar2Write_notReady {s : State} (off : BitVec 36) (x : Word) (hr : s.hub.stage ≠ 0xE) :
    exec (.bar2Write off x) s = .next s := if_pos hr

/-! ## Register writes -/

@[simp] theorem bar0Put_mem (o : Nat) (x : Word) (s : State) : (bar0Put o x s).mem = s.mem := rfl

@[simp] theorem mailReply_mem (n : Nat) (r : DWord) (p : Word) (s : State) : (mailReply n r p s).mem = s.mem := by
  unfold mailReply
  extract_lets
  rw [raiseVec_mem, State.modHub_mem, bar0SetD_mem]

@[simp] theorem mailDoorbell_mem (s : State) : (mailDoorbell s).mem = s.mem := by
  simp only [mailDoorbell]
  split
  · rfl
  · split <;> simp

@[simp] theorem mgmtKick_mem (s : State) : (mgmtKick s).mem = s.mem := by
  unfold mgmtKick
  split
  · simp
  · rfl

@[simp] theorem attestDoorbell_mem (s : State) : (attestDoorbell s).mem = s.mem := by
  unfold attestDoorbell
  split <;> rfl

/-- An instruction has one next state. -/
theorem next_unique {i : Instr} {s u v : State} (hu : exec i s = .next u) (hv : exec i s = .next v) : u = v :=
  Host.Outcome.next.inj (hu.symm.trans hv)

/-- An outcome with a next state, whose memory is that of s. -/
def KeepsMem (s : State) (r : Host.Outcome State Fault Refusal) : Prop := ∃ u, r = .next u ∧ u.mem = s.mem

theorem KeepsMem.next {s u : State} (h : u.mem = s.mem) : KeepsMem s (.next u) := ⟨u, rfl, h⟩

/-- A register write completes, and changes no byte of memory (R30). -/
theorem registerWrite_keepsMem (off : BitVec 24) (x : Word) (s : State) : KeepsMem s (exec (.registerWrite off x) s) := by
  change KeepsMem s (execRegisterWrite off x s)
  simp only [execRegisterWrite]
  refine iteInduction (motive := KeepsMem s) (fun _ => .next (by split <;> rfl)) fun _ => ?_
  refine iteInduction (motive := KeepsMem s) (fun _ => .next (by split <;> simp)) fun _ => ?_
  refine iteInduction (motive := KeepsMem s) (fun _ => .next rfl) fun _ => ?_
  refine iteInduction (motive := KeepsMem s) (fun _ => .next (by split <;> simp)) fun _ => ?_
  refine iteInduction (motive := KeepsMem s) (fun _ => .next (by split <;> rfl)) fun _ => ?_
  refine iteInduction (motive := KeepsMem s) (fun _ => .next rfl) fun _ => ?_
  refine iteInduction (motive := KeepsMem s) (fun _ => .next (by split <;> simp)) fun _ => ?_
  refine iteInduction (motive := KeepsMem s) (fun _ => .next (by split <;> rfl)) fun _ => ?_
  refine iteInduction (motive := KeepsMem s) (fun _ => .next rfl) fun _ => ?_
  refine iteInduction (motive := KeepsMem s) (fun _ => .next rfl) fun _ => ?_
  exact iteInduction (motive := KeepsMem s) (fun _ => .next (by split <;> simp)) fun _ => .next rfl

section
variable {off : BitVec 24} (x : Word) (s : State)

/-- BOOTSTAT: a 1 written to EARLY clears it (R41). -/
theorem registerWrite_bootstat (ho : off.toNat / 4 * 4 = 0x10) : exec (.registerWrite off x) s =
    .next (if x.getLsbD 27 then s.modHub fun h => { h with early := false } else s) := if_pos ho

/-- CMDPROD, while the host counts no more commands than the ring holds (R50). -/
theorem registerWrite_cmdprod (ho : off.toNat / 4 * 4 = 0x20000) : exec (.registerWrite off x) s =
    .next (if (x - s.hub.cmdcons).toNat ≤ 511 then mgmtKick (s.modHub fun h => { h with cmdprod := x }) else s) := by
  change execRegisterWrite off x s = _
  simp [execRegisterWrite, ho]

/-- The slots of the command ring keep what is written (R48). -/
theorem registerWrite_cmdSlot (h1 : 0x20040 ≤ off.toNat / 4 * 4) (h2 : off.toNat / 4 * 4 < 0x28000) :
    exec (.registerWrite off x) s = .next (bar0Put (off.toNat / 4 * 4) x s) := by
  change execRegisterWrite off x s = _
  simp only [execRegisterWrite]
  repeat rw [if_neg (by omega)]
  rw [if_pos ⟨h1, h2⟩]

/-- CPLCONS, while the host counts no more completions than there are (R51). -/
theorem registerWrite_cplcons (ho : off.toNat / 4 * 4 = 0x28004) : exec (.registerWrite off x) s =
    .next (if countOk x s.hub.cplprod then mgmtKick (s.modHub fun h => { h with cplcons := x }) else s) := by
  change execRegisterWrite off x s = _
  simp [execRegisterWrite, ho]

/-- The consumer count of the HOST ring, while the host counts no more records than there are (R419). -/
theorem registerWrite_faultCons (ho : off.toNat / 4 * 4 = 0x30004) : exec (.registerWrite off x) s =
    .next (if countOk x s.hub.faultProd then s.modHub fun h => { h with faultCons := x } else s) := by
  change execRegisterWrite off x s = _
  simp [execRegisterWrite, ho]

/-- The request of the mailbox keeps what is written (R38). -/
theorem registerWrite_mailRequest (h1 : 0x40000 ≤ off.toNat / 4 * 4) (h2 : off.toNat / 4 * 4 < 0x40040) :
    exec (.registerWrite off x) s = .next (bar0Put (off.toNat / 4 * 4) x s) := by
  change execRegisterWrite off x s = _
  simp only [execRegisterWrite]
  repeat rw [if_neg (by omega)]
  rw [if_pos ⟨h1, h2⟩]

/-- The doorbell of the mailbox (R38). -/
theorem registerWrite_mailDoorbell (ho : off.toNat / 4 * 4 = 0x40040) : exec (.registerWrite off x) s =
    .next (if x.getLsbD 0 then mailDoorbell s else s) := by
  change execRegisterWrite off x s = _
  simp [execRegisterWrite, ho]

/-- The fourth word of a vector's entry holds its mask (R34). -/
theorem registerWrite_vectorControl (h1 : 0x50000 ≤ off.toNat / 4 * 4) (h2 : off.toNat / 4 * 4 < 0x58000)
    (hc : off.toNat / 4 * 4 % 16 = 12) : exec (.registerWrite off x) s =
    .next (setMask ((off.toNat / 4 * 4 - 0x50000) / 16) (x.getLsbD 0) (bar0Put (off.toNat / 4 * 4) x s)) := by
  change execRegisterWrite off x s = _
  simp only [execRegisterWrite]
  repeat rw [if_neg (by omega)]
  rw [if_pos ⟨h1, h2⟩, if_pos hc]

/-- The host semaphore map keeps what is written, but for its reserved bits (R30, R33). -/
theorem registerWrite_semaphoreMap (h1 : 0x60000 ≤ off.toNat / 4 * 4) (h2 : off.toNat / 4 * 4 < 0x61FC0) :
    exec (.registerWrite off x) s = .next (bar0Put (off.toNat / 4 * 4) (x &&& 0xFFFFFCFF) s) := by
  change execRegisterWrite off x s = _
  simp only [execRegisterWrite]
  repeat rw [if_neg (by omega)]
  rw [if_pos ⟨h1, h2⟩]

/-- The doorbell of the attestation mailbox (R47). -/
theorem registerWrite_attest (ho : off.toNat / 4 * 4 = 0x100020) : exec (.registerWrite off x) s =
    .next (if x.getLsbD 0 then attestDoorbell s else s) := by
  change execRegisterWrite off x s = _
  simp [execRegisterWrite, ho]

/-- Every other offset ignores the write (R30). -/
theorem registerWrite_elsewhere
    (ho : off.toNat / 4 * 4 < 0x10 ∨ (0x14 ≤ off.toNat / 4 * 4 ∧ off.toNat / 4 * 4 < 0x10000) ∨
      (0x10040 ≤ off.toNat / 4 * 4 ∧ off.toNat / 4 * 4 < 0x20000) ∨ 0x100024 ≤ off.toNat / 4 * 4) :
    exec (.registerWrite off x) s = .next s := by
  change execRegisterWrite off x s = _
  simp only [execRegisterWrite]
  repeat rw [if_neg (by omega)]

end

/-! ## Every access -/

/-- Settles O52: the link and MSI-X, BAR2 through its slots, and each register by its offset. -/
theorem hostAccessesComplete : Obligations.HostAccessesComplete := by
  intro s
  refine ⟨linkDown_records s, linkRetrain_records s, msixUnmask_sends s, rfl, ?_, fun off x hr => bar2Write_notReady off x hr, ?_⟩
  · intro hr hs off x
    refine ⟨fun p hh ha hb => ?_, fun hh ha => ?_, fun p ha hb => ?_, fun ha => ?_⟩
    · exact ⟨_, bar2Read_ready off hr hs hh, readAperture_mapped ha hb⟩
    · exact ⟨_, bar2Read_ready off hr hs hh, readAperture_unmapped ha⟩
    · rw [bar2Write_ready off x hr hs, writeAperture_mapped x ha hb]
    · exact ⟨_, bar2Write_ready off x hr hs, writeAperture_unmapped x ha⟩
  · intro off x
    obtain ⟨u, hu, hm⟩ := registerWrite_keepsMem off x s
    refine ⟨u, hu, hm, fun ho => ?_, fun ho hc => ?_, fun ho hc => ?_, fun ho hc => ?_, fun ho hc => ?_, fun h1 h2 => ?_,
      fun h1 h2 => ?_, fun ho hx => ?_, fun h1 h2 hc => ?_, fun h1 h2 => ?_, fun ho hx ha => ?_, fun ho => ?_⟩
    · rw [next_unique hu (registerWrite_bootstat x s ho)]
      cases x.getLsbD 27 <;> simp [State.modHub]
    · rw [next_unique hu (registerWrite_faultCons x s ho), if_pos hc]
      rfl
    · rw [next_unique hu (registerWrite_faultCons x s ho), if_neg (by simp [hc])]
    · rw [next_unique hu (registerWrite_cplcons x s ho), if_neg (by simp [hc])]
    · rw [next_unique hu (registerWrite_cmdprod x s ho), if_neg (by omega)]
    · rw [next_unique hu (registerWrite_cmdSlot x s h1 h2)]
      exact Tbl.get_set _ _ _ _
    · rw [next_unique hu (registerWrite_mailRequest x s h1 h2)]
      exact Tbl.get_set _ _ _ _
    · rw [next_unique hu (registerWrite_mailDoorbell x s ho), if_neg (Bool.eq_false_iff.1 hx)]
    · rw [next_unique hu (registerWrite_vectorControl x s h1 h2 hc), setMask_msixMask]
      exact Tbl.get_set _ _ _ _
    · rw [next_unique hu (registerWrite_semaphoreMap x s h1 h2)]
      exact Tbl.get_set _ _ _ _
    · rw [next_unique hu (registerWrite_attest x s ho), if_pos hx, attestDoorbell, if_neg ha]
      exact ⟨rfl, rfl⟩
    · exact next_unique hu (registerWrite_elsewhere x s ho)

end Sys2Proof.Machine
end
